-- ==== Sys2Proof/Word.lean ====
section
/-! DEFINITION. The word types of the Strelelle 9640 model (R73, R8). -/

namespace Sys2Proof

/-- A 64-bit register, instruction word or address value (R17, R33, R73). -/
abbrev Word := BitVec 64

/-- The smallest addressable unit of memory and of the register space (R250, R32). -/
abbrev Byte := BitVec 8

end Sys2Proof
end

