-- ==== Sys2Proof/Config.lean ====
section
/-! DEFINITION. What the manual leaves open: free values, as constants with no body, so that no proof can see what
they are and a claim holds whatever they are. -/

namespace Sys2Proof.Config

/-- The value a Strelelle part delivers for transcendental `op` (0 VRCP, 1 VRSQ, 2 VEXP2, 3 VLOG2, 4 VSIN, 5 VTANH) on
an F32 input that R67 gives no fixed case: one fixed function (R68), used only where it meets the bound of R67.
DESIGN CHOICE, log entry 3. -/
opaque transF32 : Nat → Nat → Nat

/-- A byte whose value the manual leaves unspecified (R43, R218, R308, R329): applied to the state's counter and a position.
DESIGN CHOICE, log entry 4. -/
opaque freeByte : Nat → Nat → BitVec 8

/-- What the 64 bytes of a sector written under one key slot decrypt to under another (R329): the two slots, the sector's
address and its bytes. DESIGN CHOICE, log entry 4. -/
opaque cross : Nat → Nat → Nat → Nat → Nat

/-- A bit for a choice the manual leaves to the part (R75, R320): applied to the state's counter and a position.
DESIGN CHOICE, log entry 5. -/
opaque freeBit : Nat → Nat → Bool

/-- The rate in ppm to which discipline steers the Reticle counter after an exchange (R360, R361): applied to the state's counter
and the measured offset, doubled; used only within 50 either way. DESIGN CHOICE, log entry 5. -/
opaque freeRate : Nat → Int → Int

/-- The channel of its stack that a physical address uses, which is not architected (R316). DESIGN CHOICE, log entry 5. -/
opaque channel : Nat → Nat

/-- Packets that the buffer of one virtual channel at the far end of a die link holds (R337). DESIGN CHOICE, log entry 5. -/
opaque vcSlots : Nat

/-- The page of a 64 KiB group whose entry an access uses where the 16 entries do not agree (R320): the state's counter and the group.
DESIGN CHOICE, log entry 5. -/
opaque groupEntry : Nat → Nat → Nat

/-- The row of an HBM4 stack in which a physical address lies (R388). DESIGN CHOICE, log entry 5. -/
opaque hbmRow : Nat → Nat

/-- Whether an SLH-DSA-SHA2-128s signature verifies (R397, R398): header digest, public key, signature. The algorithm
is outside the manual. DESIGN CHOICE, log entry 6. -/
opaque sigVerifies : Nat → Nat → Nat → Bool

/-- A digest or key the manual derives by an algorithm it only names (R400, R401, R404). DESIGN CHOICE, log entry 6. -/
opaque derive : Nat → Nat → BitVec 256

/-- The 16-byte tag of AES-256-GCM (R348, R350, R353): key, nonce, and the bytes that it protects. The algorithm is outside the manual.
DESIGN CHOICE, log entry 6. -/
opaque gcmTag : BitVec 256 → Nat → Nat → BitVec 128

/-- The digest of the root to which a certificate chain leads, where every signature of it verifies (R403): the algorithm is outside the
manual. DESIGN CHOICE, log entry 6. -/
opaque chainRoot : Nat → Option (BitVec 256)

end Sys2Proof.Config
end

