-- ==== Sys2Proof/Machine/Tab.lean ====
section
/-! DEFINITION. The two plain-data stores of the model: `Memory`, a list of (address, byte) pairs in one canonical
form, and `Tab`, a sorted list of (key, value) pairs read with a default; with the bit-field and sign-extension
helpers that every later file uses. -/

namespace Sys2Proof

/-! ## Bit fields -/

/-- Bits [hi:lo] of `x` as an unsigned integer (R14). -/
def bits (x hi lo : Nat) : Nat := x / 2 ^ lo % 2 ^ (hi - lo + 1)

/-- Bit `i` of `x` (R14). -/
def bit (x i : Nat) : Bool := x / 2 ^ i % 2 == 1

/-- `sext(x, n)` of R14: the low `n` bits of `x` read as two's complement. -/
def sext (x n : Nat) : Int :=
  if x % 2 ^ n < 2 ^ (n - 1) then ((x % 2 ^ n : Nat) : Int) else ((x % 2 ^ n : Nat) : Int) - ((2 ^ n : Nat) : Int)

/-- An integer modulo 2^n, as a natural number (R14). -/
def wrap (n : Nat) (x : Int) : Nat := (x % ((2 ^ n : Nat) : Int)).toNat

/-- An integer modulo 2^64 as a register value (R92). -/
def toW (x : Int) : Word := BitVec.ofNat 64 (wrap 64 x)

/-- The number of set bits among the low `n` bits of `x`. -/
def popCount : Nat → Nat → Nat
  | 0, _ => 0
  | n + 1, x => x % 2 + popCount n (x / 2)

/-- The positions of the set bits of `x` below `n`, ascending. -/
def setBits (n x : Nat) : List Nat := (List.range n).filter (bit x)

/-- The number formed by the bits at the listed positions. -/
def ofBits (l : List Nat) : Nat := l.foldl (fun a i => a ||| 2 ^ i) 0

/-- `ceil(a / b)` for b > 0 (R171). -/
def ceilDiv (a b : Nat) : Nat := (a + b - 1) / b

/-! ## Tables -/

/-- A finite table: keys strictly rising, unlisted keys read as a default. -/
abbrev Tab (α : Type) := List (Nat × α)

namespace Tab

/-- The value at key `k`, `d` where none is listed. -/
def get {α : Type} (d : α) (k : Nat) : Tab α → α
  | [] => d
  | (j, a) :: t => if j = k then a else get d k t

/-- Write `v` at key `k`, keeping the keys rising. -/
def set {α : Type} (k : Nat) (v : α) : Tab α → Tab α
  | [] => [(k, v)]
  | (j, a) :: t =>
    if k < j then (k, v) :: (j, a) :: t
    else if j = k then (k, v) :: t
    else (j, a) :: set k v t

/-- Remove key `k`. -/
def del {α : Type} (k : Nat) : Tab α → Tab α
  | [] => []
  | (j, a) :: t => if j = k then t else (j, a) :: del k t

/-- The listed value at `k`, if any. -/
def find {α : Type} (k : Nat) : Tab α → Option α
  | [] => none
  | (j, a) :: t => if j = k then some a else find k t

end Tab

/-! ## Memory -/

/-- A byte store: (address, byte) pairs, addresses strictly rising, no entry equal to zero, which is what an unlisted
address reads as: cold reset writes every byte of memory and of the register space zero (R381, R32). -/
abbrev Memory := List Host.Cell

namespace Memory

/-- What an unlisted address reads as (R381 step 2). -/
def unlisted : Byte := 0

/-- The canonical form: addresses strictly rising from `lo`, no listed byte equal to `unlisted`. -/
def wfFrom (lo : Nat) : Memory → Bool
  | [] => true
  | (a, b) :: t => decide (lo ≤ a) && (b != unlisted) && wfFrom (a + 1) t

/-- The canonical form of a memory. -/
def wf (m : Memory) : Bool := wfFrom 0 m

/-- The byte at address `a`. -/
def read (a : Nat) : Memory → Byte
  | [] => unlisted
  | (j, b) :: t => if j = a then b else read a t

/-- Store byte `v` at address `a`; a byte that becomes what an unlisted address reads as is no longer listed. -/
def write (a : Nat) (v : Byte) : Memory → Memory
  | [] => if v = unlisted then [] else [(a, v)]
  | (j, b) :: t =>
    if a < j then (if v = unlisted then (j, b) :: t else (a, v) :: (j, b) :: t)
    else if j = a then (if v = unlisted then t else (a, v) :: t)
    else (j, b) :: write a v t

/-- `n` bytes from `a`, little-endian, as a number (R8). -/
def readN (m : Memory) (a : Nat) : Nat → Nat
  | 0 => 0
  | n + 1 => (read a m).toNat + 256 * readN m (a + 1) n

/-- Store the low `n` bytes of `v` at `a`, little-endian (R8). -/
def writeN (m : Memory) (a : Nat) : Nat → Nat → Memory
  | 0, _ => m
  | n + 1, v => writeN (write a (BitVec.ofNat 8 v) m) (a + 1) n (v / 256)

/-- The `n` bytes from `a` as a list. -/
def readL (m : Memory) (a n : Nat) : List Byte := (List.range n).map fun i => read (a + i) m

/-- Store a list of bytes from `a`. -/
def writeL (m : Memory) (a : Nat) : List Byte → Memory
  | [] => m
  | b :: t => writeL (write a b m) (a + 1) t

/-- Set `n` bytes from `a` to zero. -/
def clear (m : Memory) (a n : Nat) : Memory := m.filter fun c => decide (c.1 < a ∨ a + n ≤ c.1)

end Memory

end Sys2Proof
end

