-- ==== Sys2Proof/Machine/Num.lean ====
section
/-! DEFINITION. Number formats and exact arithmetic (R52 to R68): the formats, exact values, the one rounding
function, conversions, stochastic rounding and the bounded transcendentals. -/

namespace Sys2Proof.Machine

/-- The element formats by TYPE code (R52, R56). -/
inductive ETy where
  | f32 | bf16 | f16 | e4m3 | e5m2 | e3m2 | e2m1 | i32 | i16 | i8 | i4 | n32 | n16 | n8 | f64 | e8m0
deriving DecidableEq, Repr

/-- The format of a TYPE code (R52, R56). -/
def ETy.ofCode : Nat → ETy
  | 0 => .f32 | 1 => .bf16 | 2 => .f16 | 3 => .e4m3 | 4 => .e5m2 | 5 => .e3m2 | 6 => .e2m1 | 7 => .i32
  | 8 => .i16 | 9 => .i8 | 10 => .i4 | 11 => .n32 | 12 => .n16 | 13 => .n8 | 14 => .f64 | _ => .e8m0

/-- Width in bits (R52, R56). -/
def ETy.width : ETy → Nat
  | .f64 => 64 | .f32 | .i32 | .n32 => 32 | .bf16 | .f16 | .i16 | .n16 => 16
  | .e5m2 | .e4m3 | .i8 | .n8 | .e8m0 => 8 | .e3m2 => 6 | .e2m1 | .i4 => 4

/-- A floating-point format, E8M0 included. -/
def ETy.isFloat : ETy → Bool
  | .i32 | .i16 | .i8 | .i4 | .n32 | .n16 | .n8 => false
  | _ => true

/-- A signed integer format. -/
def ETy.isSigned : ETy → Bool
  | .i32 | .i16 | .i8 | .i4 => true
  | _ => false

/-- Mantissa width (R52). -/
def ETy.mant : ETy → Nat
  | .f64 => 52 | .f32 => 23 | .bf16 => 7 | .f16 => 10 | .e5m2 => 2 | .e4m3 => 3 | .e3m2 => 2 | .e2m1 => 1 | _ => 0

/-- Exponent bias (R52). -/
def ETy.bias : ETy → Nat
  | .f64 => 1023 | .f32 | .bf16 | .e8m0 => 127 | .f16 | .e5m2 => 15 | .e4m3 => 7 | .e3m2 => 3 | .e2m1 => 1 | _ => 0

/-- Formats whose all-ones exponent encodes infinity and NaN (R53). -/
def ETy.ieee : ETy → Bool
  | .f64 | .f32 | .bf16 | .f16 | .e5m2 => true
  | _ => false

/-- An exact rational number `num / den` with `den > 0`. -/
structure Q where
  num : Int
  den : Nat
deriving DecidableEq, Repr

namespace Q
/-- `n × 2^e`. -/
def pow2 (n : Int) (e : Int) : Q :=
  if 0 ≤ e then ⟨n * ((2 ^ e.toNat : Nat) : Int), 1⟩ else ⟨n, 2 ^ (-e).toNat⟩
def add (a b : Q) : Q := ⟨a.num * (b.den : Int) + b.num * (a.den : Int), a.den * b.den⟩
def neg (a : Q) : Q := ⟨-a.num, a.den⟩
def sub (a b : Q) : Q := a.add b.neg
def mul (a b : Q) : Q := ⟨a.num * b.num, a.den * b.den⟩
/-- `a / b` for `b ≠ 0`. -/
def div (a b : Q) : Q :=
  if b.num < 0 then ⟨-(a.num * (b.den : Int)), a.den * b.num.natAbs⟩ else ⟨a.num * (b.den : Int), a.den * b.num.natAbs⟩
def lt (a b : Q) : Bool := decide (a.num * (b.den : Int) < b.num * (a.den : Int))
def le (a b : Q) : Bool := decide (a.num * (b.den : Int) ≤ b.num * (a.den : Int))
def abs (a : Q) : Q := ⟨(a.num.natAbs : Nat), a.den⟩
def ofInt (n : Int) : Q := ⟨n, 1⟩
/-- The largest integer not above the value. -/
def floor (a : Q) : Int := a.num / (a.den : Int)
/-- `floor(log2 |a|)` for `a ≠ 0`. -/
def ilog2 (a : Q) : Int :=
  let e : Int := (Nat.log2 a.num.natAbs : Int) - (Nat.log2 a.den : Int)
  if (pow2 1 e).le a.abs then e else e - 1
end Q

/-- An exact value, an infinity or a NaN; zeros carry their sign (R14, R53). -/
inductive XR where
  | nan
  | inf (neg : Bool)
  | zero (neg : Bool)
  | fin (q : Q)
deriving DecidableEq, Repr

namespace XR
/-- An exact rational as a value; zero is +0. -/
def ofQ (q : Q) : XR := if q.num = 0 then .zero false else .fin q
def ofInt (n : Int) : XR := ofQ ⟨n, 1⟩
/-- Sign bit. -/
def sign : XR → Bool
  | .nan => false | .inf s => s | .zero s => s | .fin q => decide (q.num < 0)
def isNan : XR → Bool
  | .nan => true | _ => false
def neg : XR → XR
  | .nan => .nan | .inf s => .inf (!s) | .zero s => .zero (!s) | .fin q => .fin q.neg
/-- The value as a rational, zero for zeros, infinities and NaN. -/
def q : XR → Q
  | .fin q => q | _ => ⟨0, 1⟩
end XR

/-- The value of an encoding (R53, R54, R59): NaN encodings alike, subnormals at their value. -/
def decodeF (t : ETy) (v : Nat) : XR :=
  let x := v % 2 ^ t.width
  match t with
  | .e8m0 => if x = 0xFF then .nan else .fin (Q.pow2 1 ((x : Int) - 127))
  | _ =>
    let m := x % 2 ^ t.mant
    let s := bit x (t.width - 1)
    let eb := t.width - 1 - t.mant
    let e := x / 2 ^ t.mant % 2 ^ eb
    let sg : Int := if s then -1 else 1
    if t.ieee && e = 2 ^ eb - 1 then (if m = 0 then .inf s else .nan)
    else if t = .e4m3 && e = 15 && m = 7 then .nan
    else if e = 0 then
      (if m = 0 then .zero s else .fin (Q.pow2 (sg * (m : Int)) (1 - (t.bias : Int) - (t.mant : Int))))
    else .fin (Q.pow2 (sg * ((2 ^ t.mant + m : Nat) : Int)) ((e : Int) - (t.bias : Int) - (t.mant : Int)))

/-- The canonical NaN of a format (R54); +max for the formats that have none (R61). -/
def nanOf : ETy → Nat
  | .f64 => 0x7FF8000000000000 | .f32 => 0x7FC00000 | .bf16 => 0x7FC0 | .f16 => 0x7E00 | .e5m2 => 0x7E
  | .e4m3 => 0x7F | .e8m0 => 0xFF | .e3m2 => 0x1F | .e2m1 => 0x7 | _ => 0

/-- The encoding of +max (R52). -/
def maxOf : ETy → Nat
  | .f64 => 0x7FEFFFFFFFFFFFFF | .f32 => 0x7F7FFFFF | .bf16 => 0x7F7F | .f16 => 0x7BFF | .e5m2 => 0x7B
  | .e4m3 => 0x7E | .e3m2 => 0x1F | .e2m1 => 0x7 | .e8m0 => 0xFE | _ => 0

/-- The encoding of +∞; +max for the formats that have none, 0x7F under .nan for E4M3 (R61). -/
def infOf (t : ETy) (nanForm : Bool) : Nat :=
  match t with
  | .f64 => 0x7FF0000000000000 | .f32 => 0x7F800000 | .bf16 => 0x7F80 | .f16 => 0x7C00 | .e5m2 => 0x7C
  | .e4m3 => if nanForm then 0x7F else 0x7E
  | t => maxOf t

/-- Set the sign bit of an encoding. -/
def withSign (t : ETy) (s : Bool) (x : Nat) : Nat := if s then x + 2 ^ (t.width - 1) else x

/-- The place of |x| in the lattice of R62: the largest lattice value not above it is `q × 2^e`, and |x| exceeds it by
`r / d` of one lattice step. -/
structure Place where
  q : Nat
  e : Int
  r : Nat
  d : Nat
deriving DecidableEq, Repr

/-- The lattice of format `t` at a nonzero value (R62). -/
def latticeAt (t : ETy) (x : Q) : Place :=
  let e0 := x.ilog2
  let emin : Int := 1 - (t.bias : Int)
  let qe : Int := (if e0 < emin then emin else e0) - (t.mant : Int)
  let n := x.num.natAbs
  let n' := if qe < 0 then n * 2 ^ (-qe).toNat else n
  let d' := if qe < 0 then x.den else x.den * 2 ^ qe.toNat
  ⟨n' / d', qe, n' % d', d'⟩

/-- Encode the magnitude `q × 2^e` of a lattice value within the format. -/
def encodeMag (t : ETy) (q : Nat) (e : Int) : Nat :=
  let (q, e) := if q = 2 ^ (t.mant + 1) then (q / 2, e + 1) else (q, e)
  if q < 2 ^ t.mant then q
  else (e + (t.mant : Int) + (t.bias : Int)).toNat * 2 ^ t.mant + (q - 2 ^ t.mant)

/-- Whether the magnitude `q × 2^e` exceeds the format's max finite value (R62). -/
def overMax (t : ETy) (q : Nat) (e : Int) : Bool :=
  match decodeF t (maxOf t) with
  | .fin m => m.lt (Q.pow2 (q : Int) e)
  | _ => false

/-- The overflow mapping of R61. -/
def ovfResult (t : ETy) (mode : Nat) (nanForm neg : Bool) : Nat :=
  if t = .e4m3 && nanForm then 0x7F
  else if t.ieee then
    let toInf := mode = 0 || (mode = 2 && !neg) || (mode = 3 && neg)
    withSign t neg (if toInf then infOf t false else maxOf t)
  else withSign t neg (maxOf t)

/-- round_fmt into E8M0 (R62): powers of two, clamped; anything not finite and positive gives 0xFF. -/
def roundE8M0 (mode : Nat) (x : XR) : Nat :=
  match x with
  | .fin q =>
    if q.num < 0 then 0xFF
    else
      let e := q.ilog2
      let lo := Q.pow2 1 e
      let up : Bool :=
        if lo.num * (q.den : Int) = q.num * (lo.den : Int) then false
        else if mode = 0 then
          let mid := Q.pow2 3 (e - 1)
          mid.lt q || (!q.lt mid && (e + 127) % 2 != 0)
        else mode = 2
      let e' := if up then e + 1 else e
      ((if e' < -127 then -127 else if 127 < e' then 127 else e') + 127).toNat
  | _ => 0xFF

/-- round_fmt of R62: the encoding in format `t` of an exact value under a rounding mode (0 RNE, 1 RZ, 2 RU, 3 RD);
`nanForm` selects the .nan column of R61 for E4M3. -/
def roundFmt (t : ETy) (mode : Nat) (x : XR) (nanForm : Bool := false) : Nat :=
  if t = .e8m0 then roundE8M0 mode x
  else
  match x with
  | .nan => nanOf t
  | .inf s => if t = .e4m3 && nanForm then 0x7F else withSign t s (infOf t nanForm)
  | .zero s => withSign t s 0
  | .fin v =>
    let neg := decide (v.num < 0)
    let p := latticeAt t v
    let up : Bool :=
      if p.r = 0 then false
      else if mode = 0 then decide (p.d < 2 * p.r) || (decide (2 * p.r = p.d) && p.q % 2 = 1)
      else if mode = 1 then false
      else if mode = 2 then !neg
      else neg
    let q := if up then p.q + 1 else p.q
    if overMax t q p.e then ovfResult t mode nanForm neg
    else withSign t neg (encodeMag t q p.e)

/-! ## Exact operations (R64) -/

/-- Exact product; 0 × ∞ is invalid. -/
def mulX : XR → XR → XR
  | .nan, _ => .nan
  | _, .nan => .nan
  | .inf _, .zero _ => .nan
  | .zero _, .inf _ => .nan
  | .inf s, b => .inf (s != b.sign)
  | a, .inf s => .inf (a.sign != s)
  | .zero s, b => .zero (s != b.sign)
  | a, .zero s => .zero (a.sign != s)
  | .fin a, .fin b => .fin (a.mul b)

/-- Exact sum; ∞ − ∞ is invalid; the sign of an exact zero sum follows R64, with −0 under RD. -/
def addX (mode : Nat) : XR → XR → XR
  | .nan, _ => .nan
  | _, .nan => .nan
  | .inf s, .inf t => if s = t then .inf s else .nan
  | .inf s, _ => .inf s
  | _, .inf t => .inf t
  | .zero s, .zero t => .zero (if s = t then s else decide (mode = 3))
  | .zero _, b => b
  | a, .zero _ => a
  | .fin a, .fin b => let q := a.add b; if q.num = 0 then .zero (decide (mode = 3)) else .fin q

/-- Exact quotient (R64, R99). -/
def divX : XR → XR → XR
  | .nan, _ => .nan
  | _, .nan => .nan
  | .inf _, .inf _ => .nan
  | .zero _, .zero _ => .nan
  | .inf s, b => .inf (s != b.sign)
  | a, .inf t => .zero (a.sign != t)
  | .zero s, b => .zero (s != b.sign)
  | a, .zero t => .inf (a.sign != t)
  | .fin a, .fin b => .fin (a.div b)

/-- Integer square root by bits: the largest r < 2^n with r² ≤ x. -/
def isqrt (x : Nat) : Nat → Nat → Nat
  | 0, r => r
  | n + 1, r => if (r + 2 ^ n) * (r + 2 ^ n) ≤ x then isqrt x n (r + 2 ^ n) else isqrt x n r

/-- A square root, exact to a sticky bit 64 bits or more below the leading bit, so that rounding it is correct (R64). -/
def sqrtQ (a : Q) : Q :=
  let k := 80 + (Nat.log2 a.den) + 1
  let n := a.num.natAbs * 4 ^ k / a.den
  let ex := decide (a.num.natAbs * 4 ^ k % a.den = 0)
  let r := isqrt n (Nat.log2 n / 2 + 1) 0
  if r * r = n && ex then ⟨(r : Int), 2 ^ k⟩ else ⟨((2 * r + 1 : Nat) : Int), 2 ^ (k + 1)⟩

/-- √x; √−0 = −0; the root of a negative nonzero value is invalid (R64, R99). -/
def sqrtX : XR → XR
  | .nan => .nan
  | .inf s => if s then .nan else .inf false
  | .zero s => .zero s
  | .fin q => if q.num < 0 then .nan else .fin (sqrtQ q)

/-- a < b on values that are not NaN, with −0 below +0 (R64). -/
def ltX (a b : XR) : Bool :=
  match a, b with
  | .inf s, .inf t => s && !t
  | .inf s, _ => s
  | _, .inf t => !t
  | .zero s, .zero t => s && !t
  | a, b => a.q.lt b.q

/-- a = b on values that are not NaN, zeros alike (R100). -/
def eqX (a b : XR) : Bool :=
  match a, b with
  | .inf s, .inf t => s == t
  | .inf _, _ => false
  | _, .inf _ => false
  | a, b => !a.q.lt b.q && !b.q.lt a.q

/-- Minimum of R64. -/
def minX (a b : XR) : XR := if a.isNan then b else if b.isNan then a else if ltX b a then b else a

/-- Maximum of R64. -/
def maxX (a b : XR) : XR := if a.isNan then b else if b.isNan then a else if ltX a b then b else a

/-- The exact sum of R70 with its special cases: NaN, infinities, and −0 only when every term is −0. -/
def sumX (l : List XR) : XR :=
  if l.any XR.isNan then .nan
  else if l.contains (.inf false) then (if l.contains (.inf true) then .nan else .inf false)
  else if l.contains (.inf true) then .inf true
  else
    let q := l.foldl (fun a x => a.add x.q) (Q.ofInt 0)
    if q.num = 0 then .zero (decide (l ≠ []) && l.all (fun x => x == .zero true)) else .fin q

/-! ## Integers (R56, R63) -/

/-- Smallest value of an integer format. -/
def ETy.imin (t : ETy) : Int := if t.isSigned then -((2 ^ (t.width - 1) : Nat) : Int) else 0

/-- Largest value of an integer format. -/
def ETy.imax (t : ETy) : Int :=
  if t.isSigned then ((2 ^ (t.width - 1) : Nat) : Int) - 1 else ((2 ^ t.width : Nat) : Int) - 1

/-- The value of an integer encoding. -/
def decodeI (t : ETy) (v : Nat) : Int := if t.isSigned then sext v t.width else ((v % 2 ^ t.width : Nat) : Int)

/-- Clamp to a range. -/
def clampI (lo hi x : Int) : Int := if x < lo then lo else if hi < x then hi else x

/-- Round an exact value to an integer under a mode (R63). -/
def roundInt (mode : Nat) (q : Q) : Int :=
  let f := q.floor
  let r := q.sub (Q.ofInt f)
  if r.num = 0 then f
  else
    let half : Q := ⟨1, 2⟩
    if mode = 0 then (if r.lt half then f else if half.lt r then f + 1 else if f % 2 = 0 then f else f + 1)
    else if mode = 1 then (if q.num < 0 then f + 1 else f)
    else if mode = 2 then f + 1
    else f

/-- A value to an integer range, rounded then saturated; NaN gives 0 (R63). -/
def toIntSat (mode : Nat) (lo hi : Int) : XR → Int
  | .nan => 0
  | .inf s => if s then lo else hi
  | .zero _ => clampI lo hi 0
  | .fin q => clampI lo hi (roundInt mode q)

/-- The value of an encoding of any format, for conversions. -/
def valueOf (t : ETy) (v : Nat) : XR := if t.isFloat then decodeF t v else XR.ofInt (decodeI t v)

/-- VCVT's conversion of an encoding (R158): round_fmt for float targets, R63 for float to integer, saturation for
integer to integer. -/
def convert (dst src : ETy) (mode : Nat) (nanForm : Bool) (v : Nat) : Nat :=
  if dst.isFloat then roundFmt dst mode (valueOf src v) nanForm
  else if src.isFloat then wrap dst.width (toIntSat mode dst.imin dst.imax (decodeF src v))
  else wrap dst.width (clampI dst.imin dst.imax (decodeI src v))

/-! ## Stochastic rounding (R65, R66) -/

/-- The random word of R65. -/
def srgen (key idx : Nat) : Nat :=
  let z := (key + 0x9E3779B97F4A7C15 * (idx + 1)) % 2 ^ 64
  let z := ((z ^^^ (z / 2 ^ 30)) * 0xBF58476D1CE9E5B9) % 2 ^ 64
  let z := ((z ^^^ (z / 2 ^ 27)) * 0x94D049BB133111EB) % 2 ^ 64
  let z := z ^^^ (z / 2 ^ 31)
  z / 2 ^ 32 % 2 ^ 32

/-- VCVTS of an F32 encoding into `t` (R66). -/
def convertS (t : ETy) (key idx v : Nat) : Nat :=
  match decodeF .f32 v with
  | .nan => nanOf t
  | .inf s => withSign t s (if t.ieee then infOf t false else maxOf t)
  | .zero s => withSign t s 0
  | .fin x =>
    let neg := decide (x.num < 0)
    let p := latticeAt t x
    let q :=
      if p.r = 0 then p.q
      else
        let r := if neg then p.d - p.r else p.r
        let hi := decide (srgen key idx < r * 2 ^ 32 / p.d)
        if hi != neg then p.q + 1 else p.q
    if overMax t q p.e then withSign t neg (maxOf t) else withSign t neg (encodeMag t q p.e)

/-! ## Transcendentals (R67, R68), computed in fixed point with 320 fractional bits -/

/-- Fractional bits of the fixed-point evaluation. -/
def fxBits : Nat := 320

/-- 1 in fixed point. -/
def fxOne : Int := ((2 ^ fxBits : Nat) : Int)

/-- A rational in fixed point, rounded down. -/
def toFx (a : Q) : Int := a.num * fxOne / (a.den : Int)

/-- Product in fixed point. -/
def fxMul (a b : Int) : Int := a * b / fxOne

/-- Σ term_k, term_0 = `t`, term_(k+1) = step k term_k, over `n` terms. -/
def fxSeries (step : Nat → Int → Int) : Nat → Nat → Int → Int
  | 0, _, _ => 0
  | n + 1, k, t => t + fxSeries step n (k + 1) (step k t)

/-- atanh(1/3) and ln 2 = 2 atanh(1/3), by the odd power series. -/
def fxLn2 : Int :=
  2 * ((List.range 110).foldl (fun a k => a + fxOne / (((2 * k + 1) * 3 ^ (2 * k + 1) : Nat) : Int)) 0)

/-- arctan(1/n) by its alternating series. -/
def fxAtanInv (n : Nat) : Int :=
  (List.range 150).foldl (fun a k =>
    let t := fxOne / (((2 * k + 1) * n ^ (2 * k + 1) : Nat) : Int)
    if k % 2 = 0 then a + t else a - t) 0

/-- π = 16 arctan(1/5) − 4 arctan(1/239). -/
def fxPi : Int := 16 * fxAtanInv 5 - 4 * fxAtanInv 239

/-- e^y for a fixed-point 0 ≤ y ≤ 1. -/
def fxExp (y : Int) : Int := fxSeries (fun k t => fxMul t y / ((k + 1 : Nat) : Int)) 90 0 fxOne

/-- ln m for 1 ≤ m < 2 in fixed point. -/
def fxLn (m : Int) : Int :=
  let z := (m - fxOne) * fxOne / (m + fxOne)
  let z2 := fxMul z z
  2 * (((List.range 110).foldl (fun (p : Int × Int) k => (p.1 + p.2 / ((2 * k + 1 : Nat) : Int), fxMul p.2 z2)) (0, z)).1)

/-- A fixed-point value as a rational. -/
def ofFx (x : Int) : Q := ⟨x, 2 ^ fxBits⟩

/-- 2^x. -/
def exp2Q (x : Q) : Q :=
  let n := x.floor
  (ofFx (fxExp (fxMul (toFx (x.sub (Q.ofInt n))) fxLn2))).mul (Q.pow2 1 n)

/-- log₂ x for x > 0. -/
def log2Q (x : Q) : Q :=
  let e := x.ilog2
  let m := toFx (x.mul (Q.pow2 1 (-e)))
  (Q.ofInt e).add ⟨fxLn m, fxLn2.toNat⟩

/-- sin x. -/
def sinQ (x : Q) : Q :=
  let y := toFx x % (2 * fxPi)
  let y := if fxPi < y then y - 2 * fxPi else y
  let y2 := fxMul y y
  ofFx (fxSeries (fun k t => -(fxMul t y2) / (((2 * k + 2) * (2 * k + 3) : Nat) : Int)) 90 0 y)

/-- tanh x for |x| < 9.1. -/
def tanhQ (x : Q) : Q :=
  let a := x.abs.mul (Q.ofInt 2)
  let n := a.floor.toNat
  let e1 := fxExp fxOne
  let en := (List.range n).foldl (fun t _ => fxMul t e1) fxOne
  let t := fxMul en (fxExp (toFx (a.sub (Q.ofInt n))))
  let r : Q := ⟨t - fxOne, (t + fxOne).toNat⟩
  if x.num < 0 then r.neg else r

/-- The spacing of F32 at an exact nonzero result (R67). -/
def ulpF32 (x : Q) : Q :=
  let e := x.ilog2
  if -126 ≤ e then Q.pow2 1 (e - 23) else Q.pow2 1 (-149)

/-- The delivered value for an exact result: the part's own value where it lies within `bound` of the exact one (and,
with `unit`, within [−1, 1]), else the exact result rounded towards zero, which does. DESIGN CHOICE, log entry 3. A zero that lies
within the bound is accepted with the sign of the exact result alone, on which R68 leaves the value open. DESIGN CHOICE, log entry 51. -/
def boundedFree (op v : Nat) (neg unit : Bool) (exact bound : Q) : Nat :=
  let c := Config.transF32 op v % 2 ^ 32
  let ok : Bool := match decodeF .f32 c with
    | .fin y => ((y.sub exact).abs).le bound && (!unit || y.abs.le (Q.ofInt 1))
    | .zero s => exact.abs.le bound && s == neg
    | _ => false
  if ok then c else roundFmt .f32 1 (if exact.num = 0 then .zero neg else .fin exact)

/-- Whether x is a power of two; its exponent. -/
def pow2Exp (x : Q) : Option Int :=
  let e := x.ilog2
  if x.num * ((Q.pow2 1 e).den : Int) = (Q.pow2 1 e).num * (x.den : Int) then some e else none

/-- The transcendental `op` (0 VRCP, 1 VRSQ, 2 VEXP2, 3 VLOG2, 4 VSIN, 5 VTANH) of an F32 encoding: the fixed cases of
R67 exactly, otherwise one fixed value within the bound (R68). DESIGN CHOICE, log entry 3. -/
def transF32 (op v : Nat) : Nat :=
  let x := decodeF .f32 v
  let nan := nanOf .f32
  match op with
  | 0 => match x with
    | .nan => nan
    | .zero s => withSign .f32 s 0x7F800000
    | .inf s => withSign .f32 s 0
    | .fin q =>
      let neg := decide (q.num < 0)
      if q.abs.lt (Q.pow2 1 (-128)) then withSign .f32 neg 0x7F800000
      else
        let r := (Q.ofInt 1).div q
        match pow2Exp q.abs with
        | some n => if -126 ≤ n ∧ n ≤ 126 then roundFmt .f32 0 (.fin r) else boundedFree op v neg false r (ulpF32 r)
        | none => boundedFree op v neg false r (ulpF32 r)
  | 1 => match x with
    | .nan => nan
    | .zero s => withSign .f32 s 0x7F800000
    | .inf s => if s then nan else 0
    | .fin q =>
      if q.num < 0 then nan
      else
        let r := (Q.ofInt 1).div (sqrtQ q)
        match pow2Exp q with
        | some n => if n % 2 = 0 then roundFmt .f32 0 (.fin (Q.pow2 1 (-(n / 2)))) else boundedFree op v false false r (ulpF32 r)
        | none => boundedFree op v false false r (ulpF32 r)
  | 2 => match x with
    | .nan => nan
    | .zero _ => 0x3F800000
    | .inf s => if s then 0 else 0x7F800000
    | .fin q =>
      if (Q.ofInt 128).le q then 0x7F800000
      else if q.lt (Q.ofInt (-150)) then 0
      else if q.num % (q.den : Int) = 0 ∧ -149 ≤ q.floor then roundFmt .f32 0 (.fin (Q.pow2 1 q.floor))
      else let r := exp2Q q; boundedFree op v false false r ((ulpF32 r).mul (Q.ofInt 2))
  | 3 => match x with
    | .nan => nan
    | .zero _ => 0xFF800000
    | .inf s => if s then nan else 0x7F800000
    | .fin q =>
      if q.num < 0 then nan
      else match pow2Exp q with
        | some n => roundFmt .f32 0 (XR.ofInt n)
        | none =>
          let r := log2Q q
          let u := (ulpF32 r).mul (Q.ofInt 2)
          let b := if (Q.pow2 1 (-1)).le q && q.le (Q.ofInt 2) && u.lt (Q.pow2 1 (-22)) then Q.pow2 1 (-22) else u
          boundedFree op v (decide (r.num < 0)) false r b
  | 4 => match x with
    | .nan => nan
    | .zero s => withSign .f32 s 0
    | .inf _ => nan
    | .fin q =>
      let r := sinQ q
      let b := if q.abs.le (Q.ofInt 65536) then (ulpF32 r).mul (Q.ofInt 2) else Q.pow2 1 (-22)
      boundedFree op v (decide (r.num < 0)) true r b
  | _ => match x with
    | .nan => nan
    | .zero s => withSign .f32 s 0
    | .inf s => withSign .f32 s 0x3F800000
    | .fin q =>
      let neg := decide (q.num < 0)
      if (⟨91, 10⟩ : Q).le q.abs then withSign .f32 neg 0x3F800000
      else let r := tanhQ q; boundedFree op v neg true r ((ulpF32 r).mul (Q.ofInt 2))

/-- A transcendental in a lane format: BF16 and F16 take the F32 result rounded once (R68). DESIGN CHOICE, log entry 3. -/
def transLane (op : Nat) (t : ETy) (v : Nat) : Nat :=
  if t = .f32 then transF32 op (v % 2 ^ 32)
  else roundFmt t 0 (decodeF .f32 (transF32 op (roundFmt .f32 0 (decodeF t v))))

/-! ## The block scale UE6M2 (R59) -/

/-- The value of a UE6M2 scale byte. -/
def decodeUE6M2 (v : Nat) : XR :=
  let v := v % 256
  if v = 0xFF then .nan
  else
    let e := v / 4
    let m := v % 4
    if e = 0 then XR.ofQ (Q.pow2 (m : Int) (-32)) else .fin (Q.pow2 ((4 + m : Nat) : Int) ((e : Int) - 33))

/-- Conversion into UE6M2 under RNE: above 0xFE gives 0xFE, NaN 0xFF, negative 0x00. -/
def roundUE6M2 : XR → Nat
  | .nan => 0xFF
  | .inf s => if s then 0 else 0xFE
  | .zero _ => 0
  | .fin v =>
    if v.num < 0 then 0
    else
      let e0 := v.ilog2
      let qe : Int := (if e0 < -30 then -30 else e0) - 2
      let n' := if qe < 0 then v.num.natAbs * 2 ^ (-qe).toNat else v.num.natAbs
      let d' := if qe < 0 then v.den else v.den * 2 ^ qe.toNat
      let q := n' / d'
      let r := n' % d'
      let q := if d' < 2 * r ∨ (2 * r = d' ∧ q % 2 = 1) then q + 1 else q
      let (q, qe) := if q = 8 then (4, qe + 1) else (q, qe)
      let enc := if q < 4 then q else (qe + 33).toNat * 4 + (q - 4)
      if 0xFE < enc then 0xFE else enc

end Sys2Proof.Machine
end

