-- ==== Sys2Proof/Syntax.lean ====
section
/-! DEFINITION. The instructions of the Strelelle 9640: the operand formats of R76, the plain data that arrives with
the steps of engines, host and group, and the ONE inductive `Instr` with a constructor per row of the table. -/

namespace Sys2Proof

/-- What executes an instruction: a strand kind of a task, or a conductor (R17, R82). -/
inductive Kind where
  | S | A | X | W | C
deriving DecidableEq, Repr

/-- An agent that issues instructions: a strand of a task slot, or a conductor (R249). -/
inductive Agent where
  | strand (cell slot : Nat) (k : Kind)
  | cond (n : Nat)
deriving DecidableEq, Repr

/-- Wait byte, signal byte and guard of an instruction word (R73). -/
structure Hdr where
  wb : Nat
  sb : Nat
  gd : Nat
deriving DecidableEq, Repr

/-- Format A: D[35:30], A[29:24], B[23:18], C[17:12], F[11:0] (R76). -/
structure FmtA where
  d : Nat
  a : Nat
  b : Nat
  c : Nat
  f : Nat
deriving DecidableEq, Repr

/-- Format I: D[35:30], A[29:24], IMM24[23:0] (R76). -/
structure FmtI where
  d : Nat
  a : Nat
  imm : Nat
deriving DecidableEq, Repr

/-- Format B: A[35:30], B[29:24], HINT[23:22], MBZ[21:20], DISP20[19:0] (R76). -/
structure FmtB where
  a : Nat
  b : Nat
  hint : Nat
  mbz : Nat
  disp : Nat
deriving DecidableEq, Repr

/-- Format M: D[35:30], BASE[29:24], CLASS[23:20], SCOPE[19:18], SIZE[17:15], QUAL[14:12], DISP12[11:0] (R76). -/
structure FmtM where
  d : Nat
  base : Nat
  cls : Nat
  scope : Nat
  size : Nat
  qual : Nat
  disp : Nat
deriving DecidableEq, Repr

/-- Format P: D[35:30], BASE[29:24], X[23:18], PEER[17:14], CLASS[13:10], SCOPE[9:8], SIZE[7:5], SUB[4:0] (R76). -/
structure FmtP where
  d : Nat
  base : Nat
  x : Nat
  peer : Nat
  cls : Nat
  scope : Nat
  size : Nat
  sub : Nat
deriving DecidableEq, Repr

/-- Format V: VD[35:31], VA[30:26], VB[25:21], VC[20:16], MASK[15:10], TYPE[9:6], ROUND[5:4], SUB[3:0] (R76). -/
structure FmtV where
  vd : Nat
  va : Nat
  vb : Nat
  vc : Nat
  mask : Nat
  ty : Nat
  rnd : Nat
  sub : Nat
deriving DecidableEq, Repr

/-- Format T: H[35:32], CO[31:28], K[27:26], SW[25], SX[24:19], VX[18:14], HINT[13:10], SUB[9:0] (R76). -/
structure FmtT where
  h : Nat
  co : Nat
  k : Nat
  sw : Nat
  sx : Nat
  vx : Nat
  hint : Nat
  sub : Nat
deriving DecidableEq, Repr

/-- Format X: AD[35:33], AB[32:30], HA[29:26], CA[25:22], HB[21:18], CB[17:14], K[13:12], SW[11], TYPES[10:7],
MODE[6:5], SUB[4:0] (R76). -/
structure FmtX where
  ad : Nat
  ab : Nat
  ha : Nat
  ca : Nat
  hb : Nat
  cb : Nat
  k : Nat
  sw : Nat
  types : Nat
  mode : Nat
  sub : Nat
deriving DecidableEq, Repr

/-- Format S: D[35:30], A[29:24], SYSREG[23:12], F[11:0] (R76). -/
structure FmtS where
  d : Nat
  a : Nat
  sysreg : Nat
  f : Nat
deriving DecidableEq, Repr

/-- Format Q: D[35:30], A[29:24], B[23:18], IDX[17:12], F[11:0] (R76). -/
structure FmtQ where
  d : Nat
  a : Nat
  b : Nat
  idx : Nat
  f : Nat
deriving DecidableEq, Repr

/-- Format Z: MBZ[35:0] (R76). -/
structure FmtZ where
  mbz : Nat
deriving DecidableEq, Repr

/-- The literal word of TFILLM: the follow-on MMA or MMAS (R74). -/
structure TfLit where
  sb : Nat
  mmas : Bool
  x : FmtX
deriving DecidableEq, Repr

/-! ## What arrives with the steps of engines, host and group -/

/-- Where a load is served: at the home (a coherent path, R251) or from the issuing die's remote-data cache (R254). -/
inductive Src where
  | home | rdc
deriving DecidableEq, Repr

/-- A tile version delivered by the home in member SRC (R244 step 4): version, data bytes, scale bytes. -/
structure RemoteTile where
  ver : Nat
  data : List Byte
  scale : List Byte
deriving DecidableEq, Repr

/-- The answer of a peer to a peer access: it performed (`old` is the value read, `late` the report of R133), or it
failed with a cause of R345 and a translation cause word of R326. -/
inductive PeerRes where
  | done (old : Word) (late : Bool)
  | failed (cause : Nat) (causeWord : Word)
  /-- a tile version that the home in this package delivers, or its answer that it has none (R244, R245) -/
  | tile (t : RemoteTile)
  | absent
deriving DecidableEq, Repr

/-- The kinds of peer access (R137, R138), and the request for a tile at its home in this package: tile, coordinates, descriptor and the
version asked for at least, none for the latest (R244). -/
inductive PeerOp where
  | load
  | store
  | amo (op : Nat)
  | cas
  | stat (t : Word)
  | mcst
  | tile (tid : Nat) (coord : Word) (desc : BitVec 512) (want : Option Nat)
deriving DecidableEq, Repr

/-- A peer access at the receiving hub (R345): sender, its message number, GROUPID, ea, kind and operands. -/
structure PeerReq where
  src : Nat
  num : Nat
  groupId : Nat
  ea : Word
  op : PeerOp
  size : Nat
  cls : Nat
  qual : Nat
  x : Word
  d : Word
deriving DecidableEq, Repr

/-- A version notice of a group-shared tensor (R246). -/
structure VerNotice where
  groupId : Nat
  tid : Nat
  coord : Word
  ver : Nat
  sender : Nat
  /-- address of the tile's first byte, at whose home the notice arrives (R240) -/
  va : Word
deriving DecidableEq, Repr

/-- A frame of λ0 (R353): the fields of its 64 bytes, its tag among them. -/
structure Frame where
  place : Nat
  kind : Nat
  sender : Nat
  epoch : Nat
  op : Nat
  size : Nat
  offset : Nat
  data : Word
  time : Word
  tag : BitVec 128 := 0
  /-- the wavelength, of a REGEN: every other frame is one of λ0 (R358) -/
  wave : Nat := 0
  /-- the wavelength's frame count within the epoch, which every receiver keeps (R406) -/
  count : Nat := 0
deriving DecidableEq, Repr

/-- A broadcast data frame of one of λ1 to λ7 for a collective (R350): a block of contributed bytes at an offset of SRC, with the
wavelength, the epoch, the frame count and the tag of R406. -/
structure DataFrame where
  sender : Nat
  wave : Nat
  offset : Nat
  bytes : List Byte
  epoch : Nat := 0
  count : Nat := 0
  tag : BitVec 128 := 0
deriving DecidableEq, Repr

/-- What becomes of a data frame at its receiver (R350, R358): it arrives; it is found to be lost, by sender, wavelength and count; it is
fetched from its sender; it cannot be recovered. -/
inductive DataEv where
  | frame (f : DataFrame)
  | missing (sender wave count : Nat)
  | fetched (f : DataFrame)
  | gone (sender wave count : Nat)
deriving DecidableEq, Repr

/-- A Glint marker (R352): the holder's index, the epoch, the holder's Reticle reading at transmission. -/
structure Marker where
  holder : Nat
  epoch : Nat
  reading : Word
deriving DecidableEq, Repr

/-- The messages of a KEY_UPDATE, in their order (R349): UpdateKey, its answer, VerifyNewKey, its acknowledgement. -/
inductive KeyMsg where
  | updateKey | updated | verifyNewKey | verified
deriving DecidableEq, Repr

/-- A 256-byte flit of a facet port (R341, R348): its sequence number, the key-generation bit, what it carries, its tag. -/
structure Flit where
  seq : Nat
  kg : Nat
  payload : Nat
  tag : BitVec 128
deriving DecidableEq, Repr

/-- What one other member presents of a collective (R364): its descriptor, and its source elements in order. -/
structure CollPeer where
  member : Nat
  desc : BitVec 512
  elems : List Word
deriving DecidableEq, Repr

/-- A host command record (R376); `mustBeZero` is its bytes 0x0D to 0x0F. -/
structure HostCmd where
  hseq : Word
  ctxid : Nat
  opc : Nat
  mustBeZero : Nat
  addr : Word
  arg0 : Word
  arg1 : Word
  arg2 : Word
deriving DecidableEq, Repr

/-- What a key bank of a facet port holds besides its flit counter (R348): an AES-256-GCM key and a salt. -/
structure LinkKey where
  key : BitVec 256
  salt : BitVec 32
deriving DecidableEq, Repr

/-- Group formation (R342, R360, R406): the live members, the package's own index, the largest Reticle reading and
the Prism group key. -/
structure GroupForm where
  members : Nat
  self : Nat
  reading : Word
  key : BitVec 256
  /-- one-way legs to the splitter as measured, in ticks, by member (R352) -/
  legs : List (Nat × Nat) := []
deriving DecidableEq, Repr

/-- What a power-up finds (R381, R388, R396): the fence map it applies, the Reticle skew of each die (R359), whether the boot
ROM's checks pass on a flash bank that holds the image of manufacture (R398), and the addresses whose rows have no spare.
DEDUCED, log entry 26. -/
structure PowerUp where
  fencedCells : Nat
  fencedDies : Nat
  skews : List Int
  ok0 : Bool
  ok1 : Bool
  unspared : List Nat
deriving DecidableEq, Repr

/-- A KEYSET request (R403): the SPDM channel whose session carries it (0 the host's DOE mailbox, n + 1 facet port n) and its payload. -/
structure KeySetReq where
  chan : Nat
  slot : Nat
  ctxid : Nat
  dataKey : BitVec 256
  tweakKey : BitVec 256
deriving DecidableEq, Repr

/-- The SPDM requests the hub answers (R401). PRESUMED, log entry 67. -/
inductive SpdmReq where
  | getVersion
  | getCapabilities
  /-- what the requester offers: bit 0 SHA-256, 1 SLH-DSA-SHA2-128f, 2 secp384r1, 3 AES-256-GCM -/
  | negotiateAlgorithms (offers : Nat)
  | getCertificate (slot : Nat)
  | getMeasurement (n : Nat)
  | keyExchange
  /-- the requester's certificate chain, where it authenticates itself -/
  | finish (chain : Option Nat)
  | endSession
deriving DecidableEq, Repr


/-- The answer of a member to a peer access (R136, R138). -/
structure MemberRes where
  member : Nat
  res : PeerRes
deriving DecidableEq, Repr

/-- A message of a key update, and the port at which it arrives (R349). -/
structure PortMsg where
  port : Nat
  msg : KeyMsg
deriving DecidableEq, Repr

/-- A renewed session of a port: the keys of its two directions, and whether the peer hub began it (R405). -/
structure NewSession where
  tx : LinkKey
  rx : LinkKey
  byPeer : Bool
deriving DecidableEq, Repr

/-- A slot of a wavelength: the marker of another member that arrives, none in the package's own slot (R352). -/
structure GlintEv where
  wave : Nat
  marker : Option Marker
deriving DecidableEq, Repr

/-- A lost frame of λ0: its place, and the sender in whose slot it was due (R352, R356). -/
structure LostFrame where
  place : Nat
  sender : Nat
deriving DecidableEq, Repr

/-- Where an access of the host lies in a BAR, and its bytes (R372). -/
structure HostAt where
  off : Nat
  size : Nat
deriving DecidableEq, Repr

/-- An SPDM request and its channel (R401). -/
structure SpdmMsg where
  chan : Nat
  req : SpdmReq
deriving DecidableEq, Repr

/-- What another member asks for: a frame of λ0 by its place, of another wavelength by its count (R356, R358). -/
structure FrameName where
  wave : Nat
  n : Nat
deriving DecidableEq, Repr

/-- A member's answer to the request for a lost frame of λ0: the frame, or that it lacks it too (R356). -/
structure FrameReply where
  member : Nat
  place : Nat
  frame : Option Frame
deriving DecidableEq, Repr

/-- After which place a replica was copied, and the live members and those that had joined then (R351). -/
structure CopyPoint where
  place : Nat
  live : Nat
  joined : Nat
deriving DecidableEq, Repr

/-- The one instruction type: one constructor per row of the table of operations and events. Rows with an
encoding carry the operand field of their format (R76); rows without one are steps of an engine, of the hub, of the host or of
the group, and carry what selects or arrives with the step. -/
inductive Instr where
  /-- ADD (R94): Writes the 64-bit sum of two s registers into sD. -/
  | add (x : FmtA)
  /-- ADDI (R94): Writes sA plus the sign-extended 24-bit immediate into sD. -/
  | addi (x : FmtI)
  /-- SUB (R94): Writes the 64-bit difference of two s registers into sD. -/
  | sub (x : FmtA)
  /-- MUL (R94): Writes the low 64 bits of a product into sD. -/
  | mul (x : FmtA)
  /-- MULH (R94): Writes the high 64 bits of a signed 128-bit product into sD. -/
  | mulh (x : FmtA)
  /-- MULHN (R94): Writes the high 64 bits of an unsigned 128-bit product into sD. -/
  | mulhn (x : FmtA)
  /-- MADD (R94): Writes the low 64 bits of a × b + c into sD. -/
  | madd (x : FmtA)
  /-- DIV (R96): Writes the signed quotient, truncated towards zero, with fixed results for a zero divisor and for overflow. -/
  | div (x : FmtA)
  /-- DIVN (R96): Writes the unsigned quotient, with a fixed result for a zero divisor. -/
  | divn (x : FmtA)
  /-- REM (R96): Writes the signed remainder, which takes the sign of a. -/
  | rem (x : FmtA)
  /-- REMN (R96): Writes the unsigned remainder. -/
  | remn (x : FmtA)
  /-- AND (R94): Writes the bitwise AND of two registers into sD. -/
  | and (x : FmtA)
  /-- ANDI (R94): Writes the bitwise AND of sA and the immediate into sD. -/
  | andi (x : FmtI)
  /-- OR (R94): Writes the bitwise OR of two registers into sD. -/
  | or (x : FmtA)
  /-- ORI (R94): Writes the bitwise OR of sA and the immediate into sD. -/
  | ori (x : FmtI)
  /-- XOR (R94): Writes the bitwise XOR of two registers into sD. -/
  | xor (x : FmtA)
  /-- ANDN (R94): Writes a AND NOT b into sD. -/
  | andn (x : FmtA)
  /-- SHL (R94): Shifts sA left by b[5:0]. -/
  | shl (x : FmtA)
  /-- SHLI (R94): Shifts sA left by an immediate amount. -/
  | shli (x : FmtI)
  /-- SHR (R94): Shifts sA right by b[5:0], filling with zeros. -/
  | shr (x : FmtA)
  /-- SHRI (R94): Shifts sA right by an immediate amount, filling with zeros. -/
  | shri (x : FmtI)
  /-- SHA (R94): Shifts sA right arithmetically by b[5:0]. -/
  | sha (x : FmtA)
  /-- SHAI (R94): Shifts sA right arithmetically by an immediate amount. -/
  | shai (x : FmtI)
  /-- ROL (R94): Rotates sA left by b[5:0]. -/
  | rol (x : FmtA)
  /-- CLZ (R94): Writes the count of leading zero bits of sA. -/
  | clz (x : FmtA)
  /-- CTZ (R94): Writes the count of trailing zero bits of sA. -/
  | ctz (x : FmtA)
  /-- PCNT (R94): Writes the count of 1 bits in sA. -/
  | pcnt (x : FmtA)
  /-- MIN (R94): Writes the smaller of two registers, read as signed values. -/
  | min (x : FmtA)
  /-- MAX (R94): Writes the larger of two registers, read as signed values. -/
  | max (x : FmtA)
  /-- MINN (R94): Writes the smaller of two registers, read as unsigned values. -/
  | minn (x : FmtA)
  /-- MAXN (R94): Writes the larger of two registers, read as unsigned values. -/
  | maxn (x : FmtA)
  /-- SLT (R94): Writes 1 when a is less than b as signed values, and 0 otherwise. -/
  | slt (x : FmtA)
  /-- SLTN (R94): Writes 1 when a is less than b as unsigned values, and 0 otherwise. -/
  | sltn (x : FmtA)
  /-- SEQ (R94): Writes 1 when the two registers are equal, and 0 otherwise. -/
  | seq (x : FmtA)
  /-- SEL (R94): Writes a when c is nonzero, and b otherwise. -/
  | sel (x : FmtA)
  /-- LI (R94): Writes the sign-extended 24-bit immediate into sD. -/
  | li (x : FmtI)
  /-- LIW (R74): Writes the 64-bit literal word that follows the instruction into sD. -/
  | liw (x : FmtI) (lit : Word)
  /-- BEXT (R97): Extracts a bit field of sA, zero-extended. -/
  | bext (x : FmtA)
  /-- BINS (R97): Inserts the low len bits of b into sA at pos. -/
  | bins (x : FmtA)
  /-- FADD (R99): Writes the rounded F32 or F64 sum of two registers. -/
  | fadd (x : FmtA)
  /-- FSUB (R99): Writes the rounded F32 or F64 difference of two registers. -/
  | fsub (x : FmtA)
  /-- FMUL (R99): Writes the rounded F32 or F64 product of two registers. -/
  | fmul (x : FmtA)
  /-- FDIV (R99): Writes the correctly rounded quotient, using the float divide unit. -/
  | fdiv (x : FmtA)
  /-- FSQRT (R99): Writes the correctly rounded square root. -/
  | fsqrt (x : FmtA)
  /-- FFMA (R99): Writes a × b + c, rounded once. -/
  | ffma (x : FmtA)
  /-- FMIN (R99): Writes the float minimum under R64. -/
  | fmin (x : FmtA)
  /-- FMAX (R99): Writes the float maximum under R64. -/
  | fmax (x : FmtA)
  /-- FCMP (R100): Writes 1 when the selected comparison predicate holds, and 0 otherwise. -/
  | fcmp (x : FmtA)
  /-- FCVT (R101): Converts between the float precision and another float or integer format. -/
  | fcvt (x : FmtA)
  /-- FCLASS (R102): Writes a one-hot class mask of the operand. -/
  | fclass (x : FmtA)
  /-- BEQ (R103): Branches when the two registers are equal. -/
  | beq (x : FmtB)
  /-- BNE (R103): Branches when the two registers differ. -/
  | bne (x : FmtB)
  /-- BLT (R103): Branches when a is less than b as signed values. -/
  | blt (x : FmtB)
  /-- BGE (R103): Branches when a is at least b as signed values. -/
  | bge (x : FmtB)
  /-- BLTN (R103): Branches when a is less than b as unsigned values. -/
  | bltn (x : FmtB)
  /-- BGEN (R103): Branches when a is at least b as unsigned values. -/
  | bgen (x : FmtB)
  /-- JMP (R103): Jumps unconditionally to a PC-relative target. -/
  | jmp (x : FmtB)
  /-- JAL (R103): Writes PC + 8 into sA and jumps to the target. -/
  | jal (x : FmtB)
  /-- JR (R103): Jumps to the address in sA and links into sD; raises an alignment fault for a misaligned target. -/
  | jr (x : FmtA)
  /-- LOOPI (R105): Opens a hardware loop of N trips and S stages and sets the stage predicates, or skips the loop when N is 0. -/
  | loopi (x : FmtI)
  /-- LOOP (R106): Closes an iteration: rotates RB, updates the predicates and LPIDX, and branches back or exits. -/
  | loop (x : FmtB)
  /-- REP (R107): Starts repeating the next instruction word n times. -/
  | rep (x : FmtI)
  /-- REP_REPETITION (R108): Issues one repetition of the repeated word under an active REP and decrements LEFT. -/
  | repRepetition (a : Agent)
  /-- YIELD (R109): Resets the strand's ready age and lowers its rank for 16 clk. -/
  | yield (x : FmtZ)
  /-- END (R110): Ends the strand, or stops the program when run on a conductor. -/
  | endStrand (x : FmtZ)
  /-- NOP (R111): Does nothing beyond its wait byte and signal byte. -/
  | nop (x : FmtZ)
  /-- LD (R119): Loads a scalar of the given size into sD. -/
  | ld (x : FmtM)
  /-- ST (R119): Stores the low bytes of an s register to memory. -/
  | st (x : FmtM)
  /-- PREF_L1 (R120): Prefetches the line holding ea into the cell's L1, dropping silently on failure. -/
  | prefL1 (x : FmtM)
  /-- PREF_L2 (R120): Prefetches the line holding ea into its home L2 slice only. -/
  | prefL2 (x : FmtM)
  /-- CINV_LINE (R121): Removes one line from the issuing die's RDC. -/
  | cinvLine (x : FmtM)
  /-- CINV_DIE (R121): Bumps the issuing die's RDC generation. -/
  | cinvDie (x : FmtM)
  /-- CINV_PKG (R121): Bumps the RDC generations of all eight dies. -/
  | cinvPkg (x : FmtM)
  /-- AMO (R123): Performs an indivisible read-modify-write of memory and returns the old value. -/
  | amo (x : FmtP)
  /-- CAS (R123): Compares memory with sX and, when they are equal, swaps in sD; returns the old value. -/
  | cas (x : FmtP)
  /-- FENCE (R124): Orders the strand's earlier accesses of the masked classes before its later ones, at the given scope. -/
  | fence (x : FmtI)
  /-- VLD (R125): Loads 64 elements into a vector register as an asynchronous write. -/
  | vld (x : FmtM)
  /-- VST (R125): Stores the 64 elements of a vector register to memory. -/
  | vst (x : FmtM)
  /-- VGTH (R127): Gathers the elements of the selected lanes from indexed addresses. -/
  | vgth (x : FmtA)
  /-- VSCT (R127): Scatters the selected lanes to indexed addresses, in ascending lane order. -/
  | vsct (x : FmtA)
  /-- STAT (R130): Checks holdover and the lead, then sends a store with visible-at time T towards its home. -/
  | stat (x : FmtP)
  /-- LDNB (R132): Holds a bypass load at the issuing cell until Reticle time reaches sX. -/
  | ldnb (x : FmtP)
  /-- PLD (R137): Loads from member m's memory and parks the task until the reply arrives. -/
  | pld (x : FmtP)
  /-- PST (R137): Stores to member m's memory without parking the task. -/
  | pst (x : FmtP)
  /-- PAMO (R137): Performs an atomic at member m's home slice and parks the task. -/
  | pamo (x : FmtP)
  /-- PCAS (R137): Performs a compare-and-swap at member m's home slice and parks the task. -/
  | pcas (x : FmtP)
  /-- PSTAT (R137): Sends a time-tagged store to member m. -/
  | pstat (x : FmtP)
  /-- PLDNB (R137): Holds a load at the issuing cell until time x, then serves it at member m. -/
  | pldnb (x : FmtP)
  /-- MCST (R138): Stores one value at every member of a multicast group table entry. -/
  | mcst (x : FmtP)
  /-- BST (R140): Queues a store to the Prism region for the λ0 total order. -/
  | bst (x : FmtP)
  /-- BAMO (R141): Queues an atomic on the Prism replicas for the λ0 order and returns the old value read from the own replica. -/
  | bamo (x : FmtP)
  /-- BLD (R142): Reads the issuer's own Prism replica once the strand's earlier BSTs and BAMOs have been applied. -/
  | bld (x : FmtP)
  /-- MCPY (R143): Appends a copy of n bytes to the cell's copy queue. -/
  | mcpy (x : FmtA)
  /-- MCPY_FP (R144): Appends a copy that also writes the SHA-256 fingerprint of the source. -/
  | mcpyFp (x : FmtA)
  /-- MCPY_HASH (R144): Appends a command that only computes the fingerprint of n source bytes. -/
  | mcpyHash (x : FmtA)
  /-- MCMP (R143): Appends a compare of two ranges that writes 0, or 1 plus the offset of the first differing byte. -/
  | mcmp (x : FmtA)
  /-- VADD (R152): Adds the elements of two vectors lane by lane. -/
  | vadd (x : FmtV)
  /-- VSUB (R152): Subtracts the elements of two vectors lane by lane. -/
  | vsub (x : FmtV)
  /-- VMUL (R152): Multiplies the elements of two vectors lane by lane. -/
  | vmul (x : FmtV)
  /-- VFMA (R152): Computes a × b + c per lane, with one rounding. -/
  | vfma (x : FmtV)
  /-- VFMS (R152): Computes a × b − c per lane, with one rounding. -/
  | vfms (x : FmtV)
  /-- VMIN (R152): Writes the per-lane minimum. -/
  | vmin (x : FmtV)
  /-- VMAX (R152): Writes the per-lane maximum. -/
  | vmax (x : FmtV)
  /-- VABS (R152): Writes the per-lane absolute value. -/
  | vabs (x : FmtV)
  /-- VNEG (R152): Writes the per-lane negation. -/
  | vneg (x : FmtV)
  /-- VAND (R155): Writes the per-lane bitwise AND. -/
  | vand (x : FmtV)
  /-- VOR (R155): Writes the per-lane bitwise OR. -/
  | vor (x : FmtV)
  /-- VXOR (R155): Writes the per-lane bitwise XOR. -/
  | vxor (x : FmtV)
  /-- VNOT (R155): Writes the per-lane bitwise NOT. -/
  | vnot (x : FmtV)
  /-- VSHL (R155): Shifts each lane left. -/
  | vshl (x : FmtV)
  /-- VSHR (R155): Shifts each lane right, filling with zeros. -/
  | vshr (x : FmtV)
  /-- VSHA (R155): Shifts each lane right arithmetically. -/
  | vsha (x : FmtV)
  /-- VCMP (R156): Compares lanes and writes the resulting lane mask into an s register. -/
  | vcmp (x : FmtV)
  /-- VSEL (R155): Selects each lane from vA or vB by a mask held in an s register. -/
  | vsel (x : FmtV)
  /-- VMOV (R155): Copies a vector register. -/
  | vmov (x : FmtV)
  /-- VBCST (R155): Broadcasts sA[31:0] to every selected lane. -/
  | vbcst (x : FmtV)
  /-- VIOTA (R155): Writes sA + i × sB into lane i. -/
  | viota (x : FmtV)
  /-- VEXT (R157): Extracts one lane into an s register. -/
  | vext (x : FmtV)
  /-- VINS (R157): Inserts sA[31:0] into one lane. -/
  | vins (x : FmtV)
  /-- VCVT (R158): Converts each lane between element formats. -/
  | vcvt (x : FmtV)
  /-- VCVTS (R159): Converts F32 lanes to a narrow format with stochastic rounding. -/
  | vcvts (x : FmtV)
  /-- VPACK (R160): Packs lane elements into part K of vD. -/
  | vpack (x : FmtV)
  /-- VUNPK (R160): Unpacks part K of vA into the lanes of vD. -/
  | vunpk (x : FmtV)
  /-- VRCP (R161): Computes the reciprocal of each lane. -/
  | vrcp (x : FmtV)
  /-- VRSQ (R161): Computes the reciprocal square root of each lane. -/
  | vrsq (x : FmtV)
  /-- VEXP2 (R161): Computes 2 to the power of each lane. -/
  | vexp2 (x : FmtV)
  /-- VLOG2 (R161): Computes log₂ of each lane. -/
  | vlog2 (x : FmtV)
  /-- VSIN (R161): Computes the sine of each lane. -/
  | vsin (x : FmtV)
  /-- VTANH (R161): Computes tanh of each lane. -/
  | vtanh (x : FmtV)
  /-- VREDS (R162): Sums the selected lanes exactly and writes the result into an s register. -/
  | vreds (x : FmtV)
  /-- VREDM (R163): Writes the minimum or maximum of the selected lanes into an s register. -/
  | vredm (x : FmtV)
  /-- VSCAN (R162): Writes the prefix sum of the selected lanes, each prefix rounded once. -/
  | vscan (x : FmtV)
  /-- VPERM (R157): Permutes lanes by an index vector. -/
  | vperm (x : FmtV)
  /-- VLSH (R157): Shifts lanes by n positions, filling with sC. -/
  | vlsh (x : FmtV)
  /-- VLROT (R157): Rotates the lanes. -/
  | vlrot (x : FmtV)
  /-- VFAM (R153): Computes min(a + b, c) per lane, with one rounding or saturation. -/
  | vfam (x : FmtV)
  /-- VFAX (R153): Computes max(a + b, c) per lane, with one rounding or saturation. -/
  | vfax (x : FmtV)
  /-- VDOT4 (R154): Adds the four-element dot product of each lane to c. -/
  | vdot4 (x : FmtV)
  /-- VTOPK (R164): Writes the top k selected lanes by rank, as indices or values. -/
  | vtopk (x : FmtV)
  /-- VDEFQ (R166): Appends the selected lanes to a deferral path, waiting for room. -/
  | vdefq (x : FmtV)
  /-- VDEFD (R167): Removes up to 64 entries from a deferral path into vector registers and writes a lane mask. -/
  | vdefd (x : FmtV)
  /-- VDEFN (R168): Writes the count of the context's entries in a deferral path. -/
  | vdefn (x : FmtV)
  /-- THND_LD (R173): Reads and checks a tensor descriptor and loads a handle to it. -/
  | thndLd (x : FmtT)
  /-- THND_SETC (R173): Sets a coordinate register from sX. -/
  | thndSetc (x : FmtT)
  /-- THND_ADDC (R173): Adds sX field-wise, modulo 2¹⁶, to a coordinate register. -/
  | thndAddc (x : FmtT)
  /-- THND_GETC (R173): Copies a coordinate register into sX. -/
  | thndGetc (x : FmtT)
  /-- TFILL (R179): Binds or allocates the current Lens entry of a tile and starts its fill. -/
  | tfill (x : FmtT)
  /-- TFILLM (R182): Starts a fill and binds a follow-on MMA or MMAS given in the literal word. -/
  | tfillm (x : FmtT) (lit : TfLit)
  /-- TALLOC (R185): Allocates a zeroed, locally produced entry for a tile at the given version. -/
  | talloc (x : FmtT)
  /-- TDRAIN (R186): Writes a produced entry to memory, then publishes its version. -/
  | tdrain (x : FmtT)
  /-- TPOST (R187): Publishes a version whose bytes were written by address. -/
  | tpost (x : FmtT)
  /-- THINT (R189): Applies a pin, unpin, last-use or stream-through hint to the bound entry. -/
  | thint (x : FmtT)
  /-- TPREF (R183): Starts a fill as a hint, dropping it on any obstacle. -/
  | tpref (x : FmtT)
  /-- TITIN (R184): Loads the task's itinerary of tile coordinates for a handle. -/
  | titin (x : FmtT)
  /-- TINV (R190): Removes the cell's current entry of a tile. -/
  | tinv (x : FmtT)
  /-- TLD (R192): Reads 256 bytes of a tile into a vector register, keeping or clearing the full bits. -/
  | tld (x : FmtT)
  /-- TST (R193): Writes 256 bytes of a vector register into a produced entry. -/
  | tst (x : FmtT)
  /-- TGTH (R194): Gathers whole rows from memory into a produced tile. -/
  | tgth (x : FmtT)
  /-- TSCT (R194): Scatters whole rows of a tile to memory. -/
  | tsct (x : FmtT)
  /-- TVER (R191): Writes the state and version of the cell's current entry of a tile. -/
  | tver (x : FmtT)
  /-- TQREL (R188): Releases a version of a stage-queue slot at its home. -/
  | tqrel (x : FmtT)
  /-- MMA (R196): Binds a matrix multiply-accumulate and parks it in the replay queue. -/
  | mma (x : FmtX)
  /-- MMAS (R196): Binds a block-scaled matrix multiply-accumulate and parks it in the replay queue. -/
  | mmas (x : FmtX)
  /-- ACLR (R199): Zeroes the rows of an accumulator at fixed clks after issue. -/
  | aclr (x : FmtX)
  /-- ACOMMIT (R199): Exchanges two AMAP fields. -/
  | acommit (x : FmtX)
  /-- ADISCARD (R200): Cancels the parked speculative MMAs that name an accumulator. -/
  | adiscard (x : FmtX)
  /-- AMOV (R199): Copies an accumulator row by row. -/
  | amov (x : FmtX)
  /-- ADRN (R201): Converts an accumulator region, with block scales, into a produced tile. -/
  | adrn (x : FmtX)
  /-- KSET (R202): Writes one field of a shadow shape register of a named strand. -/
  | kset (x : FmtQ)
  /-- KGET (R202): Reads one field of a shape or shadow register. -/
  | kget (x : FmtQ)
  /-- LAUNCH (R205): Hands a chain of loop-nest records to the hub and writes the launch number once it is accepted. -/
  | launch (x : FmtQ)
  /-- QPUSH (R206): Appends a command record to a die command queue, waiting while the queue is full. -/
  | qpush (x : FmtQ)
  /-- SEMW (R207): Waits until a semaphore reaches its target, then acquires. -/
  | semw (x : FmtQ)
  /-- SEMADD (R207): Adds an increment to a semaphore as a release atomic. -/
  | semadd (x : FmtQ)
  /-- BARA (R208): Records one arrival at a barrier. -/
  | bara (x : FmtQ)
  /-- BARW (R208): Waits until the strand's arrival generation of a barrier has completed. -/
  | barw (x : FmtQ)
  /-- BARM (R209): Sets a barrier's membership and quota. -/
  | barm (x : FmtQ)
  /-- COLL (R210): Hands a collective descriptor to the collective engine and writes a ticket. -/
  | coll (x : FmtQ)
  /-- COLLW (R210): Waits until a collective completes and writes its status. -/
  | collw (x : FmtQ)
  /-- SYSR (R212): Reads a system register. -/
  | sysr (x : FmtS)
  /-- SYSW (R212): Writes a system register at the end of the issue clk. -/
  | sysw (x : FmtS)
  /-- TRAP (R216): Raises a precise TRAP fault whose resume PC is PC + 8. -/
  | trap (x : FmtI)
  /-- ERET (R221): Resumes the frozen task that ERCTL names (ACT 00). -/
  | eret (x : FmtZ)
  /-- ERET_KILL (R225): Kills the frozen task that ERCTL names (ACT 01). -/
  | eretKill (x : FmtZ)
  /-- ERET_SKIP (R221): Resumes the named task past its faulting instruction (ACT 10). -/
  | eretSkip (x : FmtZ)
  /-- PPT (R218): Marks a pre-emption point and freezes the task at it when a request is pending. -/
  | ppt (x : FmtI)
  /-- TIME (R214): Reads Reticle time into sD. -/
  | time (x : FmtA)
  /-- TIME_NBT (R214): Reads Reticle time and sets NBT to the reading plus a. -/
  | timeNbt (x : FmtA)
  /-- TLBI_ASID (R219): Starts a shootdown of every translation of an ASID. -/
  | tlbiAsid (x : FmtA)
  /-- TLBI_PAGE (R219): Starts a shootdown of the page holding an address. -/
  | tlbiPage (x : FmtA)
  /-- TLBI_ALL (R219): Starts a shootdown of every translation. -/
  | tlbiAll (x : FmtA)
  /-- IFLUSH (R219): Discards the instruction cache and prefetched words once earlier stores have performed. -/
  | iflush (x : FmtZ)
  /-- BRK (R216): Raises a precise BREAKPOINT fault whose resume PC is PC. -/
  | brk (x : FmtI)
  /-- WAITE (R215): Waits for one of the selected events and reports those that hold. -/
  | waite (x : FmtI)
  /-- RESULT_WRITEBACK (R151): A fixed-latency result lands in the register space in its write clk. -/
  | resultWriteback (cell : Nat)
  /-- ACCESS_PERFORM (R116): An address-based access performs at its scope and writes any destination. -/
  | accessPerform (id : Nat) (src : Src)
  /-- REMOTE_REPLY (R136): A peer reply arrives, writes sD and returns the parked slot to RUN. -/
  | remoteReply (id : Nat) (a : MemberRes)
  /-- PEER_ACCESS_ARRIVE (R345): A receiving hub takes a peer access, translates it under the matching context and performs it. -/
  | peerAccessArrive (m : PeerReq)
  /-- TIME_TAGGED_STORE_ACCEPT (R131): The home accepts a time-tagged store and holds it, or performs it at once when it arrives late. -/
  | timeTaggedStoreAccept (id : Nat)
  /-- HELD_STORE_PERFORM (R131): A held store performs when the home's Reticle reaches T. -/
  | heldStorePerform (id : Nat)
  /-- LATE_STORE_REPORT (R133): A lateness report reaches the issuing package and updates LATECNT and LATEF, or raises MISSED_DEADLINE. -/
  | lateStoreReport (id : Nat)
  /-- LDNB_RELEASE (R132): A held not-before load is released when RT reaches x and is served at the home. -/
  | ldnbRelease (id : Nat)
  /-- MCST_COMPLETE (R138): Every member has answered, so the status bitmap is written. -/
  | mcstComplete (id : Nat)
  /-- ASYNC_FAULT_RAISE (R117): A reported asynchronous fault is raised at the strand's next instruction boundary. -/
  | asyncFaultRaise (a : Agent)
  /-- FAULT_REPORT_AFTER_ISSUE (R220): An engine reports a fault after issue and the task freezes. -/
  | faultReportAfterIssue (k : Nat)
  /-- FAULT_RECORD_WRITE (R226): The hub writes a fault record into the context's fault queue, waiting while the queue is full, and advances FQTAIL. -/
  | faultRecordWrite (ctx : Nat)
  /-- SLATE_LANDING (R224): Each slate entry lands r clk after a resumed task's restart. -/
  | slateLanding (cell : Nat)
  /-- ENDING_COMPLETE (R16): The last engine operation of an ended task performs, so the slot becomes FREE. -/
  | endingComplete (cell : Nat) (slot : Nat)
  /-- COPY_PIECE (R145): The copy engine translates, reads and writes one piece of up to 256 bytes of the head command. -/
  | copyPiece (site : Nat) (id : Nat)
  /-- LENS_ALLOCATE (R235): A parked allocation picks a way and frames, spilling a victim when needed. -/
  | lensAllocate (cell : Nat) (id : Nat)
  /-- FRAME_SCAN (R236): The scan pointer examines 4 tag entries per clk and frees eligible CLEAN entries. -/
  | frameScan (cell : Nat)
  /-- PIN_EXHAUSTION (R238): An allocation has stayed parked for 10,000 clk with every candidate pinned. -/
  | pinExhaustion (cell : Nat) (id : Nat)
  /-- SPILL (R237): A produced entry's bytes are written to memory and its frames are freed. -/
  | spill (cell : Nat) (id : Nat)
  /-- SPILL_READBACK (R237): A spilled entry's bytes are read back when it is bound again. -/
  | spillReadback (cell : Nat) (id : Nat)
  /-- FILL_RESOLVE (R244): The tile's home resolves a fill request to a version and a source, waiting for publication. -/
  | fillResolve (cell : Nat) (id : Nat) (remote : Option RemoteTile)
  /-- LENS_TRANSFER_SERVE (R244): A holding Lens serves a version to a requesting fill, or answers absent. -/
  | lensTransferServe (cell : Nat) (id : Nat)
  /-- FILL_GRANULE_LAND (R180): Fill data land in the Lens and set granules full. -/
  | fillGranuleLand (cell : Nat) (id : Nat) (gs : List Nat)
  /-- DRAIN_GRANT (R242): The home grants a drain once memory-served fills have read and the stage-queue release allows. -/
  | drainGrant (cell : Nat) (id : Nat)
  /-- DRAIN_PUBLISH (R242): The drained bytes have been written and PUB is set to the new version. -/
  | drainPublish (cell : Nat) (id : Nat)
  /-- VERSION_NOTICE (R246): A group member's home receives a publication notice and updates PUB and SRC. -/
  | versionNotice (n : VerNotice)
  /-- TQREL_RECORD (R247): The home records a stage-queue release and raises REL. -/
  | tqrelRecord (id : Nat)
  /-- REPLAY_HANDOFF (R239): The replay queue hands at most one parked command to each receiver per clk. -/
  | replayHandoff (cell : Nat)
  /-- MMA_ACCEPT (R197): The matrix array accepts a parked MMA once its operands, pacing and row hazards allow. -/
  | mmaAccept (cell : Nat)
  /-- ARRAY_ROW_WRITE (R197): An accepted MMA reads and writes one accumulator row per clk. -/
  | arrayRowWrite (cell : Nat)
  /-- ACCUM_ROW_WRITE (R199): An ACLR, AMOV or ADRN row read or write lands at its fixed clk. -/
  | accumRowWrite (cell : Nat)
  /-- LAUNCH_ACCEPT (R272): The hub checks a chain and accepts it when there is room, then deals the first blocks. -/
  | launchAccept (id : Nat)
  /-- BLOCK_REQUEST (R274): A die walker asks for another block and the hub deals the lowest undealt block. -/
  | blockRequest (r : Nat) (die : Nat)
  /-- DIE_WALKER_PLACE (R275): The die walker places one position into a cell's iteration queue. -/
  | dieWalkerPlace (die : Nat)
  /-- TASK_HANDOFF (R276): A cell hands a queue head to its lowest FREE slot, which enters PRELOAD. -/
  | taskHandoff (cell : Nat)
  /-- PRELOAD_COMPLETE (R16): Preload finishes and the slot enters RUN. -/
  | preloadComplete (cell : Nat) (slot : Nat)
  /-- STEAL_REQUEST (R280): An idle cell sends a steal request to a victim chosen by the die's generator. -/
  | stealRequest (cell : Nat) (r : Nat)
  /-- STEAL_ANSWER (R281): The victim's queue engine sends its tail entry or a failure. -/
  | stealAnswer (cell : Nat)
  /-- STEAL_REPLY (R281): The requester appends a stolen entry to its queue or counts a failure. -/
  | stealReply (cell : Nat)
  /-- LOCKSTEP_ROUND (R287): Every member has a FREE slot, so the next positions are given to all members in one clk. -/
  | lockstepRound (r : Nat)
  /-- DEFERRAL_SWEEP_HANDOFF (R284): A sweep task is handed for a path that holds entries once a cell's non-sweep work is done. -/
  | deferralSweepHandoff (cell : Nat) (r : Nat) (path : Nat)
  /-- RECORD_COMPLETE (R282): A record's tasks have all ended, so the hub writes CSTAT and increments CSEM. -/
  | recordComplete (r : Nat)
  /-- BARRIER_GENERATION_COMPLETE (R285): Every member cell has made its quota of arrivals, so the barrier generation completes. -/
  | barrierGenerationComplete (ctx : Nat) (n : Nat)
  /-- SEMAPHORE_WAKE (R207): A waiting SEMW reads a value that meets its target and performs. -/
  | semaphoreWake (id : Nat)
  /-- HOST_LAUNCH (R297): A host LAUNCH command is delivered to a conductor inbox and the hub starts reading its chain. -/
  | hostLaunch
  /-- CREATE (R293): A context is created from its descriptor and becomes LIVE. -/
  | create (lhkey : Word) (seed : Nat)
  /-- DESTROY (R291): A context enters DYING and its tasks are killed. -/
  | destroy
  /-- DYING_COMPLETE (R291): Teardown finishes, so the context becomes ABSENT and CTX_ABSENT is raised. -/
  | dyingComplete (ctx : Nat)
  /-- MIRPREP (R347): The package stops new facet packets and drains those already sent. -/
  | mirprep
  /-- MIR_DRAIN_TIMEOUT (R347): Packets still unanswered 20 µs after PREPARE are returned with link-dead status. -/
  | mirDrainTimeout
  /-- MIRCOMMIT (R347): MIRCFG is set, routes are recomputed and held packets are sent. -/
  | mircommit (connected : Nat)
  /-- FWLOAD (R399): A firmware image is copied into the inactive bank, verified, and made pending. -/
  | fwload
  /-- SUSPEND (R391): A host command (ARG0[0] = 0) schedules a suspend at time T. -/
  | suspend
  /-- SUSPEND_RESUME (R395): A host command (ARG0[0] = 1) sets the resume time T′. -/
  | suspendResume
  /-- RUN (R302): A die-queue command launches a chain on that die. -/
  | run (die : Nat) (q : Nat)
  /-- WAIT (R302): A die-queue command waits on a semaphore as SEMW does. -/
  | wait (die : Nat) (q : Nat)
  /-- SIGNAL (R302): A die-queue command increments a semaphore once earlier records have completed. -/
  | signal (die : Nat) (q : Nat)
  /-- PREEMPT (R305): A die-queue command makes a pre-emption request pending for a set of tasks. -/
  | preempt (die : Nat) (q : Nat)
  /-- RESTORE (R312): A die-queue command restores saved tasks and deferral paths from a save area. -/
  | restore (die : Nat) (q : Nat)
  /-- RDCINV (R302): A die-queue command bumps the context's RDC generation on its die. -/
  | rdcinv (die : Nat) (q : Nat)
  /-- QMOVE (R304): A die-queue command writes a queue image and empties the queue. -/
  | qmove (die : Nat) (q : Nat)
  /-- QLOAD (R304): A die-queue command loads a queue image into an empty queue. -/
  | qload (die : Nat) (q : Nat)
  /-- PREBND_EXPIRY (R306): PREBND ticks pass after a request, so the task is frozen for a forced save. -/
  | prebndExpiry (cell : Nat) (slot : Nat)
  /-- TASK_SAVE (R306): A frozen task's block is written to the save area and its slot becomes FREE. -/
  | taskSave (die : Nat) (q : Nat)
  /-- REGISTER_REGION_SCRUB (R295): A region tagged with an absent context is scrubbed to zero at 1 KiB per clk. -/
  | registerRegionScrub (cell : Nat) (region : Nat)
  /-- PAGE_WALK (R321): A walker translates an address, setting A and D by CAS or refusing with a cause. -/
  | pageWalk (k : Nat) (merge : Option Nat)
  /-- NEXT_PAGE_FILL (R325): A stream speculatively translates the adjacent page into its next-page register. -/
  | nextPageFill (cell : Nat) (slot : Nat) (stream : Nat)
  /-- SHOOTDOWN_COMPLETE (R335): Accesses in flight, prefetches, instruction caches and RDCs have all been cleaned, so TLBI performs. -/
  | shootdownComplete (id : Nat)
  /-- LINK_DEAD (R339): A die link exhausts its retries or loses training, so unaccepted packets are returned and resent on detours. -/
  | linkDead (link : Nat)
  /-- LINK_RETRAIN (R388): A dead die link retrains with spare lanes and returns to service. -/
  | linkRetrain (link : Nat)
  /-- FACET_PORT_DOWN (R341): A facet port exhausts its retries, so its routes are replaced. -/
  | facetPortDown (port : Nat)
  /-- KEY_UPDATE (R349): The receiver takes an SPDM KEY_UPDATE and loads its idle key bank. -/
  | keyUpdate (port : Nat) (key : LinkKey)
  /-- VERIFY_NEW_KEY (R349): The receiver acknowledges the new key, so the sender switches KG. -/
  | verifyNewKey (m : PortMsg)
  /-- KEY_UPDATE_START (R349): A bank reaches 2³⁹ flits and the sender derives the next key. -/
  | keyUpdateStart (port : Nat) (key : LinkKey)
  /-- BANK_LIMIT (R349): A bank reaches 2⁴⁰ flits and its port goes down. -/
  | bankLimit (port : Nat)
  /-- SESSION_RENEWAL (R405): A port session is renewed by KEY_EXCHANGE after 64 updates or 24 hours. -/
  | sessionRenewal (port : Nat) (k : NewSession)
  /-- GLINT_SLOT (R352): The Glint holder transmits its marker and up to 8 frames from its send queue. -/
  | glintSlot (g : GlintEv)
  /-- BST_FRAME (R354): A member applies a BST frame to its replica in PLACE order. -/
  | bstFrame (f : Frame)
  /-- BAMO_FRAME (R354): A member applies a BAMO frame to its replica in PLACE order. -/
  | bamoFrame (f : Frame)
  /-- SUSPEND_AT (R391): A member acts on the governing SUSPEND-AT frame and raises the SUSPEND event. -/
  | suspendAt (f : Frame)
  /-- RESUME_AT (R395): A restored member takes the first RESUME-AT frame as its T′. -/
  | resumeAt (f : Frame)
  /-- REGEN (R358): Members receive REGEN, answer with their highest PLACE, and discard late frames of the old epoch. -/
  | regen (f : Frame)
  /-- VOID (R356): Members pass over a place that no live member applied. -/
  | void (f : Frame)
  /-- JOIN (R351): A new Prism member takes its place in the order and its replica is copied from a live member. -/
  | join (f : Frame)
  /-- LEAVE (R357): Members remove a leaving member from the rotation. -/
  | leave (f : Frame)
  /-- FRAME_RECOVERY_REQUEST (R356): A member that lost a frame requests it over the facet fabric and holds later frames. -/
  | frameRecoveryRequest (q : LostFrame)
  /-- FRAME_RECOVERY_TIMEOUT (R356): No answer within 20 µs, or no recovery within 200 µs, escalates the request or makes the member leave. -/
  | frameRecoveryTimeout (place : Nat)
  /-- GLINT_TIMEOUT (R358): The lowest live member sees no marker for 20 µs and starts regeneration. -/
  | glintTimeout (w : Nat) (key : BitVec 256)
  /-- REGEN_ANSWER_TIMEOUT (R358): A member that does not answer REGEN within 20 µs is removed from the rotation. -/
  | regenAnswerTimeout (m : Nat)
  /-- GROUP_KEY_DELIVERY (R406): A member receives the new Prism group key over its facet session. -/
  | groupKeyDelivery (epoch : Nat) (key : BitVec 256)
  /-- COLLECTIVE_MATCH (R364): Every member has issued its COLL, so the collective starts or ends with a mismatch status. -/
  | collectiveMatch (ctx : Nat) (ticket : Nat) (peers : List CollPeer)
  /-- COLLECTIVE_COMPLETE (R366): All DST bytes are written and contributions read, so COLLW may return. -/
  | collectiveComplete (ctx : Nat) (ticket : Nat) (peers : List CollPeer) (peerStatus : Nat)
  /-- TWO_WAY_EXCHANGE (R361): Every 62.5 µs a member measures its offset from the reference and steers. -/
  | twoWayExchange (t1 : Nat) (t2 : Nat) (t3 : Nat) (t4 : Nat) (away : Nat)
  /-- EXCHANGE_TIMEOUT (R362): No exchange completes for 1 ms, so the package enters HOLDOVER. -/
  | exchangeTimeout
  /-- GROUP_FORMATION (R360): At group formation every member's counter steps forward to the largest reading. -/
  | groupFormation (g : GroupForm)
  /-- HCTL_GO (R375): A write of GO latches FEATA and starts the rings, or sets REFUSED. -/
  | hctlGo (v : Word) (key : BitVec 256)
  /-- CMDTAIL_WRITE (R376): The host advances CMDTAIL, making records available to the hub. -/
  | cmdtailWrite (v : Word) (recs : List (BitVec 512))
  /-- EVHEAD_WRITE (R379): The host advances EVHEAD, freeing room in the event ring. -/
  | evheadWrite (v : Word)
  /-- DBELL (R296): The host rings conductor doorbells, restarting stopped conductors or raising DOORBELL. -/
  | dbell (v : Word)
  /-- ERRCLR (R386): The host clears the selected error counter pairs. -/
  | errclr (v : Word)
  /-- REGISTER_WRITE (R373): The host writes a BAR0 register that has no behaviour of its own. -/
  | registerWrite (q : HostAt) (v : Word)
  /-- HOST_WINDOW_WRITE (R372): A host write through BAR2 performs at package scope. -/
  | hostWindowWrite (q : HostAt) (v : Word)
  /-- HOST_WINDOW_READ (R372): A host read through BAR2 returns device memory, or all ones for an absent address. -/
  | hostWindowRead (q : HostAt)
  /-- BAR4_WRITE (R372): A host write to conductor memory through BAR4. -/
  | bar4Write (q : HostAt) (v : Word)
  /-- BAR4_READ (R372): A host read of conductor memory through BAR4. -/
  | bar4Read (q : HostAt)
  /-- EVENT_RECORD_WRITE (R379): The hub writes a source's next event into the ring when there is room, assigning DSEQ. -/
  | eventRecordWrite (src : Nat)
  /-- POWER_GOOD (R381): Bring-up or resume runs its steps from power-good through READY. -/
  | powerGood (p : PowerUp)
  /-- POWER_REMOVAL (R6): Power is removed, ending the service span. -/
  | powerRemoval
  /-- PATROL_SCRUB (R382): A patrol scrub reads and corrects HBM4 words over each 24-hour period. -/
  | patrolScrub (pa : Nat) (corrected : Bool)
  /-- TJ_MEASUREMENT (R389): The hottest junction temperature is renewed in THRT.TJ at least every 100 µs. -/
  | tjMeasurement (tj : Nat)
  /-- THROTTLE_STEP_DOWN (R390): The clocks step down one step on a temperature or power condition. -/
  | throttleStepDown (therm : Bool) (pwr : Bool)
  /-- THROTTLE_STEP_UP (R390): The clocks step up one step after 10 ms below the limits. -/
  | throttleStepUp
  /-- THERMAL_TRIP (R390): A trip temperature is reached, so an event is raised and every rail drops. -/
  | thermalTrip
  /-- SUSPEND_FREEZE (R392): Reticle reaches T, so tasks freeze, sending stops and cut markers are sent. -/
  | suspendFreeze
  /-- CUT_MARKER (R392): A receiver takes a sender's cut marker, ending the packets it accepts from that sender. -/
  | cutMarker (link : Nat) (seq : Nat)
  /-- SUSPEND_SAVE (R393): State is written to the suspend area and the package enters retention. -/
  | suspendSave
  /-- RESUME_AT_T_PRIME (R394): Reticle reaches T′, so restored tasks return to their frozen slot states and queued replies are sent. -/
  | resumeAtTPrime
  /-- KEYSET (R403): An SPDM request binds a memory-encryption key slot to a context. -/
  | keyset (k : KeySetReq)
  /-- SPDM_REQUEST (R401): The hub answers an SPDM request on DOE or the facet management channel. -/
  | spdmRequest (m : SpdmMsg)
  /-- DATA_WAVELENGTH_FRAME (R350): A member receives a collective engine's broadcast data frame on one of λ1–λ7; a lost frame is fetched from its sender, and one that cannot be recovered ends its collective with status 0x0005. -/
  | dataWavelengthFrame (ctx : Nat) (ticket : Nat) (ev : DataEv)
  /-- FRAME_RECOVERY_SERVE (R356): A member that kept a lost λ0 frame among its last 4,096 receives another member's request for it and answers over the facet fabric. -/
  | frameRecoveryServe (q : FrameName) (requester : Nat)
  /-- FRAME_RECOVERY_REPLY (R356): The recovered frame k arrives at the member that lost it, which applies it and then its held later frames in PLACE order. -/
  | frameRecoveryReply (a : FrameReply)
  /-- REGEN_ANSWER (R358): The regenerating member receives the live members' highest PLACE answers, fetches any frames it lacks and transmits the first marker of the new epoch. -/
  | regenAnswer (m : Nat) (place : Nat)
  /-- PRISM_REPLICA_COPY (R351): The copy of a Prism replica from a live member, made at JOIN or after an uncorrectable replica error, completes, so the member applies later places and its waiting BLDs proceed. -/
  | prismReplicaCopy (bytes : List Host.Cell) (q : CopyPoint)
  /-- TPOST_PUBLICATION (R241): The home receives a TPOST's publication, sets PUB or refuses it with TILE_ENGINE, and the TPOST performs. -/
  | tpostPublication (id : Nat)
deriving DecidableEq, Repr

end Sys2Proof
end

