-- ==== Sys2Proof/WellFormed.lean ====
section
/-! DEFINITION. Which words are instructions: the opcode map and the strand map (R80 to R82), the wait, signal and guard
fields (R26, R29), the reserved field values (sub-code 5 of R83) and the fields that must be zero (sub-code 6); and which
terms of `Instr` are well formed. -/

namespace Sys2Proof

/-! ## Formats as numbers (R76) -/

/-- Operand field of format A. -/
def FmtA.enc (x : FmtA) : Nat := x.d * 1073741824 + x.a * 16777216 + x.b * 262144 + x.c * 4096 + x.f

/-- Format A of an operand field. -/
def FmtA.dec (w : Nat) : FmtA := ⟨w / 1073741824 % 64, w / 16777216 % 64, w / 262144 % 64, w / 4096 % 64, w % 4096⟩

/-- Every field fits its place. -/
def FmtA.fits (x : FmtA) : Bool := decide (x.d < 64) && decide (x.a < 64) && decide (x.b < 64) && decide (x.c < 64) && decide (x.f < 4096)

/-- Operand field of format I. -/
def FmtI.enc (x : FmtI) : Nat := x.d * 1073741824 + x.a * 16777216 + x.imm

/-- Format I of an operand field. -/
def FmtI.dec (w : Nat) : FmtI := ⟨w / 1073741824 % 64, w / 16777216 % 64, w % 16777216⟩

/-- Every field fits its place. -/
def FmtI.fits (x : FmtI) : Bool := decide (x.d < 64) && decide (x.a < 64) && decide (x.imm < 16777216)

/-- Operand field of format B. -/
def FmtB.enc (x : FmtB) : Nat := x.a * 1073741824 + x.b * 16777216 + x.hint * 4194304 + x.mbz * 1048576 + x.disp

/-- Format B of an operand field. -/
def FmtB.dec (w : Nat) : FmtB := ⟨w / 1073741824 % 64, w / 16777216 % 64, w / 4194304 % 4, w / 1048576 % 4, w % 1048576⟩

/-- Every field fits its place. -/
def FmtB.fits (x : FmtB) : Bool := decide (x.a < 64) && decide (x.b < 64) && decide (x.hint < 4) && decide (x.mbz < 4) && decide (x.disp < 1048576)

/-- Operand field of format M. -/
def FmtM.enc (x : FmtM) : Nat := x.d * 1073741824 + x.base * 16777216 + x.cls * 1048576 + x.scope * 262144 + x.size * 32768 + x.qual * 4096 + x.disp

/-- Format M of an operand field. -/
def FmtM.dec (w : Nat) : FmtM := ⟨w / 1073741824 % 64, w / 16777216 % 64, w / 1048576 % 16, w / 262144 % 4, w / 32768 % 8, w / 4096 % 8, w % 4096⟩

/-- Every field fits its place. -/
def FmtM.fits (x : FmtM) : Bool := decide (x.d < 64) && decide (x.base < 64) && decide (x.cls < 16) && decide (x.scope < 4) && decide (x.size < 8) && decide (x.qual < 8) && decide (x.disp < 4096)

/-- Operand field of format P. -/
def FmtP.enc (x : FmtP) : Nat := x.d * 1073741824 + x.base * 16777216 + x.x * 262144 + x.peer * 16384 + x.cls * 1024 + x.scope * 256 + x.size * 32 + x.sub

/-- Format P of an operand field. -/
def FmtP.dec (w : Nat) : FmtP := ⟨w / 1073741824 % 64, w / 16777216 % 64, w / 262144 % 64, w / 16384 % 16, w / 1024 % 16, w / 256 % 4, w / 32 % 8, w % 32⟩

/-- Every field fits its place. -/
def FmtP.fits (x : FmtP) : Bool := decide (x.d < 64) && decide (x.base < 64) && decide (x.x < 64) && decide (x.peer < 16) && decide (x.cls < 16) && decide (x.scope < 4) && decide (x.size < 8) && decide (x.sub < 32)

/-- Operand field of format V. -/
def FmtV.enc (x : FmtV) : Nat := x.vd * 2147483648 + x.va * 67108864 + x.vb * 2097152 + x.vc * 65536 + x.mask * 1024 + x.ty * 64 + x.rnd * 16 + x.sub

/-- Format V of an operand field. -/
def FmtV.dec (w : Nat) : FmtV := ⟨w / 2147483648 % 32, w / 67108864 % 32, w / 2097152 % 32, w / 65536 % 32, w / 1024 % 64, w / 64 % 16, w / 16 % 4, w % 16⟩

/-- Every field fits its place. -/
def FmtV.fits (x : FmtV) : Bool := decide (x.vd < 32) && decide (x.va < 32) && decide (x.vb < 32) && decide (x.vc < 32) && decide (x.mask < 64) && decide (x.ty < 16) && decide (x.rnd < 4) && decide (x.sub < 16)

/-- Operand field of format T. -/
def FmtT.enc (x : FmtT) : Nat := x.h * 4294967296 + x.co * 268435456 + x.k * 67108864 + x.sw * 33554432 + x.sx * 524288 + x.vx * 16384 + x.hint * 1024 + x.sub

/-- Format T of an operand field. -/
def FmtT.dec (w : Nat) : FmtT := ⟨w / 4294967296 % 16, w / 268435456 % 16, w / 67108864 % 4, w / 33554432 % 2, w / 524288 % 64, w / 16384 % 32, w / 1024 % 16, w % 1024⟩

/-- Every field fits its place. -/
def FmtT.fits (x : FmtT) : Bool := decide (x.h < 16) && decide (x.co < 16) && decide (x.k < 4) && decide (x.sw < 2) && decide (x.sx < 64) && decide (x.vx < 32) && decide (x.hint < 16) && decide (x.sub < 1024)

/-- Operand field of format X. -/
def FmtX.enc (x : FmtX) : Nat := x.ad * 8589934592 + x.ab * 1073741824 + x.ha * 67108864 + x.ca * 4194304 + x.hb * 262144 + x.cb * 16384 + x.k * 4096 + x.sw * 2048 + x.types * 128 + x.mode * 32 + x.sub

/-- Format X of an operand field. -/
def FmtX.dec (w : Nat) : FmtX := ⟨w / 8589934592 % 8, w / 1073741824 % 8, w / 67108864 % 16, w / 4194304 % 16, w / 262144 % 16, w / 16384 % 16, w / 4096 % 4, w / 2048 % 2, w / 128 % 16, w / 32 % 4, w % 32⟩

/-- Every field fits its place. -/
def FmtX.fits (x : FmtX) : Bool := decide (x.ad < 8) && decide (x.ab < 8) && decide (x.ha < 16) && decide (x.ca < 16) && decide (x.hb < 16) && decide (x.cb < 16) && decide (x.k < 4) && decide (x.sw < 2) && decide (x.types < 16) && decide (x.mode < 4) && decide (x.sub < 32)

/-- Operand field of format S. -/
def FmtS.enc (x : FmtS) : Nat := x.d * 1073741824 + x.a * 16777216 + x.sysreg * 4096 + x.f

/-- Format S of an operand field. -/
def FmtS.dec (w : Nat) : FmtS := ⟨w / 1073741824 % 64, w / 16777216 % 64, w / 4096 % 4096, w % 4096⟩

/-- Every field fits its place. -/
def FmtS.fits (x : FmtS) : Bool := decide (x.d < 64) && decide (x.a < 64) && decide (x.sysreg < 4096) && decide (x.f < 4096)

/-- Operand field of format Q. -/
def FmtQ.enc (x : FmtQ) : Nat := x.d * 1073741824 + x.a * 16777216 + x.b * 262144 + x.idx * 4096 + x.f

/-- Format Q of an operand field. -/
def FmtQ.dec (w : Nat) : FmtQ := ⟨w / 1073741824 % 64, w / 16777216 % 64, w / 262144 % 64, w / 4096 % 64, w % 4096⟩

/-- Every field fits its place. -/
def FmtQ.fits (x : FmtQ) : Bool := decide (x.d < 64) && decide (x.a < 64) && decide (x.b < 64) && decide (x.idx < 64) && decide (x.f < 4096)

/-- Operand field of format Z. -/
def FmtZ.enc (x : FmtZ) : Nat := x.mbz

/-- Format Z of an operand field. -/
def FmtZ.dec (w : Nat) : FmtZ := ⟨w % 68719476736⟩

/-- Every field fits its place. -/
def FmtZ.fits (x : FmtZ) : Bool := decide (x.mbz < 68719476736)

/-- The literal word of TFILLM (R74). -/
def TfLit.enc (l : TfLit) : Nat := l.sb * 2 ^ 48 + (if l.mmas then 0xC1 else 0xC0) * 2 ^ 40 + l.x.enc

/-- The follow-on in a literal word (R74). -/
def TfLit.dec (w : Nat) : TfLit := ⟨w / 2 ^ 48 % 256, w / 2 ^ 40 % 256 == 0xC1, FmtX.dec (w % 2 ^ 36)⟩

/-- Every field fits its place. -/
def TfLit.fits (l : TfLit) : Bool := decide (l.sb < 256) && l.x.fits

/-! ## Opcode map and strand map -/

/-- The opcode, operand field and literal of an instruction that has a word (R80); `none` for the steps of engines, hub,
host and group, and for the ERET rows other than ERET itself, which share its word (R221). -/
def Instr.code : Instr → Option (Nat × Nat × Nat)
  | .add x => some (0x01, x.enc, 0)
  | .addi x => some (0x02, x.enc, 0)
  | .sub x => some (0x03, x.enc, 0)
  | .mul x => some (0x04, x.enc, 0)
  | .mulh x => some (0x05, x.enc, 0)
  | .mulhn x => some (0x06, x.enc, 0)
  | .madd x => some (0x07, x.enc, 0)
  | .div x => some (0x08, x.enc, 0)
  | .divn x => some (0x09, x.enc, 0)
  | .rem x => some (0x0A, x.enc, 0)
  | .remn x => some (0x0B, x.enc, 0)
  | .and x => some (0x0C, x.enc, 0)
  | .andi x => some (0x0D, x.enc, 0)
  | .or x => some (0x0E, x.enc, 0)
  | .ori x => some (0x0F, x.enc, 0)
  | .xor x => some (0x10, x.enc, 0)
  | .andn x => some (0x11, x.enc, 0)
  | .shl x => some (0x12, x.enc, 0)
  | .shli x => some (0x13, x.enc, 0)
  | .shr x => some (0x14, x.enc, 0)
  | .shri x => some (0x15, x.enc, 0)
  | .sha x => some (0x16, x.enc, 0)
  | .shai x => some (0x17, x.enc, 0)
  | .rol x => some (0x18, x.enc, 0)
  | .clz x => some (0x19, x.enc, 0)
  | .ctz x => some (0x1A, x.enc, 0)
  | .pcnt x => some (0x1B, x.enc, 0)
  | .min x => some (0x1C, x.enc, 0)
  | .max x => some (0x1D, x.enc, 0)
  | .minn x => some (0x1E, x.enc, 0)
  | .maxn x => some (0x1F, x.enc, 0)
  | .slt x => some (0x20, x.enc, 0)
  | .sltn x => some (0x21, x.enc, 0)
  | .seq x => some (0x22, x.enc, 0)
  | .sel x => some (0x23, x.enc, 0)
  | .li x => some (0x24, x.enc, 0)
  | .liw x lit => some (0x25, x.enc, lit.toNat)
  | .bext x => some (0x26, x.enc, 0)
  | .bins x => some (0x27, x.enc, 0)
  | .fadd x => some (0x30, x.enc, 0)
  | .fsub x => some (0x31, x.enc, 0)
  | .fmul x => some (0x32, x.enc, 0)
  | .fdiv x => some (0x33, x.enc, 0)
  | .fsqrt x => some (0x34, x.enc, 0)
  | .ffma x => some (0x35, x.enc, 0)
  | .fmin x => some (0x36, x.enc, 0)
  | .fmax x => some (0x37, x.enc, 0)
  | .fcmp x => some (0x38, x.enc, 0)
  | .fcvt x => some (0x39, x.enc, 0)
  | .fclass x => some (0x3A, x.enc, 0)
  | .beq x => some (0x3C, x.enc, 0)
  | .bne x => some (0x3D, x.enc, 0)
  | .blt x => some (0x3E, x.enc, 0)
  | .bge x => some (0x3F, x.enc, 0)
  | .bltn x => some (0x40, x.enc, 0)
  | .bgen x => some (0x41, x.enc, 0)
  | .jmp x => some (0x42, x.enc, 0)
  | .jal x => some (0x43, x.enc, 0)
  | .jr x => some (0x44, x.enc, 0)
  | .loopi x => some (0x45, x.enc, 0)
  | .loop x => some (0x46, x.enc, 0)
  | .rep x => some (0x47, x.enc, 0)
  | .yield x => some (0x48, x.enc, 0)
  | .endStrand x => some (0x49, x.enc, 0)
  | .nop x => some (0x4A, x.enc, 0)
  | .ld x => some (0x50, x.enc, 0)
  | .st x => some (0x51, x.enc, 0)
  | .prefL1 x => some (0x57, x.enc, 0)
  | .prefL2 x => some (0x57, x.enc, 0)
  | .cinvLine x => some (0x68, x.enc, 0)
  | .cinvDie x => some (0x68, x.enc, 0)
  | .cinvPkg x => some (0x68, x.enc, 0)
  | .amo x => some (0x54, x.enc, 0)
  | .cas x => some (0x55, x.enc, 0)
  | .fence x => some (0x56, x.enc, 0)
  | .vld x => some (0x58, x.enc, 0)
  | .vst x => some (0x59, x.enc, 0)
  | .vgth x => some (0x5A, x.enc, 0)
  | .vsct x => some (0x5B, x.enc, 0)
  | .stat x => some (0x53, x.enc, 0)
  | .ldnb x => some (0x52, x.enc, 0)
  | .pld x => some (0x5C, x.enc, 0)
  | .pst x => some (0x5D, x.enc, 0)
  | .pamo x => some (0x5E, x.enc, 0)
  | .pcas x => some (0x5F, x.enc, 0)
  | .pstat x => some (0x60, x.enc, 0)
  | .pldnb x => some (0x61, x.enc, 0)
  | .mcst x => some (0x62, x.enc, 0)
  | .bst x => some (0x63, x.enc, 0)
  | .bamo x => some (0x64, x.enc, 0)
  | .bld x => some (0x65, x.enc, 0)
  | .mcpy x => some (0x66, x.enc, 0)
  | .mcpyFp x => some (0x66, x.enc, 0)
  | .mcpyHash x => some (0x66, x.enc, 0)
  | .mcmp x => some (0x67, x.enc, 0)
  | .vadd x => some (0x70, x.enc, 0)
  | .vsub x => some (0x71, x.enc, 0)
  | .vmul x => some (0x72, x.enc, 0)
  | .vfma x => some (0x73, x.enc, 0)
  | .vfms x => some (0x74, x.enc, 0)
  | .vmin x => some (0x75, x.enc, 0)
  | .vmax x => some (0x76, x.enc, 0)
  | .vabs x => some (0x77, x.enc, 0)
  | .vneg x => some (0x78, x.enc, 0)
  | .vand x => some (0x79, x.enc, 0)
  | .vor x => some (0x7A, x.enc, 0)
  | .vxor x => some (0x7B, x.enc, 0)
  | .vnot x => some (0x7C, x.enc, 0)
  | .vshl x => some (0x7D, x.enc, 0)
  | .vshr x => some (0x7E, x.enc, 0)
  | .vsha x => some (0x7F, x.enc, 0)
  | .vcmp x => some (0x80, x.enc, 0)
  | .vsel x => some (0x81, x.enc, 0)
  | .vmov x => some (0x82, x.enc, 0)
  | .vbcst x => some (0x83, x.enc, 0)
  | .viota x => some (0x84, x.enc, 0)
  | .vext x => some (0x85, x.enc, 0)
  | .vins x => some (0x86, x.enc, 0)
  | .vcvt x => some (0x87, x.enc, 0)
  | .vcvts x => some (0x88, x.enc, 0)
  | .vpack x => some (0x89, x.enc, 0)
  | .vunpk x => some (0x8A, x.enc, 0)
  | .vrcp x => some (0x8B, x.enc, 0)
  | .vrsq x => some (0x8C, x.enc, 0)
  | .vexp2 x => some (0x8D, x.enc, 0)
  | .vlog2 x => some (0x8E, x.enc, 0)
  | .vsin x => some (0x8F, x.enc, 0)
  | .vtanh x => some (0x90, x.enc, 0)
  | .vreds x => some (0x91, x.enc, 0)
  | .vredm x => some (0x92, x.enc, 0)
  | .vscan x => some (0x93, x.enc, 0)
  | .vperm x => some (0x94, x.enc, 0)
  | .vlsh x => some (0x95, x.enc, 0)
  | .vlrot x => some (0x96, x.enc, 0)
  | .vfam x => some (0x97, x.enc, 0)
  | .vfax x => some (0x98, x.enc, 0)
  | .vdot4 x => some (0x99, x.enc, 0)
  | .vtopk x => some (0x9A, x.enc, 0)
  | .vdefq x => some (0x9B, x.enc, 0)
  | .vdefd x => some (0x9C, x.enc, 0)
  | .vdefn x => some (0x9D, x.enc, 0)
  | .thndLd x => some (0xB0, x.enc, 0)
  | .thndSetc x => some (0xB0, x.enc, 0)
  | .thndAddc x => some (0xB0, x.enc, 0)
  | .thndGetc x => some (0xB0, x.enc, 0)
  | .tfill x => some (0xB1, x.enc, 0)
  | .tfillm x lit => some (0xB2, x.enc, lit.enc)
  | .talloc x => some (0xB3, x.enc, 0)
  | .tdrain x => some (0xB4, x.enc, 0)
  | .tpost x => some (0xB5, x.enc, 0)
  | .thint x => some (0xB6, x.enc, 0)
  | .tpref x => some (0xB7, x.enc, 0)
  | .titin x => some (0xB8, x.enc, 0)
  | .tinv x => some (0xB9, x.enc, 0)
  | .tld x => some (0xBA, x.enc, 0)
  | .tst x => some (0xBB, x.enc, 0)
  | .tgth x => some (0xBC, x.enc, 0)
  | .tsct x => some (0xBD, x.enc, 0)
  | .tver x => some (0xBE, x.enc, 0)
  | .tqrel x => some (0xBF, x.enc, 0)
  | .mma x => some (0xC0, x.enc, 0)
  | .mmas x => some (0xC1, x.enc, 0)
  | .aclr x => some (0xC2, x.enc, 0)
  | .acommit x => some (0xC3, x.enc, 0)
  | .adiscard x => some (0xC4, x.enc, 0)
  | .amov x => some (0xC5, x.enc, 0)
  | .adrn x => some (0xC6, x.enc, 0)
  | .kset x => some (0xC7, x.enc, 0)
  | .kget x => some (0xC8, x.enc, 0)
  | .launch x => some (0xD0, x.enc, 0)
  | .qpush x => some (0xD1, x.enc, 0)
  | .semw x => some (0xD2, x.enc, 0)
  | .semadd x => some (0xD3, x.enc, 0)
  | .bara x => some (0xD4, x.enc, 0)
  | .barw x => some (0xD5, x.enc, 0)
  | .barm x => some (0xD6, x.enc, 0)
  | .coll x => some (0xD7, x.enc, 0)
  | .collw x => some (0xD8, x.enc, 0)
  | .sysr x => some (0xE0, x.enc, 0)
  | .sysw x => some (0xE1, x.enc, 0)
  | .trap x => some (0xE2, x.enc, 0)
  | .eret x => some (0xE3, x.enc, 0)
  | .ppt x => some (0xE4, x.enc, 0)
  | .time x => some (0xE5, x.enc, 0)
  | .timeNbt x => some (0xE5, x.enc, 0)
  | .tlbiAsid x => some (0xE6, x.enc, 0)
  | .tlbiPage x => some (0xE6, x.enc, 0)
  | .tlbiAll x => some (0xE6, x.enc, 0)
  | .iflush x => some (0xE7, x.enc, 0)
  | .brk x => some (0xE8, x.enc, 0)
  | .waite x => some (0xE9, x.enc, 0)
  | .repRepetition .. | .eretKill .. | .eretSkip .. | .resultWriteback .. | .accessPerform .. | .remoteReply ..
  | .peerAccessArrive .. | .timeTaggedStoreAccept .. | .heldStorePerform .. | .lateStoreReport .. | .ldnbRelease ..
  | .mcstComplete .. | .asyncFaultRaise .. | .faultReportAfterIssue .. | .faultRecordWrite .. | .slateLanding ..
  | .endingComplete .. | .copyPiece .. | .lensAllocate .. | .frameScan .. | .pinExhaustion .. | .spill ..
  | .spillReadback .. | .fillResolve .. | .lensTransferServe .. | .fillGranuleLand .. | .drainGrant ..
  | .drainPublish .. | .versionNotice .. | .tqrelRecord .. | .replayHandoff .. | .mmaAccept .. | .arrayRowWrite ..
  | .accumRowWrite .. | .launchAccept .. | .blockRequest .. | .dieWalkerPlace .. | .taskHandoff ..
  | .preloadComplete .. | .stealRequest .. | .stealAnswer .. | .stealReply .. | .lockstepRound ..
  | .deferralSweepHandoff .. | .recordComplete .. | .barrierGenerationComplete .. | .semaphoreWake .. | .hostLaunch ..
  | .create .. | .destroy .. | .dyingComplete .. | .mirprep .. | .mirDrainTimeout .. | .mircommit .. | .fwload ..
  | .suspend .. | .suspendResume .. | .run .. | .wait .. | .signal .. | .preempt .. | .restore .. | .rdcinv ..
  | .qmove .. | .qload .. | .prebndExpiry .. | .taskSave .. | .registerRegionScrub .. | .pageWalk ..
  | .nextPageFill .. | .shootdownComplete .. | .linkDead .. | .linkRetrain .. | .facetPortDown .. | .keyUpdate ..
  | .verifyNewKey .. | .keyUpdateStart .. | .bankLimit .. | .sessionRenewal .. | .glintSlot .. | .bstFrame ..
  | .bamoFrame .. | .suspendAt .. | .resumeAt .. | .regen .. | .void .. | .join .. | .leave ..
  | .frameRecoveryRequest .. | .frameRecoveryTimeout .. | .glintTimeout .. | .regenAnswerTimeout ..
  | .groupKeyDelivery .. | .collectiveMatch .. | .collectiveComplete .. | .twoWayExchange .. | .exchangeTimeout ..
  | .groupFormation .. | .hctlGo .. | .cmdtailWrite .. | .evheadWrite .. | .dbell .. | .errclr .. | .registerWrite ..
  | .hostWindowWrite .. | .hostWindowRead .. | .bar4Write .. | .bar4Read .. | .eventRecordWrite .. | .powerGood ..
  | .powerRemoval .. | .patrolScrub .. | .tjMeasurement .. | .throttleStepDown .. | .throttleStepUp ..
  | .thermalTrip .. | .suspendFreeze .. | .cutMarker .. | .suspendSave .. | .resumeAtTPrime .. | .keyset ..
  | .spdmRequest .. | .dataWavelengthFrame .. | .frameRecoveryServe .. | .frameRecoveryReply .. | .regenAnswer ..
  | .prismReplicaCopy .. | .tpostPublication .. => none

/-- Opcodes that are instructions (R80, R81). -/
def opLegal (op : Nat) : Bool :=
  (0x01 ≤ op && op ≤ 0x27) || (0x30 ≤ op && op ≤ 0x3A) || (0x3C ≤ op && op ≤ 0x4A) || (0x50 ≤ op && op ≤ 0x68)
    || (0x70 ≤ op && op ≤ 0x9D) || (0xB0 ≤ op && op ≤ 0xC8) || (0xD0 ≤ op && op ≤ 0xD8) || (0xE0 ≤ op && op ≤ 0xE9)

/-- Which strand kinds execute an opcode (R82). -/
def strandOk (k : Kind) (op : Nat) : Bool :=
  let s := k == .S
  let a := k == .A
  let x := k == .X
  let w := k == .W
  let c := k == .C
  if op ≤ 0x27 || (0x3C ≤ op && op ≤ 0x4A) then true
  else if 0x30 ≤ op && op ≤ 0x3A then s || c
  else if op == 0x50 || op == 0x57 then s || a || c
  else if op == 0x51 || op == 0x66 || op == 0x67 then s || w || c
  else if op == 0x58 || op == 0x5A then a
  else if op == 0x59 || op == 0x5B then w
  else if 0x52 ≤ op && op ≤ 0x68 then s || c
  else if 0x70 ≤ op && op ≤ 0x9D then x
  else if op == 0xB0 || (0xB6 ≤ op && op ≤ 0xB9) || op == 0xBE then s || a
  else if op == 0xB1 || op == 0xB2 || op == 0xBC then a
  else if op == 0xB3 then s
  else if op == 0xB4 || op == 0xBD then w
  else if op == 0xB5 || op == 0xBF then s || w
  else if op == 0xBA || op == 0xBB || (0xC0 ≤ op && op ≤ 0xC6) then x
  else if op == 0xC7 || op == 0xC8 || (0xD4 ≤ op && op ≤ 0xD6) || op == 0xE4 then s
  else if op == 0xE3 || op == 0xE6 then c
  else s || c

/-- Signal byte within R24 and R26. -/
def sigOk (sb : Nat) : Bool :=
  let pushm := bits sb 7 5
  !bit sb 0 && bits sb 2 1 != 3 && (pushm != 0 || (bits sb 4 3 == 0 && bits sb 2 1 == 0))

/-- Wait and signal bytes within R23, R26 and, on a conductor, R82. -/
def waitSigOk (k : Kind) (wb sb : Nat) : Bool :=
  bits wb 2 0 ≤ 4 && (bits wb 7 5 != 0 || bits wb 4 3 == 0) && sigOk sb
    && (k != .C || (bits wb 7 5 == 0 && bits sb 7 5 == 0 && bits wb 2 0 ≤ 2))

/-- System registers that SYSR reaches (R212). -/
def sysrOk (k : Kind) (n : Nat) : Bool :=
  n ≤ 2 || n == 0x008 || n == 0x009 || (n ≤ 0x00C && 0x00A ≤ n && k == .S) || (0x00D ≤ n && n ≤ 0x00F)
    || (0x010 ≤ n && n ≤ 0x024) || (0x100 ≤ n && n ≤ 0x104 && k == .C)

/-- System registers that SYSW reaches (R212). -/
def syswOk (k : Kind) (n : Nat) : Bool :=
  (n == 0x001 && k == .C) || n == 0x008 || n == 0x009 || (n ≤ 0x00C && 0x00A ≤ n && k == .S) || n == 0x00D || n == 0x00E
    || (0x011 ≤ n && n ≤ 0x01F) || ((n == 0x023 || n == 0x024) && k == .C)
    || ((n == 0x100 || n == 0x101 || n == 0x103 || n == 0x104) && k == .C)

/-- FV, IV and SV of R147. -/
def isFV (ty : Nat) : Bool := ty ≤ 2
def isIV (ty : Nat) : Bool := (7 ≤ ty && ty ≤ 9) || (11 ≤ ty && ty ≤ 13)
def isSV (ty : Nat) : Bool := 7 ≤ ty && ty ≤ 9
/-- Integer TYPE codes (R52, R56). -/
def isInt (ty : Nat) : Bool := 7 ≤ ty && ty ≤ 13

/-- Parts of VPACK and VUNPK (R160). -/
def packOk (ty k : Nat) : Bool :=
  if ty == 1 || ty == 2 || ty == 8 || ty == 12 then k ≤ 1
  else if ty == 3 || ty == 4 || ty == 9 || ty == 13 || ty == 15 then k ≤ 3
  else if ty == 5 then k ≤ 4
  else if ty == 6 || ty == 10 then k ≤ 7
  else false

/-- Scalar atomics (R122). -/
def amoOk (size sub : Nat) : Bool :=
  (size == 2 || size == 3 || size == 6) && sub % 16 ≤ 9 && (sub % 16 != 9 || size == 2 || size == 3)

/-- Compare-and-swap (R122). -/
def casOk (size sub : Nat) : Bool := (size == 2 || size == 3 || size == 6) && sub % 16 == 0

/-- Coded fields of format X for MMA (`s = false`) and MMAS (R79, R196). -/
def mmaOk5 (s : Bool) (x : FmtX) : Bool :=
  x.types ≤ 10 && x.mode != 3 && (x.mode != 2 || x.ad != x.ab) && (!s || (2 ≤ x.types && x.types ≤ 7))

/-- Fields of format X that an MMA or MMAS leaves zero (R196). -/
def mmaOk6 (x : FmtX) : Bool := x.sub == 0 && (x.mode == 2 || x.ab == 0)

/-- No coded field holds a reserved value (sub-code 5 of R83): R79 and the limits stated with each instruction. -/
def ok5 (k : Kind) (op w lit : Nat) : Bool :=
  let a := FmtA.dec w
  let b := FmtB.dec w
  let m := FmtM.dec w
  let p := FmtP.dec w
  let v := FmtV.dec w
  let t := FmtT.dec w
  let x := FmtX.dec w
  let q := FmtQ.dec w
  let imm := w % 2 ^ 24
  if op == 0x26 || op == 0x27 then a.f / 64 + (a.f % 64 + 1) ≤ 64
  else if op == 0x36 || op == 0x37 || op == 0x3A then bits a.f 11 10 == 0
  else if op == 0x38 then bits a.f 11 10 == 0 && a.f % 8 ≤ 4
  else if op == 0x39 then a.f % 16 < 8
  else if 0x3C ≤ op && op ≤ 0x41 then b.hint != 3
  else if op == 0x42 || op == 0x43 || op == 0x46 then b.hint == 0
  else if op == 0x45 then 1 ≤ imm % 16 && imm % 16 ≤ 8 && imm / 16 != 0
  else if op == 0x50 then m.size != 7 && m.qual ≤ 3
  else if op == 0x51 then m.size != 7 && m.qual ≤ 1
  else if op == 0x57 then m.qual == 0 && m.scope ≤ 1
  else if op == 0x58 then m.size != 7 && m.size != 3 && m.qual ≤ 3
  else if op == 0x59 then m.size != 7 && m.size != 3 && m.qual ≤ 1
  else if op == 0x68 then m.qual == 0 && m.scope ≤ 2
  else if op == 0x52 || op == 0x5C || op == 0x61 then p.size != 7
  else if op == 0x53 || op == 0x5D || op == 0x60 then p.size != 7 && p.sub / 8 ≤ 1
  else if op == 0x54 || op == 0x5E then amoOk p.size p.sub
  else if op == 0x55 || op == 0x5F then casOk p.size p.sub
  else if op == 0x56 then bits imm 23 8 != 0 && bits imm 5 4 != 3
  else if op == 0x5A || op == 0x5B then bits a.f 11 9 != 3
  else if op == 0x62 || op == 0x63 || op == 0x65 then p.size != 7 && p.scope == 3 && p.sub / 8 ≤ 1
  else if op == 0x64 then p.scope == 3 && amoOk p.size p.sub
  else if op == 0x66 then bits a.f 5 4 != 3
  else if op == 0x70 || op == 0x71 || op == 0x72 || op == 0x73 || op == 0x74 || op == 0x93 then
    isFV v.ty || (isIV v.ty && v.rnd ≤ 1)
  else if op == 0x75 || op == 0x76 || op == 0x92 then (isFV v.ty || isIV v.ty) && v.rnd == 0
  else if op == 0x77 || op == 0x78 then (isFV v.ty && v.rnd == 0) || (isSV v.ty && v.rnd ≤ 1)
  else if op == 0x97 || op == 0x98 then v.ty == 0 || (isIV v.ty && v.rnd == 0)
  else if op == 0x99 then v.ty == 3 || v.ty == 4 || ((v.ty == 9 || v.ty == 13) && v.rnd ≤ 1)
  else if op == 0x80 then
    (isFV v.ty || isIV v.ty) && v.rnd == 0 && v.sub ≤ 4 && (v.sub != 3 || isFV v.ty)
  else if op == 0x87 then
    v.ty != 14 && v.sub != 14 && (v.vb % 2 == 0 || v.ty == 3) && (!(isInt v.ty && isInt v.sub) || v.rnd == 0)
  else if op == 0x88 then 1 ≤ v.ty && v.ty ≤ 6
  else if op == 0x89 || op == 0x8A then packOk v.ty v.sub
  else if 0x8B ≤ op && op ≤ 0x90 then isFV v.ty && v.rnd == 0
  else if op == 0x91 then isFV v.ty || (isIV v.ty && v.rnd == 0)
  else if op == 0x9A then (v.ty == 0 || v.ty == 7 || v.ty == 11) && v.rnd == 0
  else if op == 0x9B then v.va + v.sub % 4 ≤ 31
  else if op == 0x9C then v.vd + v.sub % 4 ≤ 31 && !(v.vd ≤ v.va && v.va ≤ v.vd + v.sub % 4)
  else if op == 0xB1 || op == 0xB3 || op == 0xB4 || op == 0xB7 then t.hint ≤ 4
  else if op == 0xB2 then
    let l := TfLit.dec lit
    t.hint ≤ 4 && lit / 2 ^ 56 == 0 && sigOk l.sb && (lit / 2 ^ 40 % 256 == 0xC0 || lit / 2 ^ 40 % 256 == 0xC1)
      && lit / 2 ^ 36 % 16 == 0 && mmaOk5 l.mmas l.x && mmaOk6 l.x && l.x.sw == 0
  else if op == 0xB6 then 1 ≤ t.hint && t.hint ≤ 4
  else if op == 0xC0 then mmaOk5 false x
  else if op == 0xC1 then mmaOk5 true x
  else if op == 0xC3 then x.ad != x.ab
  else if op == 0xC7 || op == 0xC8 then q.idx / 16 != 0
  else if op == 0xE0 then sysrOk k (w / 4096 % 4096)
  else if op == 0xE1 then syswOk k (w / 4096 % 4096)
  else if op == 0xE5 then w % 4 ≤ 1
  else if op == 0xE6 then w % 4 ≤ 2
  else if op == 0xE9 then
    let e := imm % 64
    e != 0 && (if k == .C then !bit e 1 else !bit e 2 && !bit e 3 && !bit e 4)
  else true

/-- Masks of the fields of formats A, I, Q and S, of M and P, of V, of T and of X. -/
def mD : Nat := 0xFC0000000
def mA : Nat := 0x3F000000
def mB : Nat := 0xFC0000
def mC : Nat := 0x3F000
def mF : Nat := 0xFFF
def mPeer : Nat := 0x3C000
def vD : Nat := 0xF80000000
def vA : Nat := 0x7C000000
def vB : Nat := 0x3E00000
def vC : Nat := 0x1F0000
def vM : Nat := 0xFC00
def vT : Nat := 0x3C0
def vR : Nat := 0x30
def vS : Nat := 0xF
def tH : Nat := 0xF00000000
def tCo : Nat := 0xF0000000
def tK : Nat := 0xE000000
def tSx : Nat := 0x1F80000
def tVx : Nat := 0x7C000
def tHint : Nat := 0x3C00
def tSub : Nat := 0x3FF

/-- The bits of the operand field that an instruction does not use (R78), with the instruction's own statements.
DEDUCED, log entry 43. -/
def mbz (k : Kind) (op w : Nat) : Nat :=
  let kS := if k == .S then tK else 0
  if op == 0x07 || op == 0x23 then mF
  else if op == 0x19 || op == 0x1A || op == 0x1B then mB + mC + mF
  else if op == 0x26 then mB + mC
  else if op == 0x27 then mC
  else if op == 0x02 || op == 0x0D || op == 0x0F then 0
  else if op == 0x13 || op == 0x15 || op == 0x17 then 0xFFFFC0
  else if op == 0x24 then mA
  else if op == 0x25 then mA + 0xFFFFFF
  else if op ≤ 0x27 then mC + mF
  else if op == 0x34 || op == 0x3A then mB + mC + 0x1FF
  else if op == 0x35 then 0x1FF
  else if op == 0x38 then mC + 0x1F8
  else if op == 0x39 then mB + mC + 0xF0
  else if op ≤ 0x3A then mC + 0x1FF
  else if op ≤ 0x41 then 0x300000
  else if op == 0x42 || op == 0x46 then mD + mA + 0x300000
  else if op == 0x43 then mA + 0x300000
  else if op == 0x44 then mB + mC + mF
  else if op == 0x45 then mD
  else if op == 0x47 then mD + 0xFF0000
  else if op ≤ 0x4A || op == 0xE3 || op == 0xE7 then 0xFFFFFFFFF
  else if op == 0x57 then mD + 0xF00000 + 0x38000
  else if op == 0x58 || op == 0x59 then 0x800000000
  else if op == 0x68 then mD + 0x38000 + (if bits w 19 18 == 0 then 0 else mA + mF)
  else if op == 0x52 || op == 0x53 || op == 0x54 || op == 0x55 || op == 0x62 || op == 0x63 || op == 0x64 then mPeer
  else if op == 0x65 then mPeer + mB
  else if op == 0x5C || op == 0x5D then mB
  else if op == 0x56 then mD + mA + 0xF
  else if op == 0x5A || op == 0x5B then 0x800000000 + 0x800000 + (if bits w 11 9 == 7 then 0x180 else 0)
  else if op == 0x66 then 0xF + (if bits w 5 4 == 0 then mD else if bits w 5 4 == 2 then mA else 0)
  else if op == 0x67 then 0x3F
  else if op ≤ 0x68 then 0
  else if op == 0x70 || op == 0x71 || op == 0x72 || op == 0x75 || op == 0x76 then vC + vS
  else if op == 0x73 || op == 0x74 || op == 0x97 || op == 0x98 || op == 0x99 then vS
  else if op == 0x77 || op == 0x78 || (0x8B ≤ op && op ≤ 0x90) || op == 0x91 then vB + vC + vS
  else if op == 0x79 || op == 0x7A || op == 0x7B || op == 0x7D || op == 0x7E || op == 0x7F || op == 0x84 then
    vC + vT + vR + vS
  else if op == 0x7C || op == 0x82 || op == 0x83 then vB + vC + vT + vR + vS
  else if op == 0x80 then vC
  else if op == 0x81 || op == 0x95 then vT + vR + vS
  else if op == 0x94 || op == 0x96 then vC + vT + vR + vS
  else if op == 0x85 || op == 0x86 then vC + vM + vT + vR + vS
  else if op == 0x87 then vC + 0x3C00000
  else if op == 0x88 then vC + vR + vS
  else if op == 0x89 || op == 0x8A then vB + vC + vM + vR
  else if op == 0x92 || op == 0x93 then vB + vC + 0xE
  else if op == 0x9A then vC + 0xC
  else if op == 0x9B then 0xC00000000 + vB + vC + vT + vR + 0xC
  else if op == 0x9C then 0x3000000 + vM + vT + vR + 0x8
  else if op == 0x9D then vA + 0x3000000 + vC + vM + vT + vR + vS
  else if op == 0xB0 then tK + tVx + tHint + 0x3FC + (if w % 4 == 0 then tCo else tH)
  else if op == 0xB1 || op == 0xB2 || op == 0xB7 then kS + tVx + 0x3FE + (if w % 2 == 1 then tSx else 0)
  else if op == 0xB3 then kS + tVx + tSub
  else if op == 0xB4 || op == 0xB6 then kS + tSx + tVx + tSub
  else if op == 0xB5 || op == 0xBE || op == 0xBF then kS + tVx + tHint + tSub
  else if op == 0xB8 then tCo + tK + tVx + tHint + tSub
  else if op == 0xB9 then kS + tSx + tVx + tHint + tSub
  else if op == 0xBA then tHint + 0x3FE
  else if op == 0xBB || op == 0xBC || op == 0xBD then tHint + tSub
  else if op == 0xC0 || op == 0xC1 then 0x1F + (if bits w 6 5 == 2 then 0 else 0x1C0000000)
  else if op == 0xC2 || op == 0xC4 then 0x1FFFFFFFF
  else if op == 0xC3 || op == 0xC5 then 0x3FFFFFFF
  else if op == 0xC6 then 0xE00000000 + 0x3FC000 + 0x7F0
  else if op == 0xC7 then mD + mB + mF
  else if op == 0xC8 then mA + mB + 0xFFE
  else if op == 0xD0 || op == 0xD7 then mB + mC + 0xFF0
  else if op == 0xD1 || op == 0xD2 || op == 0xD3 then mC + 0xFF0
  else if op == 0xD4 || op == 0xD5 then mA + mB + 0x20000 + mF
  else if op == 0xD6 then mD + 0x20000
  else if op == 0xD8 then mB + mC + mF
  else if op == 0xE0 then mA + mF
  else if op == 0xE1 then mD + mF
  else if op == 0xE2 || op == 0xE8 then mD + mA
  else if op == 0xE4 then mD + 0xFFF000
  else if op == 0xE5 then mB + mC + 0xFFC + (if w % 4 == 0 then mA else 0)
  else if op == 0xE6 then
    mD + mC + 0xFFC + (if w % 4 == 0 then mB else if w % 4 == 1 then 0 else mA + mB)
  else if op == 0xE9 then mA + 0xFFFFC0
  else 0

/-- Every field that must be zero is (sub-code 6 of R83). DEDUCED, log entry 43. -/
def ok6 (k : Kind) (op w : Nat) : Bool := w &&& mbz k op w == 0

/-! ## Well-formed instructions -/

/-- Every field of the term fits its place in the word. -/
def Instr.fits : Instr → Bool
  | .add x => x.fits
  | .addi x => x.fits
  | .sub x => x.fits
  | .mul x => x.fits
  | .mulh x => x.fits
  | .mulhn x => x.fits
  | .madd x => x.fits
  | .div x => x.fits
  | .divn x => x.fits
  | .rem x => x.fits
  | .remn x => x.fits
  | .and x => x.fits
  | .andi x => x.fits
  | .or x => x.fits
  | .ori x => x.fits
  | .xor x => x.fits
  | .andn x => x.fits
  | .shl x => x.fits
  | .shli x => x.fits
  | .shr x => x.fits
  | .shri x => x.fits
  | .sha x => x.fits
  | .shai x => x.fits
  | .rol x => x.fits
  | .clz x => x.fits
  | .ctz x => x.fits
  | .pcnt x => x.fits
  | .min x => x.fits
  | .max x => x.fits
  | .minn x => x.fits
  | .maxn x => x.fits
  | .slt x => x.fits
  | .sltn x => x.fits
  | .seq x => x.fits
  | .sel x => x.fits
  | .li x => x.fits
  | .liw x _ => x.fits
  | .bext x => x.fits
  | .bins x => x.fits
  | .fadd x => x.fits
  | .fsub x => x.fits
  | .fmul x => x.fits
  | .fdiv x => x.fits
  | .fsqrt x => x.fits
  | .ffma x => x.fits
  | .fmin x => x.fits
  | .fmax x => x.fits
  | .fcmp x => x.fits
  | .fcvt x => x.fits
  | .fclass x => x.fits
  | .beq x => x.fits
  | .bne x => x.fits
  | .blt x => x.fits
  | .bge x => x.fits
  | .bltn x => x.fits
  | .bgen x => x.fits
  | .jmp x => x.fits
  | .jal x => x.fits
  | .jr x => x.fits
  | .loopi x => x.fits
  | .loop x => x.fits
  | .rep x => x.fits
  | .yield x => x.fits
  | .endStrand x => x.fits
  | .nop x => x.fits
  | .ld x => x.fits
  | .st x => x.fits
  | .prefL1 x => x.fits
  | .prefL2 x => x.fits
  | .cinvLine x => x.fits
  | .cinvDie x => x.fits
  | .cinvPkg x => x.fits
  | .amo x => x.fits
  | .cas x => x.fits
  | .fence x => x.fits
  | .vld x => x.fits
  | .vst x => x.fits
  | .vgth x => x.fits
  | .vsct x => x.fits
  | .stat x => x.fits
  | .ldnb x => x.fits
  | .pld x => x.fits
  | .pst x => x.fits
  | .pamo x => x.fits
  | .pcas x => x.fits
  | .pstat x => x.fits
  | .pldnb x => x.fits
  | .mcst x => x.fits
  | .bst x => x.fits
  | .bamo x => x.fits
  | .bld x => x.fits
  | .mcpy x => x.fits
  | .mcpyFp x => x.fits
  | .mcpyHash x => x.fits
  | .mcmp x => x.fits
  | .vadd x => x.fits
  | .vsub x => x.fits
  | .vmul x => x.fits
  | .vfma x => x.fits
  | .vfms x => x.fits
  | .vmin x => x.fits
  | .vmax x => x.fits
  | .vabs x => x.fits
  | .vneg x => x.fits
  | .vand x => x.fits
  | .vor x => x.fits
  | .vxor x => x.fits
  | .vnot x => x.fits
  | .vshl x => x.fits
  | .vshr x => x.fits
  | .vsha x => x.fits
  | .vcmp x => x.fits
  | .vsel x => x.fits
  | .vmov x => x.fits
  | .vbcst x => x.fits
  | .viota x => x.fits
  | .vext x => x.fits
  | .vins x => x.fits
  | .vcvt x => x.fits
  | .vcvts x => x.fits
  | .vpack x => x.fits
  | .vunpk x => x.fits
  | .vrcp x => x.fits
  | .vrsq x => x.fits
  | .vexp2 x => x.fits
  | .vlog2 x => x.fits
  | .vsin x => x.fits
  | .vtanh x => x.fits
  | .vreds x => x.fits
  | .vredm x => x.fits
  | .vscan x => x.fits
  | .vperm x => x.fits
  | .vlsh x => x.fits
  | .vlrot x => x.fits
  | .vfam x => x.fits
  | .vfax x => x.fits
  | .vdot4 x => x.fits
  | .vtopk x => x.fits
  | .vdefq x => x.fits
  | .vdefd x => x.fits
  | .vdefn x => x.fits
  | .thndLd x => x.fits
  | .thndSetc x => x.fits
  | .thndAddc x => x.fits
  | .thndGetc x => x.fits
  | .tfill x => x.fits
  | .tfillm x lit => x.fits && lit.fits
  | .talloc x => x.fits
  | .tdrain x => x.fits
  | .tpost x => x.fits
  | .thint x => x.fits
  | .tpref x => x.fits
  | .titin x => x.fits
  | .tinv x => x.fits
  | .tld x => x.fits
  | .tst x => x.fits
  | .tgth x => x.fits
  | .tsct x => x.fits
  | .tver x => x.fits
  | .tqrel x => x.fits
  | .mma x => x.fits
  | .mmas x => x.fits
  | .aclr x => x.fits
  | .acommit x => x.fits
  | .adiscard x => x.fits
  | .amov x => x.fits
  | .adrn x => x.fits
  | .kset x => x.fits
  | .kget x => x.fits
  | .launch x => x.fits
  | .qpush x => x.fits
  | .semw x => x.fits
  | .semadd x => x.fits
  | .bara x => x.fits
  | .barw x => x.fits
  | .barm x => x.fits
  | .coll x => x.fits
  | .collw x => x.fits
  | .sysr x => x.fits
  | .sysw x => x.fits
  | .trap x => x.fits
  | .eret x => x.fits
  | .ppt x => x.fits
  | .time x => x.fits
  | .timeNbt x => x.fits
  | .tlbiAsid x => x.fits
  | .tlbiPage x => x.fits
  | .tlbiAll x => x.fits
  | .iflush x => x.fits
  | .brk x => x.fits
  | .waite x => x.fits
  | .repRepetition .. | .eretKill .. | .eretSkip .. | .resultWriteback .. | .accessPerform .. | .remoteReply ..
  | .peerAccessArrive .. | .timeTaggedStoreAccept .. | .heldStorePerform .. | .lateStoreReport .. | .ldnbRelease ..
  | .mcstComplete .. | .asyncFaultRaise .. | .faultReportAfterIssue .. | .faultRecordWrite .. | .slateLanding ..
  | .endingComplete .. | .copyPiece .. | .lensAllocate .. | .frameScan .. | .pinExhaustion .. | .spill ..
  | .spillReadback .. | .fillResolve .. | .lensTransferServe .. | .fillGranuleLand .. | .drainGrant ..
  | .drainPublish .. | .versionNotice .. | .tqrelRecord .. | .replayHandoff .. | .mmaAccept .. | .arrayRowWrite ..
  | .accumRowWrite .. | .launchAccept .. | .blockRequest .. | .dieWalkerPlace .. | .taskHandoff ..
  | .preloadComplete .. | .stealRequest .. | .stealAnswer .. | .stealReply .. | .lockstepRound ..
  | .deferralSweepHandoff .. | .recordComplete .. | .barrierGenerationComplete .. | .semaphoreWake .. | .hostLaunch ..
  | .create .. | .destroy .. | .dyingComplete .. | .mirprep .. | .mirDrainTimeout .. | .mircommit .. | .fwload ..
  | .suspend .. | .suspendResume .. | .run .. | .wait .. | .signal .. | .preempt .. | .restore .. | .rdcinv ..
  | .qmove .. | .qload .. | .prebndExpiry .. | .taskSave .. | .registerRegionScrub .. | .pageWalk ..
  | .nextPageFill .. | .shootdownComplete .. | .linkDead .. | .linkRetrain .. | .facetPortDown .. | .keyUpdate ..
  | .verifyNewKey .. | .keyUpdateStart .. | .bankLimit .. | .sessionRenewal .. | .glintSlot .. | .bstFrame ..
  | .bamoFrame .. | .suspendAt .. | .resumeAt .. | .regen .. | .void .. | .join .. | .leave ..
  | .frameRecoveryRequest .. | .frameRecoveryTimeout .. | .glintTimeout .. | .regenAnswerTimeout ..
  | .groupKeyDelivery .. | .collectiveMatch .. | .collectiveComplete .. | .twoWayExchange .. | .exchangeTimeout ..
  | .groupFormation .. | .hctlGo .. | .cmdtailWrite .. | .evheadWrite .. | .dbell .. | .errclr .. | .registerWrite ..
  | .hostWindowWrite .. | .hostWindowRead .. | .bar4Write .. | .bar4Read .. | .eventRecordWrite .. | .powerGood ..
  | .powerRemoval .. | .patrolScrub .. | .tjMeasurement .. | .throttleStepDown .. | .throttleStepUp ..
  | .thermalTrip .. | .suspendFreeze .. | .cutMarker .. | .suspendSave .. | .resumeAtTPrime .. | .keyset ..
  | .spdmRequest .. | .dataWavelengthFrame .. | .frameRecoveryServe .. | .frameRecoveryReply .. | .regenAnswer ..
  | .prismReplicaCopy .. | .tpostPublication .. => false

/-- A row that is one form of its opcode has the field that selects the form. -/
def Instr.formOk : Instr → Bool
  | .cinvLine x => x.scope == 0
  | .cinvDie x => x.scope == 1
  | .cinvPkg x => x.scope == 2
  | .prefL1 x => x.scope == 0
  | .prefL2 x => x.scope == 1
  | .mcpy x => bits x.f 5 4 == 0
  | .mcpyFp x => bits x.f 5 4 == 1
  | .mcpyHash x => bits x.f 5 4 == 2
  | .thndLd x => x.sub % 4 == 0
  | .thndSetc x => x.sub % 4 == 1
  | .thndAddc x => x.sub % 4 == 2
  | .thndGetc x => x.sub % 4 == 3
  | .time x => x.f % 4 == 0
  | .timeNbt x => x.f % 4 == 1
  | .tlbiAsid x => x.f % 4 == 0
  | .tlbiPage x => x.f % 4 == 1
  | .tlbiAll x => x.f % 4 == 2
  | _ => true

/-- Whether the opcode carries a trailing literal (R74). -/
def hasLit (op : Nat) : Bool := op == 0x25 || op == 0xB2

/-- Length of an instruction in 8-byte words (R74). -/
def wordsOf (op : Nat) : Nat := if hasLit op then 2 else 1

/-- Whether strand kind `k` may issue instruction `i` under header `h`: every check of R83 found at decode passes. -/
def Instr.wf (k : Kind) (h : Hdr) (i : Instr) : Bool :=
  match i.code with
  | none => false
  | some (op, w, lit) =>
    i.fits && i.formOk && decide (h.wb < 256) && decide (h.sb < 256) && decide (h.gd < 16) && strandOk k op
      && waitSigOk k h.wb h.sb && h.gd != 8 && ok5 k op w lit && ok6 k op w

end Sys2Proof
end

