-- ==== Sys2Proof/Decode.lean ====
section
/-! DEFINITION. The decoder, total on any bytes, with the checks of R83 in their order and a name for each refusal; and
the encoder, from the same tables of R73 to R80. -/

namespace Sys2Proof

/-- Why a word does not decode (R83): the check that fails first; or there are not 8 bytes, or no literal. -/
inductive Reject where
  | opcode | strand | waitSignal | guard | fieldValue | mustBeZero | short
deriving DecidableEq, Repr

/-- The sub-code of R83. -/
def Reject.sub : Reject → Nat
  | .opcode => 1 | .strand => 2 | .waitSignal => 3 | .guard => 4 | .fieldValue => 5 | .mustBeZero => 6 | .short => 0

/-- The instruction of an opcode, an operand field and a literal (R80); `none` where a form of the opcode is reserved. -/
def build (op w lit : Nat) : Option Instr :=
  match op with
  | 0x01 => some (.add (FmtA.dec w))
  | 0x02 => some (.addi (FmtI.dec w))
  | 0x03 => some (.sub (FmtA.dec w))
  | 0x04 => some (.mul (FmtA.dec w))
  | 0x05 => some (.mulh (FmtA.dec w))
  | 0x06 => some (.mulhn (FmtA.dec w))
  | 0x07 => some (.madd (FmtA.dec w))
  | 0x08 => some (.div (FmtA.dec w))
  | 0x09 => some (.divn (FmtA.dec w))
  | 0x0A => some (.rem (FmtA.dec w))
  | 0x0B => some (.remn (FmtA.dec w))
  | 0x0C => some (.and (FmtA.dec w))
  | 0x0D => some (.andi (FmtI.dec w))
  | 0x0E => some (.or (FmtA.dec w))
  | 0x0F => some (.ori (FmtI.dec w))
  | 0x10 => some (.xor (FmtA.dec w))
  | 0x11 => some (.andn (FmtA.dec w))
  | 0x12 => some (.shl (FmtA.dec w))
  | 0x13 => some (.shli (FmtI.dec w))
  | 0x14 => some (.shr (FmtA.dec w))
  | 0x15 => some (.shri (FmtI.dec w))
  | 0x16 => some (.sha (FmtA.dec w))
  | 0x17 => some (.shai (FmtI.dec w))
  | 0x18 => some (.rol (FmtA.dec w))
  | 0x19 => some (.clz (FmtA.dec w))
  | 0x1A => some (.ctz (FmtA.dec w))
  | 0x1B => some (.pcnt (FmtA.dec w))
  | 0x1C => some (.min (FmtA.dec w))
  | 0x1D => some (.max (FmtA.dec w))
  | 0x1E => some (.minn (FmtA.dec w))
  | 0x1F => some (.maxn (FmtA.dec w))
  | 0x20 => some (.slt (FmtA.dec w))
  | 0x21 => some (.sltn (FmtA.dec w))
  | 0x22 => some (.seq (FmtA.dec w))
  | 0x23 => some (.sel (FmtA.dec w))
  | 0x24 => some (.li (FmtI.dec w))
  | 0x25 => some (.liw (FmtI.dec w) (BitVec.ofNat 64 lit))
  | 0x26 => some (.bext (FmtA.dec w))
  | 0x27 => some (.bins (FmtA.dec w))
  | 0x30 => some (.fadd (FmtA.dec w))
  | 0x31 => some (.fsub (FmtA.dec w))
  | 0x32 => some (.fmul (FmtA.dec w))
  | 0x33 => some (.fdiv (FmtA.dec w))
  | 0x34 => some (.fsqrt (FmtA.dec w))
  | 0x35 => some (.ffma (FmtA.dec w))
  | 0x36 => some (.fmin (FmtA.dec w))
  | 0x37 => some (.fmax (FmtA.dec w))
  | 0x38 => some (.fcmp (FmtA.dec w))
  | 0x39 => some (.fcvt (FmtA.dec w))
  | 0x3A => some (.fclass (FmtA.dec w))
  | 0x3C => some (.beq (FmtB.dec w))
  | 0x3D => some (.bne (FmtB.dec w))
  | 0x3E => some (.blt (FmtB.dec w))
  | 0x3F => some (.bge (FmtB.dec w))
  | 0x40 => some (.bltn (FmtB.dec w))
  | 0x41 => some (.bgen (FmtB.dec w))
  | 0x42 => some (.jmp (FmtB.dec w))
  | 0x43 => some (.jal (FmtB.dec w))
  | 0x44 => some (.jr (FmtA.dec w))
  | 0x45 => some (.loopi (FmtI.dec w))
  | 0x46 => some (.loop (FmtB.dec w))
  | 0x47 => some (.rep (FmtI.dec w))
  | 0x48 => some (.yield (FmtZ.dec w))
  | 0x49 => some (.endStrand (FmtZ.dec w))
  | 0x4A => some (.nop (FmtZ.dec w))
  | 0x50 => some (.ld (FmtM.dec w))
  | 0x51 => some (.st (FmtM.dec w))
  | 0x52 => some (.ldnb (FmtP.dec w))
  | 0x53 => some (.stat (FmtP.dec w))
  | 0x54 => some (.amo (FmtP.dec w))
  | 0x55 => some (.cas (FmtP.dec w))
  | 0x56 => some (.fence (FmtI.dec w))
  | 0x57 =>
    match bits w 19 18 with
    | 0 => some (.prefL1 (FmtM.dec w))
    | 1 => some (.prefL2 (FmtM.dec w))
    | _ => none
  | 0x58 => some (.vld (FmtM.dec w))
  | 0x59 => some (.vst (FmtM.dec w))
  | 0x5A => some (.vgth (FmtA.dec w))
  | 0x5B => some (.vsct (FmtA.dec w))
  | 0x5C => some (.pld (FmtP.dec w))
  | 0x5D => some (.pst (FmtP.dec w))
  | 0x5E => some (.pamo (FmtP.dec w))
  | 0x5F => some (.pcas (FmtP.dec w))
  | 0x60 => some (.pstat (FmtP.dec w))
  | 0x61 => some (.pldnb (FmtP.dec w))
  | 0x62 => some (.mcst (FmtP.dec w))
  | 0x63 => some (.bst (FmtP.dec w))
  | 0x64 => some (.bamo (FmtP.dec w))
  | 0x65 => some (.bld (FmtP.dec w))
  | 0x66 =>
    match bits w 5 4 with
    | 0 => some (.mcpy (FmtA.dec w))
    | 1 => some (.mcpyFp (FmtA.dec w))
    | 2 => some (.mcpyHash (FmtA.dec w))
    | _ => none
  | 0x67 => some (.mcmp (FmtA.dec w))
  | 0x68 =>
    match bits w 19 18 with
    | 0 => some (.cinvLine (FmtM.dec w))
    | 1 => some (.cinvDie (FmtM.dec w))
    | 2 => some (.cinvPkg (FmtM.dec w))
    | _ => none
  | 0x70 => some (.vadd (FmtV.dec w))
  | 0x71 => some (.vsub (FmtV.dec w))
  | 0x72 => some (.vmul (FmtV.dec w))
  | 0x73 => some (.vfma (FmtV.dec w))
  | 0x74 => some (.vfms (FmtV.dec w))
  | 0x75 => some (.vmin (FmtV.dec w))
  | 0x76 => some (.vmax (FmtV.dec w))
  | 0x77 => some (.vabs (FmtV.dec w))
  | 0x78 => some (.vneg (FmtV.dec w))
  | 0x79 => some (.vand (FmtV.dec w))
  | 0x7A => some (.vor (FmtV.dec w))
  | 0x7B => some (.vxor (FmtV.dec w))
  | 0x7C => some (.vnot (FmtV.dec w))
  | 0x7D => some (.vshl (FmtV.dec w))
  | 0x7E => some (.vshr (FmtV.dec w))
  | 0x7F => some (.vsha (FmtV.dec w))
  | 0x80 => some (.vcmp (FmtV.dec w))
  | 0x81 => some (.vsel (FmtV.dec w))
  | 0x82 => some (.vmov (FmtV.dec w))
  | 0x83 => some (.vbcst (FmtV.dec w))
  | 0x84 => some (.viota (FmtV.dec w))
  | 0x85 => some (.vext (FmtV.dec w))
  | 0x86 => some (.vins (FmtV.dec w))
  | 0x87 => some (.vcvt (FmtV.dec w))
  | 0x88 => some (.vcvts (FmtV.dec w))
  | 0x89 => some (.vpack (FmtV.dec w))
  | 0x8A => some (.vunpk (FmtV.dec w))
  | 0x8B => some (.vrcp (FmtV.dec w))
  | 0x8C => some (.vrsq (FmtV.dec w))
  | 0x8D => some (.vexp2 (FmtV.dec w))
  | 0x8E => some (.vlog2 (FmtV.dec w))
  | 0x8F => some (.vsin (FmtV.dec w))
  | 0x90 => some (.vtanh (FmtV.dec w))
  | 0x91 => some (.vreds (FmtV.dec w))
  | 0x92 => some (.vredm (FmtV.dec w))
  | 0x93 => some (.vscan (FmtV.dec w))
  | 0x94 => some (.vperm (FmtV.dec w))
  | 0x95 => some (.vlsh (FmtV.dec w))
  | 0x96 => some (.vlrot (FmtV.dec w))
  | 0x97 => some (.vfam (FmtV.dec w))
  | 0x98 => some (.vfax (FmtV.dec w))
  | 0x99 => some (.vdot4 (FmtV.dec w))
  | 0x9A => some (.vtopk (FmtV.dec w))
  | 0x9B => some (.vdefq (FmtV.dec w))
  | 0x9C => some (.vdefd (FmtV.dec w))
  | 0x9D => some (.vdefn (FmtV.dec w))
  | 0xB0 =>
    match w % 4 with
    | 0 => some (.thndLd (FmtT.dec w))
    | 1 => some (.thndSetc (FmtT.dec w))
    | 2 => some (.thndAddc (FmtT.dec w))
    | 3 => some (.thndGetc (FmtT.dec w))
    | _ => none
  | 0xB1 => some (.tfill (FmtT.dec w))
  | 0xB2 => some (.tfillm (FmtT.dec w) (TfLit.dec lit))
  | 0xB3 => some (.talloc (FmtT.dec w))
  | 0xB4 => some (.tdrain (FmtT.dec w))
  | 0xB5 => some (.tpost (FmtT.dec w))
  | 0xB6 => some (.thint (FmtT.dec w))
  | 0xB7 => some (.tpref (FmtT.dec w))
  | 0xB8 => some (.titin (FmtT.dec w))
  | 0xB9 => some (.tinv (FmtT.dec w))
  | 0xBA => some (.tld (FmtT.dec w))
  | 0xBB => some (.tst (FmtT.dec w))
  | 0xBC => some (.tgth (FmtT.dec w))
  | 0xBD => some (.tsct (FmtT.dec w))
  | 0xBE => some (.tver (FmtT.dec w))
  | 0xBF => some (.tqrel (FmtT.dec w))
  | 0xC0 => some (.mma (FmtX.dec w))
  | 0xC1 => some (.mmas (FmtX.dec w))
  | 0xC2 => some (.aclr (FmtX.dec w))
  | 0xC3 => some (.acommit (FmtX.dec w))
  | 0xC4 => some (.adiscard (FmtX.dec w))
  | 0xC5 => some (.amov (FmtX.dec w))
  | 0xC6 => some (.adrn (FmtX.dec w))
  | 0xC7 => some (.kset (FmtQ.dec w))
  | 0xC8 => some (.kget (FmtQ.dec w))
  | 0xD0 => some (.launch (FmtQ.dec w))
  | 0xD1 => some (.qpush (FmtQ.dec w))
  | 0xD2 => some (.semw (FmtQ.dec w))
  | 0xD3 => some (.semadd (FmtQ.dec w))
  | 0xD4 => some (.bara (FmtQ.dec w))
  | 0xD5 => some (.barw (FmtQ.dec w))
  | 0xD6 => some (.barm (FmtQ.dec w))
  | 0xD7 => some (.coll (FmtQ.dec w))
  | 0xD8 => some (.collw (FmtQ.dec w))
  | 0xE0 => some (.sysr (FmtS.dec w))
  | 0xE1 => some (.sysw (FmtS.dec w))
  | 0xE2 => some (.trap (FmtI.dec w))
  | 0xE3 => some (.eret (FmtZ.dec w))
  | 0xE4 => some (.ppt (FmtI.dec w))
  | 0xE5 =>
    match w % 4 with
    | 0 => some (.time (FmtA.dec w))
    | 1 => some (.timeNbt (FmtA.dec w))
    | _ => none
  | 0xE6 =>
    match w % 4 with
    | 0 => some (.tlbiAsid (FmtA.dec w))
    | 1 => some (.tlbiPage (FmtA.dec w))
    | 2 => some (.tlbiAll (FmtA.dec w))
    | _ => none
  | 0xE7 => some (.iflush (FmtZ.dec w))
  | 0xE8 => some (.brk (FmtI.dec w))
  | 0xE9 => some (.waite (FmtI.dec w))
  | _ => none

/-- The wait byte, signal byte and guard of a word (R73). -/
def Hdr.dec (w : Nat) : Hdr := ⟨w / 2 ^ 56 % 256, w / 2 ^ 48 % 256, w / 2 ^ 36 % 16⟩

/-- Decode a word and the word after it for a strand kind, in the order of R83. -/
def decode (k : Kind) (w lit : Nat) : Except Reject (Hdr × Instr) :=
  let op := w / 2 ^ 40 % 256
  let x := w % 2 ^ 36
  let h := Hdr.dec w
  if !opLegal op then .error .opcode
  else if !strandOk k op then .error .strand
  else if !waitSigOk k h.wb h.sb then .error .waitSignal
  else if h.gd == 8 then .error .guard
  else if !ok5 k op x lit then .error .fieldValue
  else if !ok6 k op x then .error .mustBeZero
  else
    match build op x lit with
    | some i => .ok (h, i)
    | none => .error .fieldValue

/-- The opcode of a word. -/
def opOf (w : Nat) : Nat := w / 2 ^ 40 % 256

/-- A list of bytes as a little-endian number (R8). -/
def leNat : List Byte → Nat
  | [] => 0
  | b :: t => b.toNat + 256 * leNat t

/-- Decode the bytes at a PC: the instruction and the bytes that follow it and its literal. -/
def decodeBytes (k : Kind) (l : List Byte) : Except Reject ((Hdr × Instr) × List Byte) :=
  if l.length < 8 then .error .short
  else
    let w := leNat (l.take 8)
    let n := if hasLit (opOf w) then 16 else 8
    if opLegal (opOf w) && strandOk k (opOf w) && decide (l.length < n) then .error .short
    else
      match decode k w (leNat ((l.drop 8).take 8)) with
      | .ok r => .ok (r, l.drop n)
      | .error e => .error e

/-- The instruction word of an instruction under a header (R73). -/
def encodeWord (h : Hdr) (i : Instr) : Option Nat :=
  match i.code with
  | some (op, w, _) => some (h.wb * 2 ^ 56 + h.sb * 2 ^ 48 + op * 2 ^ 40 + h.gd * 2 ^ 36 + w)
  | none => none

/-- The literal word of an instruction (R74); 0 for one that has none. -/
def encodeLit (i : Instr) : Nat :=
  match i.code with
  | some (_, _, lit) => lit
  | none => 0

/-- A number as `n` little-endian bytes (R8). -/
def leBytes : Nat → Nat → List Byte
  | 0, _ => []
  | n + 1, x => BitVec.ofNat 8 x :: leBytes n (x / 256)

/-- The bytes of an instruction in memory: its word and, where it has one, its literal (R73, R74). -/
def encode (h : Hdr) (i : Instr) : List Byte :=
  match i.code with
  | some (op, _, lit) =>
    match encodeWord h i with
    | some w => leBytes 8 w ++ (if hasLit op then leBytes 8 lit else [])
    | none => []
  | none => []

/-- A strand kind that may execute an opcode (R82): S where S may, else A, X, W, C in that order. -/
def kindFor (op : Nat) : Kind :=
  if strandOk .S op then .S else if strandOk .A op then .A else if strandOk .X op then .X
  else if strandOk .W op then .W else .C

/-- The instruction whose first word is `w mod 2^64` and whose literal is `w / 2^64`, laid out as bytes and decoded for a
strand kind that may execute its opcode. -/
def decodeTableWord (_nbits w : Nat) : Option Instr :=
  match decodeBytes (kindFor (opOf (w % 2 ^ 64))) (leBytes 8 (w % 2 ^ 64) ++ leBytes 8 (w / 2 ^ 64)) with
  | .ok ((_, i), _) => some i
  | .error _ => none

end Sys2Proof
end

