-- ==== Sys2Proof/Machine/State.lean ====
section
/-! DEFINITION. The state of one Strelelle 9640 package as plain data: its 128 cells with their task slots and strands,
its 16 conductors, the hub, memory, the contexts, the Prism member, Reticle time, the host interface and the service
state; `State.reset`; and the reasons a step can stop. Fields that are the model's own, not the spec's, say so. -/

namespace Sys2Proof.Machine

open Sys2Proof

/-- Reasons the machine stops. The spec describes every fault of this hardware as a trap, a frozen task, a halted
conductor or a refused command, all of which are next states here; so no constructor is needed and no step faults. Safe. -/
inductive Fault where
deriving DecidableEq, Repr

/-- Reasons the model gives no meaning. -/
inductive Refusal where
  /-- Raised by an arm of `exec` for a row that has no meaning yet; safe, since nothing can be proved of what follows. -/
  | notModelled (mnemonic : String)
deriving DecidableEq, Repr

/-! ## Strands and task slots -/

/-- The states of a task slot (R16). -/
inductive SlotState where
  | free | preload | run | parked | frozen | ending
deriving DecidableEq, Repr

/-- One token queue (R19, R20): the count at the start of the clk, the pushes and pops made in this clk, and the
tokens reserved but not yet pushed (R21). -/
structure TokQ where
  cnt : Nat := 0
  push : Nat := 0
  pop : Nat := 0
  res : Nat := 0
deriving DecidableEq, Repr

/-- When a reserved push is due (R25): now, at a clk, when an operation performs, or when its operands are consumed. -/
inductive PushAt where
  | now
  | clk (t : Nat)
  | perform (seq : Nat)
  | consumed (seq : Nat)
  /-- while the task is frozen: so many clk after its restart (R223, R224) -/
  | rel (r : Nat)
  /-- never: its operation was refused after issue and does not perform, so the reservation stays (R28, R384) -/
  | lost
deriving DecidableEq, Repr

/-- A reserved push of `m` tokens onto Q[src, dst] by the instruction numbered `seq` (R21, R22). -/
structure Push where
  seq : Nat
  src : Kind
  dst : Kind
  m : Nat
  due : PushAt
deriving DecidableEq, Repr

/-- A pending-write slate entry (R223): offset resolved at issue, byte length, lane mask, value, remaining count. -/
structure SlateEntry where
  seq : Nat
  /-- which side of the order of R44 the write stands on -/
  engine : Bool
  off : Nat
  len : Nat
  mask : Nat
  val : Nat
  r : Nat
deriving DecidableEq, Repr

/-- The state of one strand (R17, R18, R42, R91), with the model's own bookkeeping of readiness (R46, R47). -/
structure Strand where
  pc : Word := 0
  ended : Bool := false
  rotv : Word := 0
  qpred : Word := 0
  nbt : Word := 0
  barsel : Nat := 0
  defsel : Nat := 0
  lpctl : Word := 0
  lpidx : Word := 0
  repst : Word := 0
  k : Tab Word := []
  ks : Tab Word := []
  slate : List SlateEntry := []
  /-- clk of the latest swap of k and ks (R42), for KGET and KSET in the same clk -/
  swapClk : Option Nat := none
  /-- clk from which the integer divider is free (R93); of a FROZEN task, clk for which it stays taken after the restart -/
  divFree : Nat := 0
  /-- clk from which the float divide and square-root unit is free (R93) -/
  fdivFree : Nat := 0
  /-- operation that holds the strand until it performs (R46: SEMW, COLLW, LAUNCH, THND.LD, TLD) -/
  block : Option Nat := none
  /-- clk for which the strand has been ready (R47) -/
  age : Nat := 0
  /-- clk up to which the strand ranks last after YIELD (R109) -/
  yieldUntil : Nat := 0
  /-- the strand raised the fault that freezes its task (R220) -/
  stopped : Bool := false
  /-- first clk in which the strand may issue again: a prediction that was wrong, a restart (R104, R224) -/
  gate : Nat := 0
deriving DecidableEq, Repr

/-- A KSET to be written at the end of its issue clk (R202). -/
structure KsetWrite where
  k : Kind
  reg : Nat
  field : Nat
  val : Nat
deriving DecidableEq, Repr

/-- The task's itinerary (R184): handle, record address, count, distance, position. -/
structure Itin where
  h : Nat
  base : Word
  n : Nat
  d : Nat
  p : Nat
deriving DecidableEq, Repr

/-- The latest fault of a task, as ERET needs it (R221, R309). -/
structure LastFault where
  precise : Bool
  strand : Kind
  code : Nat
  seq : Nat
  killOnly : Bool
  /-- PC of the faulting instruction and its length in words -/
  pc : Word
  len : Nat
deriving DecidableEq, Repr

/-- Why a slot freezes at the end of the clk (R220, R306, R392). -/
inductive FreezeWhy where
  | fault | ppt (live : Nat) | forced | suspend
deriving DecidableEq, Repr

/-- A translation held by a TLB or a page register (R323): ASID, page base, page size in bits, frame base, the entry's
bits and level. -/
structure Trans where
  asid : Nat
  va : Nat
  sz : Nat
  pa : Nat
  pte : Nat
  level : Nat
deriving DecidableEq, Repr

/-- One task slot (R15, R16): its views, its task registers and its four strands. -/
structure Slot where
  st : SlotState := .free
  ctx : Nat := 0
  pos : Nat := 0
  recId : Nat := 0
  recAddr : Word := 0
  launch : Nat := 0
  prio : Nat := 0
  lock : Bool := false
  /-- lockstep round number (R287) -/
  round : Nat := 0
  sweep : Bool := false
  stage : Nat := 0
  sview : Word := 0
  vview : Word := 0
  aview : Word := 0xFAC6880000000000#64
  s : Strand := {}
  a : Strand := {}
  x : Strand := {}
  w : Strand := {}
  /-- queue from strand y to strand x at key 4*y + x -/
  q : Tab TokQ := []
  pushes : List Push := []
  /-- valid handles: the 64-byte descriptor each holds (R173) -/
  h : Tab (BitVec 512) := []
  c : Tab Word := []
  p : Tab Nat := []
  arrg : Tab (BitVec 32) := []
  /-- pin list: position 0-15 to Lens entry id (R189) -/
  pins : Tab Nat := []
  itin : Option Itin := none
  ksets : List KsetWrite := []
  /-- ACOMMITs of this clk: pairs of AMAP fields to exchange at its end (R199) -/
  swaps : List (Nat × Nat) := []
  freezing : Option FreezeWhy := none
  /-- the freeze that the task still awaited when a suspend froze it: it falls due again at T′ (R306, R394) -/
  freezeNext : Option FreezeWhy := none
  frozenBy : Option FreezeWhy := none
  lastFault : Option LastFault := none
  /-- live mask of the PPT at which the task froze (R306, R309) -/
  live : Option Nat := none
  /-- pending pre-emption request: Reticle time at which the forced save falls due, which no wrap brings nearer (R305, R306) -/
  preReq : Option Nat := none
  /-- clk in which that request became pending (R306) -/
  preClk : Nat := 0
  /-- command queue (8*die + queue) whose PREEMPT named the task -/
  preBy : Option Nat := none
  ftime : Word := 0
  parkSeq : Option Nat := none
  /-- SUSPEND event not yet reported to the S strand (R215) -/
  suspendEv : Bool := false
  /-- page registers: current at 2*stream, next at 2*stream+1 (R324) -/
  pages : Tab Trans := []
  /-- latest access address of each stream (R325) -/
  lastVa : Tab Nat := []
deriving DecidableEq, Repr

/-! ## Cells -/

/-- A fixed-latency register-space write in flight (R43, R93, R151). `engine` says which side of the order of R44 it
stands on; `slate` that it comes from a slate (R224). -/
structure RegWrite where
  seq : Nat
  slot : Nat
  k : Kind
  engine : Bool
  interlock : Bool
  slate : Bool
  due : Nat
  off : Nat
  len : Nat
  mask : Nat
  val : Nat
  /-- an entry of a resumed slate that has not reached its landing clk (R224) -/
  resumed : Bool := false
deriving DecidableEq, Repr

/-- The states of a Lens entry (R232); an INVALID entry is not listed. `waiting` is an entry that has been allocated as
its tile's current entry and still waits for a way and frames (R177, R179). -/
inductive LensState where
  | waiting | filling | clean | producing | draining | spilled
deriving DecidableEq, Repr

/-- Where a fill takes its data from (R244). -/
inductive FillSrc where
  | notFill
  | waiting
  | asked (cell eid : Nat)
  /-- the home in member SRC has been asked (R244 step 4) -/
  | member
  | lens (data scale : Memory)
  | memory
  | remote (data scale : Memory)
deriving DecidableEq, Repr

/-- One Lens entry with its scale entry (R229 to R234): tag, state, granules and bytes. -/
structure Entry where
  id : Nat
  ctx : Nat
  tid : Nat
  coord : Word
  desc : BitVec 512
  /-- tag places of the data tile and of the scale tile: 16 * set + way (R229, R234) -/
  way : Nat := 0
  sway : Option Nat := none
  ver : Nat := 0
  resolved : Bool := true
  /-- the version a fill asks for, at least; `none` asks for the latest (R175) -/
  want : Option Nat := none
  st : LensState := .filling
  cur : Bool := true
  lastUse : Bool := false
  /-- its place in the order of recency: the lower the less recent (R235) -/
  lru : Int := 0
  produced : Bool := false
  published : Bool := false
  /-- allocating task: slot and position -/
  slot : Nat := 0
  pos : Nat := 0
  launch : Nat := 0
  data : Memory := []
  scale : Memory := []
  /-- published while SPILLED: CLEAN with every granule empty and no frames held (R237) -/
  frameless : Bool := false
  full : Nat := 0
  sfull : Nat := 0
  /-- granules that the fill in progress has landed, scale granules from bit 4,096 (R180, R232) -/
  landed : Nat := 0
  src : FillSrc := .notFill
  /-- physical address of the tile's first byte, once the home has been asked (R240) -/
  home : Nat := 0
deriving DecidableEq, Repr

/-- A tile of a context (R176, R240). -/
structure TileKey where
  ctx : Nat
  tid : Nat
  coord : Word
deriving DecidableEq, Repr

/-- The shape an MMA bound at issue (R196). -/
structure MmaOp where
  eidA : Nat
  eidB : Nat
  accD : Nat
  accB : Nat
  types : Nat
  mode : Nat
  mmas : Bool
  m : Nat
  n : Nat
  klen : Nat
  koff : Nat
  /-- granules of each operand that were full at issue (R195) -/
  fullA : Nat
  fullB : Nat
  /-- what first filled a granule that was empty at issue: granule (scale granules from 4096) to its bytes (R195) -/
  snapA : Tab Nat
  snapB : Tab Nat
  /-- the fill a TFILLM follow-on waits for (R182) -/
  after : Option Nat
deriving DecidableEq, Repr

/-- The commands of the Lens, the drain engine and the matrix array (R177, R239). -/
inductive LensCmd where
  /-- allocate entry `eid` of a tile, to fill (`want`) or to produce (`ver`) -/
  | alloc (eid : Nat) (tile : TileKey) (desc : BitVec 512) (produce : Bool) (want : Option Nat) (ver hint : Nat)
  /-- performs when entry `eid` is complete -/
  | fill (eid : Nat)
  | drain (eid hint : Nat)
  | tpost (tile : TileKey) (desc : BitVec 512) (ver : Nat)
  | tqrel (tile : TileKey) (desc : BitVec 512) (ver : Nat)
  /-- rows still to move, each with its address; a row of TGTH without one is left zero -/
  | tgth (eid : Nat) (rows : List (Nat × Option Word))
  | tsct (eid : Nat) (rows : List (Nat × Option Word))
  | tinv (eid : Nat)
  /-- read 256 bytes at `off` of entry `eid` into the v register at register-space offset `dst` -/
  | tld (eid off dst : Nat) (consume : Bool)
  /-- a TST on an entry that is not in the Lens at present (R237): offset and 256 bytes -/
  | tst (eid off val : Nat)
  /-- an ADRN on such an entry -/
  | adrn (eid src m n rnd : Nat) (nan asInt : Bool)
  | mma (m : MmaOp)
deriving DecidableEq, Repr

/-- How far a command has come. -/
inductive CmdSt where
  | parked | active | granted
deriving DecidableEq, Repr

/-- A command in the replay queue (`parked`) or at its engine (`active`) (R177, R239). -/
structure LensOp where
  seq : Nat
  slot : Nat
  k : Kind
  fpc : Word
  /-- word and literal, for a save (R308) -/
  word : Word
  lit : Word
  cmd : LensCmd
  st : CmdSt
  issued : Nat
  /-- clk for which an allocation has been parked with every candidate pinned (R238) -/
  pinnedFor : Nat := 0
  /-- PIN_EXHAUSTION has been raised for the present wait (R238) -/
  reported : Bool := false
  /-- bytes of the drain, or of the row that is moving, already written (R250) -/
  done : List Nat := []
  /-- the scan for frames has made a rotation for the command (R236) -/
  scanned : Bool := false
  /-- the instruction whose entry of the replay queue it holds (R46, R177) -/
  inst : Nat := 0
  /-- REPST before the instruction issued, for a TLD that faults precisely later (R28, R108) -/
  repst : Word := 0
deriving DecidableEq, Repr

/-- The operands of an accepted matrix operation as the array reads them (R70, R71, R195): element formats, scale modes,
tensor exponents; elements of A by (row, k) and of B by (column, k) in 16 bits each, their block scales in 8. -/
structure MmaData where
  ta : Nat
  tb : Nat
  sa : Nat
  sb : Nat
  ea : Int
  eb : Int
  a : Nat
  b : Nat
  asc : Nat
  bsc : Nat
deriving DecidableEq, Repr

/-- A row-by-row operation of the matrix array or on an accumulator (R197, R199, R201). -/
inductive RowKind where
  | mma (m : MmaOp) (d : MmaData)
  | aclr (acc : Nat)
  | amov (dst src : Nat)
  | adrn (src eid m n rnd : Nat) (nan asInt : Bool)
deriving DecidableEq, Repr

/-- An accepted or running row operation: rows read so far. -/
structure RowOp where
  seq : Nat
  slot : Nat
  k : Kind
  start : Nat
  kind : RowKind
  row : Nat := 0
  consumed : Bool := false
  /-- PC of the instruction -/
  fpc : Word := 0
deriving DecidableEq, Repr

/-- A write into a Lens entry that lands at a clk, or is held by R195. -/
structure LensWrite where
  seq : Nat
  slot : Nat
  k : Kind
  eid : Nat
  due : Nat
  /-- (tile offset, length, value), each within one granule; offsets from 65,536 are offsets into the scale bytes -/
  parts : List (Nat × Nat × Nat)
  /-- a TLD.C empties the granules of its parts in that clk (R192) -/
  empties : Bool := false
deriving DecidableEq, Repr

/-- What a copy-engine command does (R143). -/
inductive CopyKind where
  | copy | copyFp | hash | cmp
deriving DecidableEq, Repr

/-- Where a result goes: nowhere (s0), an s register by register-space offset, a conductor register, a v register. -/
inductive Dst where
  | none
  | s (cell slot : Nat) (k : Kind) (off : Nat)
  | cond (n reg : Nat)
  | v (cell slot off : Nat)
deriving DecidableEq, Repr

/-- One byte range an access touches. -/
inductive Loc where
  /-- physical memory under a key slot (R316, R328) -/
  | mem (pa key : Nat)
  /-- a conductor's own memory (R296) -/
  | cond (n off : Nat)
  /-- the memory of group member `m` (R135) -/
  | peer (m : Nat) (ea : Word)
  /-- the Prism region (R139) -/
  | prism (off : Nat)
deriving DecidableEq, Repr

/-- The piece that a copy command has in progress: its bytes as they were read, where they go, and the offsets in it that have been
written (R143, R250). -/
structure CopyBuf where
  bytes : List Byte
  dst : List (Loc × Nat)
  moved : List Nat := []
deriving DecidableEq, Repr

/-- A copy command (R143, R145): a, b and n, its progress, its running SHA-256 state. -/
structure CopyCmd where
  id : Nat
  agent : Agent
  ctx : Nat
  kind : CopyKind
  cls : Nat
  scope : Nat
  a : Word
  b : Word
  n : Nat
  dst : Dst
  fpc : Word
  word : Word
  off : Nat := 0
  sha : BitVec 256
  stopped : Bool := false
  /-- the piece in progress -/
  buf : Option CopyBuf := none
  /-- the result, once every byte has been moved or compared and until the command performs -/
  out : Option Word := none
  /-- its task was killed while the engine performed it (R222, R225) -/
  orphan : Bool := false
deriving DecidableEq, Repr

/-- An entry of a deferral path (R165) and the clk it was appended in (R169). -/
structure DefEntry where
  v0 : BitVec 32
  v1 : BitVec 32
  v2 : BitVec 32
  v3 : BitVec 32
  o : BitVec 32
  clk : Nat
deriving DecidableEq, Repr

/-- A deferral path: its entries, oldest first, and the context they belong to (R165). -/
structure DefPath where
  ctx : Nat := 0
  ents : List DefEntry := []
deriving DecidableEq, Repr

/-- A per-cell iteration queue of one record (R275): positions with the clk of their arrival. -/
structure IterQ where
  rid : Nat
  ents : List (Nat × Nat) := []
deriving DecidableEq, Repr

/-- An outstanding steal of a cell (R280, R281). -/
structure Steal where
  rid : Nat
  victim : Option Nat
  /-- the request has reached the victim, whose queue engine answers at the end of a clk (R277) -/
  arrived : Bool := false
  answered : Bool := false
  got : Option Nat := none
deriving DecidableEq, Repr

/-- One cell (R15). -/
structure Cell where
  regs : Memory := []
  slots : Tab Slot := []
  wr : List RegWrite := []
  /-- strands that issued in this clk: kind and slot (R47) -/
  issued : List (Kind × Nat) := []
  lens : List Entry := []
  /-- frames of entries being allocated are taken from 4,096 (R229) -/
  scanPtr : Nat := 0
  scanLeft : Nat := 0
  lensWr : List LensWrite := []
  ops : List LensOp := []
  rows : List RowOp := []
  /-- start and D of the operation the array accepted last (R197) -/
  lastAccept : Option (Nat × Nat) := none
  /-- clk in which each receiver last took a command: allocator, drain engine, array (R239) -/
  handClk : Tab Nat := []
  copyq : List CopyCmd := []
  defq : Tab DefPath := []
  tlb : List Trans := []
  /-- how many of the first stores to memory the cell's instruction fetch is bound to see: its own, every cell's (R75) -/
  flushedOwn : Nat := 0
  flushedAll : Nat := 0
  iterqs : List IterQ := []
  steal : Option Steal := none
  stealClk : Option Nat := none
  /-- consecutive failed steal requests by record (R280) -/
  fails : Tab Nat := []
  /-- register-space regions: context number + 1 of the tag (R295) -/
  tags : Tab Nat := []
  /-- KiB of the register space that a running scrub has come to (R295) -/
  scrub : Option Nat := none
  /-- Reticle times of failures of structure 0x09 (R388) -/
  failTimes : List Word := []
deriving DecidableEq, Repr

/-! ## Conductors -/

/-- Whether a conductor runs (R296, R217). -/
inductive CondSt where
  | stopped | running | halted
deriving DecidableEq, Repr

/-- One conductor: its registers, its memories and its events (R82, R91, R212, R296). DESIGN CHOICE, log entry 1. -/
structure Cond where
  st : CondSt := .stopped
  regs : Tab Word := []
  pc : Word := 0x00FFFF0000000000#64
  qpred : Word := 0
  nbt : Word := 0
  lpctl : Word := 0
  lpidx : Word := 0
  repst : Word := 0
  ctxid : Word := 0
  ercl : Word := 0
  p : Tab Nat := []
  imem : Memory := []
  dmem : Memory := []
  doorbell : Bool := false
  suspendEv : Bool := false
  /-- results in flight: number, register, value, clk due -/
  wr : List (Nat × Nat × Word × Nat) := []
  /-- copy commands of the conductor, in issue order (R143, R217) -/
  copyq : List CopyCmd := []
  issuedClk : Option Nat := none
  divFree : Nat := 0
  fdivFree : Nat := 0
  block : Option Nat := none
  gate : Nat := 0
deriving DecidableEq, Repr

/-! ## Accesses -/

/-- One element of an access: where it lies, its lane, its store data and, for N4, the nibble it covers (R127). -/
structure Elem where
  loc : Loc
  va : Word
  lane : Nat
  data : Nat
  nib : Option Bool := none
  /-- size of the page that translated it, as a power of two (R334) -/
  sz : Nat := 12
  /-- the bytes of a vector load's element, once it has been read and before the load has performed (R43) -/
  got : Option Nat := none
deriving DecidableEq, Repr

/-- The kinds of address-based access and of engine instruction that are performed after issue (R116). -/
inductive AccKind where
  | load | store | vload | vstore
  | amo (op : Nat) | cas
  | stat (t : Word)
  | ldnb (x : Word)
  | fence (kind mask : Nat)
  | cinv (extent : Nat)
  | mcst (members acked : Nat)
  | bst (mask : Nat) | bamo (op : Nat) | bld
  | semw (target : Word)
  | launch | qpush (sel : Nat) | coll | collw (ticket : Nat)
  | thnd (h : Nat)
  | bara (n : Nat) | barm (n : Nat) (mask quota : Nat)
  | tlbi (mode asid : Nat) (va : Word)
  | iflush
deriving DecidableEq, Repr

/-- An access that has issued and not yet performed (R115, R116). -/
structure Acc where
  id : Nat
  agent : Agent
  ctx : Nat
  kind : AccKind
  cls : Nat
  scope : Nat
  acq : Bool := false
  rel : Bool := false
  byp : Bool := false
  size : Nat := 3
  elems : List Elem := []
  dst : Dst := .none
  x : Word := 0
  d : Word := 0
  fpc : Word := 0
  /-- the instruction word, and REPST before it issued: what a late precise fault returns (R28, R108) -/
  word : Word := 0
  repst : Word := 0
  /-- sent to a peer, to the Prism queue or released to the home -/
  sent : Bool := false
  /-- its task was killed: it performs, and orders nothing of a later task (R222, R225) -/
  orphan : Bool := false
  /-- Reticle time of the sender at issue, for the remote-data cache (R256) -/
  rt : Word := 0
  /-- the ends of the die fabric at which its request has arrived (R337, R338) -/
  arrived : List Nat := []
  /-- facet port over which its request went to each member (R342) -/
  ports : Tab Nat := []
deriving DecidableEq, Repr

/-- A time-tagged store held at its home (R131). -/
structure Held where
  id : Nat
  agent : Option Agent
  ctx : Nat
  elems : List Elem
  size : Nat
  t : Word
  die : Nat
deriving DecidableEq, Repr

/-- A time-tagged store that came late, on its way to the issuer: access, agent, context, PC of the instruction, address (R133, R226). -/
structure LateStore where
  id : Nat
  agent : Agent
  ctx : Nat
  fpc : Word
  va : Word
  /-- its task was killed -/
  orphan : Bool := false
deriving DecidableEq, Repr

/-- A fault to be raised at the issuing strand: reported after issue (kind 1) or asynchronous (kind 2) (R117, R226). -/
structure Report where
  agent : Agent
  kind : Nat
  code : Nat
  fpc : Word
  addr : Word
  aux : Word
  aux2 : Word
  /-- a failure of the slot's own state: ERET may only kill (R383, code 0x09) -/
  killOnly : Bool := false
deriving DecidableEq, Repr

/-- A miss that waits for a walker (R322). -/
structure WalkReq where
  agent : Agent
  ctx : Nat
  va : Word
  kind : Nat
  task : Bool
  spec : Bool
  /-- page register that a next-page fill sets: stream (R325) -/
  stream : Option Nat := none
  /-- a PREF .l1 brings its line with the translation (R120) -/
  line : Bool := false
deriving DecidableEq, Repr

/-- A walk that refused, held until its instruction issues again and faults (R326, R327). -/
structure WalkRefusal where
  agent : Agent
  va : Word
  kind : Nat
  cause : Nat
  level : Nat
deriving DecidableEq, Repr

/-- A sector of a remote-data cache (R254): die, context, sector address, its bytes, the Reticle reading of its fill. -/
structure RdcSector where
  die : Nat
  ctx : Nat
  pa : Nat
  key : Nat
  bytes : Nat
  filled : Word
deriving DecidableEq, Repr

/-- A shootdown in progress (R334, R335). -/
structure Shoot where
  id : Nat
  mode : Nat
  asid : Nat
  va : Word
deriving DecidableEq, Repr

/-! ## Launches -/

/-- One loop of a record (R270). -/
structure LoopD where
  count : Nat
  start : Nat
  step : Nat
  val : Bool
deriving DecidableEq, Repr

/-- The steps of a record's completion (R282, R407). -/
inductive RecPhase where
  | running | writeStat | addSem
deriving DecidableEq, Repr

/-- An accepted, uncompleted loop-nest record (R269 to R284). -/
structure Rec where
  id : Nat
  ctx : Nat
  launch : Nat
  addr : Word
  raw : Nat
  cmask : Nat
  total : Nat
  nextBlock : Nat := 0
  /-- positions dealt to a die and not yet placed, ascending -/
  dealt : Tab (List Nat) := []
  /-- positions handed to a slot or failed -/
  handed : Nat := 0
  /-- tasks of the record not yet FREE, saved ones included -/
  live : Nat := 0
  failed : Nat := 0
  defdrop : Nat := 0
  first : Nat := 0
  phase : RecPhase := .running
  /-- command queue (8*die + queue) of a RUN that launched it -/
  byQ : Option Nat := none
  /-- next lockstep position and round (R287) -/
  lockNext : Nat := 0
  round : Nat := 0
  /-- requests for a block that the hub has not served: clk of arrival and die (R274) -/
  asked : List (Nat × Nat) := []
  /-- paths whose sweep task the views refused: cell and path (R278, R284) -/
  unswept : List (Nat × Nat) := []
  /-- a completion write has failed and waits to be tried again (R407) -/
  stuck : Bool := false
deriving DecidableEq, Repr

/-- A chain that the hub has been handed and has not yet accepted (R272, R298). -/
structure Chain where
  id : Nat
  ctx : Nat
  agent : Option Agent
  /-- the command queue (8*die + queue) of a RUN -/
  byQ : Option Nat
  addr : Word
  /-- records already read, as 2,048-bit numbers with their addresses -/
  recs : List (Word × Nat) := []
deriving DecidableEq, Repr

/-- A barrier of a context (R208, R209). -/
structure Barrier where
  g : BitVec 32 := 0
  members : Nat := 2 ^ 128 - 1
  quota : Nat := 1
  /-- arrivals by cell in the current generation and beyond -/
  arr : Tab Nat := []
  pending : Option (Nat × Nat) := none
deriving DecidableEq, Repr

/-- The version record of a tile (R240), with the home's serialisation state (R242). -/
structure VerRec where
  tile : TileKey
  stack : Nat
  pub : Nat := 0
  rel : Nat := 0
  src : Nat := 0
  draining : Bool := false
deriving DecidableEq, Repr

/-- A holder of a tile (R245): the package's index, cell and entry of its Lens, and the version. -/
structure Holder where
  pkg : Nat
  cell : Nat
  eid : Nat
  ver : Nat
deriving DecidableEq, Repr

/-- An entry of a channel directory (R245): a tile, the physical address of its first byte, which names the stack and its channel, and its
Lens holders, oldest first. -/
structure DirEnt where
  tile : TileKey
  pa : Nat
  holders : List Holder
deriving DecidableEq, Repr

/-- A fill that the home serves from memory (R242): its tile, and the cell and entry that it fills. -/
structure FillRead where
  tile : TileKey
  cell : Nat
  eid : Nat
deriving DecidableEq, Repr

/-- A collective of a context (R210, R363 to R366). -/
structure Coll where
  ticket : Nat
  desc : BitVec 512
  matched : Bool := false
  agent : Agent
  /-- the own contribution as the engine has read it, and the data frames received so far (R350, R392) -/
  own : List Word := []
  frames : List DataFrame := []
  /-- data frames that are lost and being fetched from their senders: sender, wavelength, count (R358) -/
  missing : List (Nat × Nat × Nat) := []
  /-- bytes of SRC have been written since the COLL (R366) -/
  spoilt : Bool := false
  /-- the bytes for DST, from when the first of them has been written (R250) -/
  out : Option (List Byte) := none
deriving DecidableEq, Repr

/-- A fault record (R226). -/
structure FaultRec where
  seq : Nat
  code : Nat
  sub : Nat
  kind : Nat
  cell : Nat
  slot : Nat
  strand : Nat
  lock : Bool
  ctx : Nat
  asid : Nat
  time : Word
  fpc : Word
  rpc : Word
  addr : Word
  aux : Word
  aux2 : Word
deriving DecidableEq, Repr

/-- What the scheduling hardware keeps of a saved task while its block holds the rest (R283, R309, R314): where it belongs, the
strands that had ended, its latest fault, the places taken on its pin list with the descriptors of their entries, and the numbers by
which its work keeps the issue order. DEDUCED, log entry 28. -/
structure SavedTask where
  cell : Nat
  slot : Nat
  pos : Nat
  recAddr : Word
  recId : Nat
  launch : Nat
  prio : Nat
  lock : Bool
  round : Nat
  sweep : Bool
  stage : Nat
  ended : List Kind
  lastFault : Option LastFault
  pins : Tab (BitVec 512)
  /-- of each strand's slate entries and held pushes, in their saved order: issue number, and the side of the order of R44 -/
  rows : Tab (List (Nat × Bool)) := []
  /-- held pushes for which its strand blocks have no room -/
  more : List Push := []
  /-- the commands of its replay entries, in their saved order, with the descriptors of their operands -/
  ops : List (LensOp × List (BitVec 512)) := []
  /-- the replay entries beyond the 64 for which its block has room, each as the block would hold it -/
  excess : List (BitVec 512) := []
  /-- the numbers of its copy commands -/
  copies : List Nat := []
  /-- clk for which the divider and the float divide unit of each strand are still taken after the restart (R93, R224) -/
  units : Tab (Nat × Nat) := []
deriving DecidableEq, Repr

/-- The states of a context number (R291). -/
inductive CtxSt where
  | absent | live | dying
deriving DecidableEq, Repr

/-- One context (R291 to R294, R343), from its descriptor, with the state it holds. -/
structure Ctx where
  st : CtxSt := .absent
  asid : Nat := 0
  prio : Nat := 0
  ptroot : Nat := 0
  vsrec : Nat := 0
  fqbase : Word := 0
  fqhead : BitVec 32 := 0
  fqtail : BitVec 32 := 0
  /-- records numbered so far (SEQ of R226) -/
  fseq : Nat := 0
  prebnd : Word := 200000
  rdcsz : Nat := 0
  qbind : Nat := 0
  /-- HSEQ of the DESTROY that began its end (R378) -/
  destroyed : Word := 0
  hcond : Nat := 0
  lcond : Nat := 0
  gmask : Nat := 0
  self : Nat := 0
  prism : Bool := false
  groupId : Nat := 0
  shbase : Word := 0
  shlen : Nat := 0
  mctab : Nat := 0
  latectl : Word := 0
  latecnt : BitVec 32 := 0
  lhkey : Word := 0
  stealSeed : BitVec 32 := 0
  steal : Tab (BitVec 32) := []
  rdcgen : Tab (BitVec 32) := []
  barriers : Tab Barrier := []
  launches : BitVec 32 := 0
  /-- collectives accepted so far: a ticket is the low 32 bits of the count before its own (R210) -/
  tickets : Nat := 0
  colls : List Coll := []
  /-- the SRC and the DST, each an address and a length, of collectives whose COLLW has not returned, by ticket (R366) -/
  unsettled : List (Nat × (Word × Nat) × (Word × Nat)) := []
  statuses : List (Nat × Nat) := []
  vers : List VerRec := []
  /-- fault records raised and not yet written (R226, R227) -/
  held : List FaultRec := []
  /-- the last write of a fault record failed (R227) -/
  blocked : Bool := false
  /-- a Prism member until it leaves (R357) -/
  prismLive : Bool := false
  /-- saved tasks not yet restored (R283, R314) -/
  savedTasks : List SavedTask := []
deriving DecidableEq, Repr

/-- A command record of a die queue (R301), and whether a task appended it (R321). -/
structure DieCmd where
  raw : BitVec 512
  task : Bool
deriving DecidableEq, Repr

/-- One die command queue (R300): counts of records taken and appended, the records, whether the head has started. -/
structure DieQ where
  head : BitVec 32 := 0
  tail : BitVec 32 := 0
  recs : List DieCmd := []
  started : Bool := false
  /-- save area bytes used so far, tasks and cells written, for a PREEMPT at the head (R306, R308) -/
  len : Nat := 0x1000
  toffs : List Nat := []
  coffs : List Nat := []
  /-- cells whose tasks a PREEMPT at the head has not finished saving, or a RESTORE restores (R295, R307) -/
  cells : List Nat := []
  /-- tasks that a RESTORE at the head has put back: cell and slot (R312) -/
  back : List (Nat × Nat) := []
  /-- launch of a RUN at the head -/
  run : Option Nat := none
  /-- RUN commands that no longer hold the queue: launch, entry index, command (R300) -/
  running : List (Nat × Nat × DieCmd) := []
deriving DecidableEq, Repr

/-! ## Group, Prism and time -/

/-- What the package sends: over the facet fabric (R135, R246, R345, R356), on its links (R349, R392, R405), and, of Glint markers and
data frames, on the Prism (R350, R352).
DESIGN CHOICE, log entry 36. -/
inductive FacetMsg where
  | request (m : Nat) (r : PeerReq)
  | reply (m num : Nat) (r : PeerRes)
  | notice (m : Nat) (n : VerNotice)
  /-- a lost frame is asked for: of λ0 by its place, of another wavelength by its count -/
  | frameRequest (m wave n : Nat)
  /-- the answer: the frame, or that the member has it no longer or never had it -/
  | frameAnswer (m place : Nat) (f : Option Frame)
  | dataAnswer (m count : Nat) (f : Option DataFrame)
  | regenAnswer (m place : Nat)
  | groupKey (m epoch : Nat) (key : BitVec 256)
  | keyUpdate (port : Nat) (msg : KeyMsg)
  | keyExchange (port : Nat)
  /-- the collective that a COLL has begun, and one that has ended with a status other than success (R364) -/
  | collAnnounce (m ctx : Nat) (desc : BitVec 512)
  | collStatus (m : Nat) (desc : BitVec 512) (status : Nat)
  | cutMarker (link seq : Nat)
  /-- a replica as it stands after a place, with the live members and those that have joined -/
  | replicaCopy (m : Nat) (bytes : Memory) (place live joined : Nat)
  | marker (wave : Nat) (mk : Marker)
  | dataFrame (f : DataFrame)
deriving DecidableEq, Repr

/-- A recovery of a lost λ0 frame that is under way (R356): its place; 0 once its sender has been asked, 1 once the lowest live member has
been, which itself asks every member, 2 once VOID has been sent; the Reticle time of its start; the members that lack the frame. -/
structure Recov where
  place : Nat
  stage : Nat := 0
  since : Word := 0
  lacks : Nat := 0
deriving DecidableEq, Repr

/-- The Prism member (R350 to R358): replica, order, send queue and recovery state. DESIGN CHOICE, log entry 1. -/
structure Prism where
  replica : Memory := []
  /-- highest PLACE applied: the next to apply is one above it -/
  applied : Nat := 0
  /-- highest PLACE seen on λ0 -/
  seen : Nat := 0
  epoch : Nat := 0
  /-- live members, which form the rotations (R352) -/
  live : Nat := 0
  /-- members whose context has joined and not left (R351) -/
  joined : Nat := 0
  self : Nat := 0
  /-- send queue of λ0: access number (0 for a control frame) and frame (R354) -/
  sendq : List (Nat × Frame) := []
  /-- own frames transmitted and not yet applied: place and access number -/
  air : List (Nat × Nat) := []
  held : List Frame := []
  sentLog : List Frame := []
  appliedLog : List Frame := []
  /-- recoveries outstanding -/
  recov : List Recov := []
  /-- wavelength whose Glint is being regenerated, answers so far: member and place -/
  regen : Option (Nat × List (Nat × Nat)) := none
  /-- Reticle time of that REGEN -/
  regenAt : Word := 0
  /-- another member's REGEN, until the first marker of its epoch: wavelength and Reticle time -/
  regenSeen : Option (Nat × Word) := none
  /-- Reticle time of the latest marker of each wavelength (R358) -/
  marker : Tab Word := []
  /-- epochs of λ1 to λ7 (R352, R358) -/
  epochs : Tab Nat := []
  /-- holder of each wavelength's Glint -/
  glint : Tab Nat := []
  copying : Bool := false
  keyEpoch : Nat := 0
  key : BitVec 256 := 0
  /-- the group key before it, and its epoch, for frames of the old epoch (R406) -/
  prevEpoch : Nat := 0
  prevKey : BitVec 256 := 0
  /-- frames of each wavelength in its present epoch (R406) -/
  counts : Tab Nat := []
  /-- the members of the formed group, none before a formation (R342), and their measured legs (R352) -/
  members : Nat := 0
  legs : Tab Nat := []
  /-- the package has left the group and applies no places (R357) -/
  left : Bool := false
  /-- λ1 to λ7: data frames that await the wavelength's Glint, and the last 4,096 that were sent, latest first (R350, R358) -/
  dataq : Tab (List DataFrame) := []
  dataLog : Tab (List DataFrame) := []
deriving DecidableEq, Repr

/-- Reticle time and its discipline (R5, R359 to R362). DESIGN CHOICE, log entry 1. -/
structure Time where
  rt : Word := 0
  /-- remainder of a tick in parts of 27,000,000: one clk at 2.25 GHz is 48/27 tick (R4) -/
  frac : Nat := 0
  /-- steered rate in ppm, at most 50 either way (R360) -/
  rate : Int := 0
  skews : Tab Int := []
  holdover : Bool := false
  /-- consecutive exchanges whose estimates differ by more than 12 ticks -/
  bad : Nat := 0
  /-- consecutive exchanges that meet the exit condition of HOLDOVER -/
  good : Nat := 0
  lastExchange : Word := 0
  /-- Reticle time of the latest exchange, 250,000 ticks before the next (R361) -/
  lastRun : Word := 0
  /-- members known to be in holdover (R361) -/
  away : Nat := 0
  /-- offset from the reference by its latest marker (R361) -/
  glint : Int := 0
  /-- Reticle time at which a Mirror reconfiguration stopped the exchange timer (R362) -/
  pausedAt : Option Word := none
deriving DecidableEq, Repr

/-- A die link or facet port as its ends see it (R339, R341, R388). -/
inductive LinkSt where
  | up | down | dead
deriving DecidableEq, Repr

/-- The key banks of one direction of a facet port (R348). DESIGN CHOICE, log entry 1. -/
structure Banks where
  key0 : LinkKey := ⟨0, 0⟩
  key1 : LinkKey := ⟨0, 0⟩
  /-- flits carried under each key since it was loaded -/
  cnt0 : Nat := 0
  cnt1 : Nat := 0
  /-- the bank in use -/
  kg : Nat := 0
  /-- the idle bank has been loaded with the next key -/
  ready : Bool := false
deriving DecidableEq, Repr

/-- One facet port (R341, R348, R349, R405). DESIGN CHOICE, log entry 1. -/
structure Port where
  st : LinkSt := .up
  tx : Banks := {}
  rx : Banks := {}
  /-- the message of a key update that has been sent last and is not yet answered: the idle bank takes over with the acknowledgement of
  VerifyNewKey (R349) -/
  updating : Option KeyMsg := none
  /-- KEY_UPDATEs of the session, and the Reticle time of its start (R405) -/
  updates : Nat := 0
  since : Word := 0
  /-- sequence number in the sender's cut marker, and whether that marker has arrived (R392) -/
  seq : Nat := 0
  cut : Bool := false
  /-- sequence numbers of the next flit to be sent and of the next to be accepted (R341) -/
  txSeq : Nat := 0
  rxSeq : Nat := 0
  /-- retries of the flit that the link layer is sending, and of the one that it is to accept (R341) -/
  retries : Nat := 0
  rxRetries : Nat := 0
  /-- the flit that is being sent, until the far end has accepted it -/
  flit : Option Flit := none
deriving DecidableEq, Repr

/-- The virtual channels of a die link (R337). -/
inductive Vc where
  | request | response | lens | detour
deriving DecidableEq, Repr

/-- A packet between two ends of the die fabric, dies 0 to 7 and the hub 8 (R337 to R340): the traffic it belongs to, the access or
operation it carries, where it stands, the links it has still to travel in order, and the virtual channel it travels in. -/
structure Packet where
  carries : Nat
  src : Nat
  dst : Nat
  vc : Vc
  place : Nat
  route : List Nat
  /-- it has been returned to its sender and sent again, on a detour route -/
  detour : Bool := false
  /-- the link whose far-end buffer holds it: none while it stands at its sender -/
  via : Option Nat := none
deriving DecidableEq, Repr

/-- The copy of a sector in a cell's L1 (R252), as the L1 and the home's directory have it. -/
inductive Moesi where
  | m | o | e | s
deriving DecidableEq, Repr

/-- A sector that an L1 holds: cell, 64-byte sector, state (R252). -/
structure L1Copy where
  cell : Nat
  pa : Nat
  st : Moesi
deriving DecidableEq, Repr

/-- One die link (R337, R339). -/
structure DieLink where
  st : LinkSt := .up
  /-- retries of the flit that each of its two directions is sending: from its first end, from its second (R339) -/
  retries : Tab Nat := []
  /-- flit times for which each virtual channel of each direction has waited: 4 * direction + channel (R337) -/
  waited : Tab Nat := []
  /-- flits that each of its two directions has carried, the sequence number of the next (R339, R392) -/
  sent : Tab Nat := []
  /-- link sequence number in the cut marker, and whether the markers of the link have passed (R392) -/
  seq : Nat := 0
  cut : Bool := false
deriving DecidableEq, Repr

/-! ## Host and service state -/

/-- An event of a source, with its place in the source's own count (R378, R379). -/
structure Event where
  sseq : Nat
  kind : Nat
  time : Word
  hseq : Word
  d0 : Word
  d1 : Word
  d2 : Word
  d3 : Word
deriving DecidableEq, Repr

/-- An event source: the SSEQ of its next event and the events that wait for room (R379). -/
structure EvSource where
  next : Nat := 0
  held : List Event := []
deriving DecidableEq, Repr

/-- An event record of the ring (R378): DSEQ, source and event. -/
structure EvRec where
  dseq : Word
  src : Nat
  ev : Event
deriving DecidableEq, Repr

/-- The host interface registers and rings (R372 to R379). DEDUCED, log entry 42. -/
structure HostIf where
  feata : Tab Word := []
  go : Bool := false
  ready : Bool := false
  refused : Bool := false
  cmdbase : Word := 0
  cmdsize : Word := 64
  cmdtail : Word := 0
  cmdhead : Word := 0
  evbase : Word := 0
  evsize : Word := 64
  evtail : Word := 0
  evhead : Word := 0
  hseqlast : Word := 0
  dseqlast : Word := 0
  nextdist : Word := 0x010010008#64
  winbase : Word := 0
  /-- host memory, in which the command ring and the event ring lie (R373) -/
  hmem : Memory := []
  sources : Tab EvSource := []
  /-- data returned by the latest host read -/
  readData : Word := 0
  /-- the Reticle time of the PREPARE of a MIRPREP whose drain has not ended (R347) -/
  mirDrain : Option Word := none
deriving DecidableEq, Repr

/-- Suspend and resume (R391 to R395). -/
inductive SuspPhase where
  | none
  /-- running, with a suspend due at T -/
  | armed (t : Word)
  | frozen
  /-- in retention, powered down -/
  | retained
  /-- restored, awaiting T′ once it is set, and perhaps with a further suspend due at T (R395) -/
  | restored (t again : Option Word)
deriving DecidableEq, Repr

/-- The states of a flash bank (R399). -/
structure Flash where
  /-- physical image as loaded: the bytes of header, payload and signature -/
  image : Memory := []
  present : Bool := false
deriving DecidableEq, Repr

/-- The states of a memory-encryption key slot (R402). -/
structure KeySlot where
  ctx : Option Nat := none
  dataKey : BitVec 256 := 0
  tweakKey : BitVec 256 := 0
deriving DecidableEq, Repr

/-- How far an SPDM exchange has come on a channel (R401): in a secured session, whether the requester has authenticated itself with a
certificate that chains to the owner root (R403). PRESUMED, log entry 67. -/
inductive SpdmSt where
  | start | versioned | capable | negotiated | exchanged
  | secured (authentic : Bool)
deriving DecidableEq, Repr

/-- Root of trust, firmware, key slots and sessions (R396 to R406). DESIGN CHOICE, log entry 1. -/
structure Sec where
  clkey : BitVec 256 := 0
  uds : BitVec 256 := 0
  /-- digest of the owner root, which measurement 3 reports (R401, R403) -/
  ownerRoot : BitVec 256 := 0
  svn : Nat := 0
  banks : Tab Flash := []
  active : Nat := 0
  pending : Option Nat := none
  payloadDigest : BitVec 256 := 0
  slots : Tab KeySlot := []
  suspendKey : BitVec 256 := 0
  /-- the key under which the suspend area was last written (R404) -/
  area : Option (BitVec 256) := none
  /-- the public key that the ROM derived for the booted image in the manner of DICE, and the certificate chain in flash (R400) -/
  diceKey : BitVec 256 := 0
  chain : BitVec 256 := 0
  /-- SPDM sessions by channel (R401, R403, R405) -/
  spdm : Tab SpdmSt := []
  /-- SPDM answers given, latest first (R401) -/
  answers : List (Nat × BitVec 256) := []
deriving DecidableEq, Repr

/-- Error counters, fences and repair (R382 to R388). -/
structure Err where
  ce : Tab Nat := []
  ue : Tab Nat := []
  fencedCells : Nat := 0
  fencedDies : Nat := 0
  /-- 32-byte HBM4 words that cannot be corrected, by address -/
  badHbm : List Nat := []
  /-- 64-byte sectors lost in an L1 or L2, by address (R385) -/
  lost : List Nat := []
  /-- register-space words that cannot be corrected: cell and 8-byte word -/
  badRegs : List (Nat × Nat) := []
  /-- Lens entries with bad granules: cell and entry -/
  badLens : List (Nat × Nat) := []
  failedState : Bool := false
  /-- conductor memory words that cannot be corrected: conductor and offset (R383) -/
  badCond : List (Nat × Nat) := []
  /-- rows that await repair, each by the physical address that put it there (R388) -/
  repairRows : List Nat := []
  /-- corrected errors of HBM4 rows: row and Reticle time (R388) -/
  rowCe : List (Nat × Word) := []
deriving DecidableEq, Repr

/-- Throttle state (R389, R390). -/
structure Thr where
  step : Nat := 0
  therm : Bool := false
  pwr : Bool := false
  tj : Nat := 0
  /-- Reticle time of the latest step change -/
  changed : Option Word := none
  /-- Reticle time at which a condition of a down-step, or a temperature above the limit of an up-step, was last seen (R390) -/
  hot : Option Word := none
deriving DecidableEq, Repr

/-- The header of the instruction that issues (the model's own): who, where, wait, signal and guard fields, the word
and its literal, its length in words and its number. -/
structure Cur where
  agent : Agent := .cond 0
  pc : Word := 0
  hdr : Hdr := ⟨0, 0, 0⟩
  word : Word := 0
  lit : Word := 0
  len : Nat := 1
  seq : Nat := 0
  /-- the word and literal after it, for REP (R107) -/
  next : Word := 0
  nextLit : Word := 0
  /-- the instruction has issued: it neither waits nor faulted -/
  done : Bool := false
deriving DecidableEq, Repr

/-- A SYSW that takes effect at the end of its issue clk (R212). -/
structure SysWrite where
  agent : Agent
  reg : Nat
  val : Word
deriving DecidableEq, Repr

/-- Storage that an error strikes (R383), as an input. DEDUCED, log entry 31. -/
inductive Upset where
  | hbm (pa : Nat)
  /-- in an L1 or an L2; `ninth`: the sector's slice holds 8 lost sectors already (R385) -/
  | dirtySector (pa : Nat) (inL1 ninth : Bool)
  /-- a copy that is refetched: counter pair of its source, its structure code, and its address, link or cell -/
  | cleanCopy (source code at' : Nat)
  /-- an error of a port or of the Prism that is contained there: counter pair, and its address or link (R386) -/
  | port (source at' : Nat)
  | rdc (die pa : Nat)
  | lens (cell eid : Nat)
  | reg (cell off : Nat)
  | strandState (cell slot : Nat)
  | condMem (n off : Nat)
  | replica
deriving DecidableEq, Repr

/-- What happens next (the model's own): an agent attempts to issue; a step of an engine, the hub, the host or the group
takes place; a clk of the cell clock passes; a cached translation is replaced; storage is struck by an error.
DESIGN CHOICE, log entry 2. -/
inductive Move where
  | issue (a : Agent)
  | event (i : Instr)
  | clk
  /-- the last part of a clk, after its writes have landed -/
  | tick
  | evict (cell index : Nat)
  /-- the same of a walker set's cache, or of the launch translation cache for a set above 8 -/
  | evictWalk (set index : Nat)
  /-- a page register gives up the translation of an entry with CH, so that the next access chooses afresh (R320) -/
  | evictPage (cell slot reg : Nat)
  /-- bytes that arrive one by one, of a result of the asynchronous class or of an engine's data (R43, R173, R250): operation, lane, bytes -/
  | land (id lane mask : Nat)
  /-- bytes `mask` of a granule of an entry that is being spilled, and of the result of a collective, are written before the rest (R250) -/
  | spillPart (cell eid granule mask : Nat)
  | collPart (ctx ticket : Nat) (peers : List CollPeer) (mask : Nat)
  /-- a packet is sent between two ends of the die fabric (R338): operation, sender, destination, channel -/
  | send (id src dst : Nat) (vc : Vc)
  /-- a die link carries a packet of a channel on from one of its ends, or retries its flit (R337, R339) -/
  | flit (link src : Nat) (vc : Vc)
  | flitLost (link src : Nat)
  /-- the link layer of a facet port sends a flit with what it carries, which the far end accepts or not (R341); a flit arrives (R348) -/
  | facetFlit (port payload : Nat) (ok : Bool)
  | facetFlitIn (port : Nat) (f : Flit)
  /-- an L1 gives up its copy of a sector (R252) -/
  | dropL1 (cell pa : Nat)
  /-- the host reads a register of BAR0 (R11, R372) -/
  | bar0Read (off size : Nat)
  /-- the next word of an agent has not been fetched for so many clk (R46) -/
  | stall (a : Agent) (n : Nat)
  | upset (u : Upset)
deriving DecidableEq, Repr

/-- The package. DESIGN CHOICE, log entry 1. -/
structure State where
  powered : Bool := true
  /-- the order in which agents and engines move, and the inputs that arrive (the model's own) -/
  agenda : List Move := []
  /-- clk count of the cell clock (R4) -/
  clk : Nat := 0
  /-- number of the next instruction, operation or access (the model's own) -/
  seq : Nat := 1
  /-- counter that a free value is applied to (the model's own) -/
  free : Nat := 0
  /-- the writes of this clk are landing: nothing more issues in it (the model's own) -/
  landing : Bool := false
  cur : Cur := {}
  sysws : List SysWrite := []
  cells : Tab Cell := []
  conds : Tab Cond := []
  mem : Memory := []
  /-- key slot under which each 64-byte sector was last written, where it is not 0 (R329) -/
  keyTag : Tab Nat := []
  /-- stores made to memory, newest first, for instruction fetch (R75): storing cell + 1 or 0, word address, earlier value -/
  oldWords : List (Nat × Nat × Word) := []
  accs : List Acc := []
  held : List Held := []
  /-- late time-tagged stores reported to the issuer (R133) -/
  late : List LateStore := []
  reports : List Report := []
  walks : List WalkReq := []
  refusals : List WalkRefusal := []
  /-- walker caches (R322): by walker set, dies 0 to 7 and the hub 8, the address and value of non-leaf entries, latest first -/
  wcache : Tab (List (Nat × Nat)) := []
  /-- launch translation cache of the hub (R298), latest first -/
  lcache : List Trans := []
  rdc : List RdcSector := []
  shoots : List Shoot := []
  recs : List Rec := []
  chains : List Chain := []
  dieqs : Tab DieQ := []
  ctxs : Tab Ctx := []
  outbox : List FacetMsg := []
  /-- what the package keeps for later: replies made after the freeze, until T′ (R392, R394), and version notices held by a Mirror
  PREPARE (R347) -/
  replyq : List FacetMsg := []
  /-- a Mirror PREPARE holds the package (R347) -/
  mirHold : Bool := false
  mircfg : BitVec 32 := 0
  /-- members that the Mirror configuration connects -/
  connected : Nat := 0
  prism : Prism := {}
  time : Time := {}
  links : Tab DieLink := []
  ports : Tab Port := []
  /-- packets between dies that have not arrived, in the order in which they were sent (R337, R338) -/
  packets : List Packet := []
  /-- entries of the channel directories, least recently served first (R245) -/
  dirs : List DirEnt := []
  /-- fills being served from memory (R242) -/
  fillReads : List FillRead := []
  /-- sectors held in L1s (R252) -/
  l1 : List L1Copy := []
  host : HostIf := {}
  susp : SuspPhase := .none
  err : Err := {}
  thr : Thr := {}
  sec : Sec := {}
deriving DecidableEq, Repr

/-- The machine right after cold reset (R11, R381): no context, no task, every byte zero, every register at its reset value; bring-up has
not come to READY, which POWER_GOOD brings it to. Values the spec does not give are those of notes/assumptions.
DESIGN CHOICE, log entry 1. DESIGN CHOICE, log entry 7. -/
def State.reset : State := {}

end Sys2Proof.Machine
end

