-- ==== Sys2Proof/Machine/Ops.lean ====
section
/-! DEFINITION. The named operations that every meaning is built from: places in the state, memory under key slots, host
events, taking a fault and returning from one, killing a task, and the issue of an instruction with its pops,
reservations, pushes and advance of the PC. -/

namespace Sys2Proof.Machine

open Sys2Proof

/-! ## Places in the state -/

/-- Cell `c`. -/
def State.cell (s : State) (c : Nat) : Cell := Tab.get {} c s.cells
def State.setCell (s : State) (c : Nat) (x : Cell) : State := { s with cells := Tab.set c x s.cells }
def State.updCell (s : State) (c : Nat) (f : Cell → Cell) : State := s.setCell c (f (s.cell c))
/-- Slot `k` of a cell. -/
def Cell.slot (x : Cell) (k : Nat) : Slot := Tab.get {} k x.slots
def Cell.setSlot (x : Cell) (k : Nat) (y : Slot) : Cell := { x with slots := Tab.set k y x.slots }
def State.slot (s : State) (c k : Nat) : Slot := (s.cell c).slot k
def State.updSlot (s : State) (c k : Nat) (f : Slot → Slot) : State :=
  s.updCell c fun x => x.setSlot k (f (x.slot k))
/-- A strand of a slot. -/
def Slot.strand (x : Slot) : Kind → Strand
  | .S => x.s | .A => x.a | .X => x.x | .W => x.w | .C => x.s
def Slot.setStrand (x : Slot) (k : Kind) (y : Strand) : Slot :=
  match k with
  | .S => { x with s := y } | .A => { x with a := y } | .X => { x with x := y } | .W => { x with w := y }
  | .C => x
def State.strand (s : State) (c k : Nat) (x : Kind) : Strand := (s.slot c k).strand x
def State.updStrand (s : State) (c k : Nat) (x : Kind) (f : Strand → Strand) : State :=
  s.updSlot c k fun y => y.setStrand x (f (y.strand x))
/-- Conductor `n`. -/
def State.condOf (s : State) (n : Nat) : Cond := Tab.get {} n s.conds
def State.updCond (s : State) (n : Nat) (f : Cond → Cond) : State :=
  { s with conds := Tab.set n (f (s.condOf n)) s.conds }
/-- Context `n`. -/
def State.ctxOf (s : State) (n : Nat) : Ctx := Tab.get {} n s.ctxs
def State.updCtx (s : State) (n : Nat) (f : Ctx → Ctx) : State :=
  { s with ctxs := Tab.set n (f (s.ctxOf n)) s.ctxs }
/-- Die command queue `q` of die `d` (R300). -/
def State.dieq (s : State) (d q : Nat) : DieQ := Tab.get {} (8 * d + q) s.dieqs
def State.updDieq (s : State) (d q : Nat) (f : DieQ → DieQ) : State :=
  { s with dieqs := Tab.set (8 * d + q) (f (s.dieq d q)) s.dieqs }
/-- Replace the first element that satisfies `p`. -/
def updFirst {α : Type} (p : α → Bool) (f : α → α) : List α → List α
  | [] => []
  | a :: t => if p a then f a :: t else a :: updFirst p f t

/-- The strand kind of an agent. -/
def agentKind : Agent → Kind
  | .strand _ _ k => k
  | .cond _ => .C
/-- The context an agent acts in (R212, R296). -/
def State.ctxNum (s : State) : Agent → Nat
  | .strand c k _ => (s.slot c k).ctx
  | .cond n => bits (s.condOf n).ctxid.toNat 21 16
/-- The matrix die of an agent; a conductor belongs to none (R249). -/
def agentDie : Agent → Option Nat
  | .strand c _ _ => some (c / 16)
  | .cond _ => none
/-- Reticle time (R5). -/
def State.rt (s : State) : Word := s.time.rt
/-- How far die `d`'s Reticle counter stands from the hub's: at most 2 ticks (R129, R359). -/
def State.skewOf (s : State) (d : Nat) : Int := max (-2) (min 2 (Tab.get 0 d s.time.skews))
/-- The reading of die `d`'s Reticle counter, and of the counter that an agent reads (R214, R359). -/
def State.dieRt (s : State) (d : Nat) : Word := BitVec.ofNat 64 ((s.time.rt.toNat : Int) + s.skewOf d).toNat
def State.rtOf (s : State) (a : Agent) : Word :=
  match agentDie a with
  | some d => s.dieRt d
  | none => s.rt
/-- The four strand kinds in their order (R17). -/
def kinds4 : List Kind := [.S, .A, .X, .W]
/-- Place of a strand kind in the order S, A, X, W. -/
def kindNo : Kind → Nat
  | .S => 0 | .A => 1 | .X => 2 | .W => 3 | .C => 4
/-- `other(x, j)` of R51 for j = 0, 1, 2. -/
def others (x : Kind) : List Kind := kinds4.filter (fun y => y != x)

/-! ## Memory under key slots (R8, R316, R328, R329) -/

/-- The key slot under which the sector of `pa` was last written. -/
def State.tagOf (s : State) (pa : Nat) : Nat := Tab.get 0 (pa / 64) s.keyTag
/-- The byte at `pa` as it reads under key slot `key`. DESIGN CHOICE, log entry 4. -/
def State.byteAt (s : State) (pa key : Nat) : Nat :=
  if s.tagOf pa = key then (Memory.read pa s.mem).toNat
  else Config.cross (s.tagOf pa) key (pa / 64) (Memory.readN s.mem (pa / 64 * 64) 64) / 256 ^ (pa % 64) % 256
/-- `n` bytes from `pa`, little-endian, under key slot `key`. -/
def State.memRead (s : State) (pa : Nat) : Nat → Nat → Nat
  | 0, _ => 0
  | n + 1, key => s.byteAt pa key + 256 * s.memRead (pa + 1) n key
/-- `n` bytes from `pa` as a list, under key slot `key`. -/
def State.memBytes (s : State) (pa n key : Nat) : List Byte :=
  (List.range n).map fun i => BitVec.ofNat 8 (s.byteAt (pa + i) key)
/-- Bring a sector under key slot `key` before a part of it is written (R329). DESIGN CHOICE, log entry 4. -/
def State.reachSector (s : State) (pa key : Nat) : State :=
  if s.tagOf pa = key then s
  else
    let b := pa / 64 * 64
    let v := Config.cross (s.tagOf pa) key (pa / 64) (Memory.readN s.mem b 64)
    { s with
      mem := Memory.writeN s.mem b 64 v
      keyTag := if key = 0 then Tab.del (pa / 64) s.keyTag else Tab.set (pa / 64) key s.keyTag }
/-- Write one byte under a key slot. -/
def State.putByte (s : State) (pa key : Nat) (v : Byte) : State :=
  let s := s.reachSector pa key
  { s with mem := Memory.write pa v s.mem }
/-- Write the bytes of a list. -/
def State.putBytes (s : State) (pa key : Nat) : List Byte → State
  | [] => s
  | b :: t => (s.putByte pa key b).putBytes (pa + 1) key t
/-- Note the earlier values of the words of [pa, pa + n) for instruction fetch (R75). -/
def State.noteOld (s : State) (who pa n key : Nat) : State :=
  { s with oldWords :=
      ((List.range ((pa + n + 7) / 8 - pa / 8)).map fun i =>
        (who, (pa / 8 + i) * 8, BitVec.ofNat 64 (s.memRead ((pa / 8 + i) * 8) 8 key))).reverse ++ s.oldWords }
/-- Of several notes of one word the earliest alone, newest first. -/
def firstNotes : List (Nat × Nat × Word) → List (Nat × Nat × Word)
  | [] => []
  | n :: t => let t' := firstNotes t; if t'.any (fun m => m.2.1 == n.2.1) then t' else n :: t'

/-- The writes made since `n` notes stood are one store: of each of its words the value before the whole store is what a fetch may still
find (R75). DESIGN CHOICE, log entry 58. -/
def State.oneStore (n : Nat) (s : State) : State :=
  let k := s.oldWords.length - n
  { s with oldWords := firstNotes (s.oldWords.take k) ++ s.oldWords.drop k }

/-- A write that covers a whole 32-byte word or 64-byte sector ends its error (R383, R385). -/
def State.heal (s : State) (pa n : Nat) : State :=
  { s with err := { s.err with
      badHbm := s.err.badHbm.filter fun w => !(pa ≤ w && w + 32 ≤ pa + n)
      lost := s.err.lost.filter fun w => !(pa ≤ w && w + 64 ≤ pa + n) } }
/-- Two byte ranges overlap. -/
def overlap (a n b m : Nat) : Bool := decide (0 < n) && decide (0 < m) && decide (a < b + m) && decide (b < a + n)
/-- Recall every copy of the sectors of [pa, pa + n) from the L1s (R128, R131, R252). -/
def State.recallL1 (s : State) (pa n : Nat) : State := { s with l1 := s.l1.filter fun q => !overlap q.pa 64 pa n }
/-- Write bytes to memory at `pa` under a key slot, for an agent on cell `who - 1` (0 for none); the copies of other L1s are recalled. -/
def State.memWriteL (s : State) (who pa key : Nat) (l : List Byte) : State :=
  (((s.noteOld who pa l.length key).putBytes pa key l).heal pa l.length).recallL1 pa l.length
/-- Write the low `n` bytes of `v`, little-endian. -/
def State.memWrite (s : State) (who pa n v key : Nat) : State := s.memWriteL who pa key (leBytes n v)
/-- A cell of the home die reads a sector through its L1 (R252): an owner forwards the data and keeps them in O, a sole reader has E. -/
def State.readL1 (s : State) (cell pa : Nat) : State :=
  let p := pa / 64 * 64
  if s.l1.any fun q => q.cell == cell && q.pa == p then s
  else
    let st : Moesi := if s.l1.any fun q => q.pa == p then .s else .e
    { s with l1 := ⟨cell, p, st⟩ :: s.l1.map fun q =>
        if q.pa == p then { q with st := match q.st with | .m => .o | .e => .s | t => t } else q }
/-- A cell of the home die owns a sector that its store has merged into (R252, R253): an upgrade of a copy in S, or of one that another
writer took meanwhile, is granted as the store performs, with the sector's current data. -/
def State.ownL1 (s : State) (cell pa : Nat) : State :=
  { s with l1 := ⟨cell, pa / 64 * 64, .m⟩ :: s.l1.filter fun q => q.pa != pa / 64 * 64 }

/-- The structure code of R383 for data that cannot be corrected in [pa, pa + n), if any. -/
def State.badAt (s : State) (pa n : Nat) : Option Nat :=
  if s.err.lost.any (fun w => overlap pa n w 64) then some 0x02
  else if s.err.badHbm.any (fun w => overlap pa n w 32) then some 0x01
  else if bit s.err.fencedDies (pa / 2 ^ 36) then some 0x0E
  else none

/-- The same for [pa, pa + n) as a part of a write: of the words and sectors that the write, by `whole`, does not cover whole
(R384, R385). -/
def State.badIn (s : State) (whole : Nat → Nat → Bool) (pa n : Nat) : Option Nat :=
  if s.err.lost.any (fun w => overlap pa n w 64 && !whole w 64) then some 0x02
  else if s.err.badHbm.any (fun w => overlap pa n w 32 && !whole w 32) then some 0x01
  else if bit s.err.fencedDies (pa / 2 ^ 36) then some 0x0E
  else none

/-- The same for a write of [pa, pa + n): only a word or sector that it does not cover whole (R384, R385). -/
def State.badPart (s : State) (pa n : Nat) : Option Nat := s.badIn (fun w m => decide (pa ≤ w) && decide (w + m ≤ pa + n)) pa n

/-- The cause word of data that cannot be corrected (R384, R407). -/
def badWord (code : Nat) : Word := BitVec.ofNat 64 (2 ^ 63 + code)

/-! ## Events to the host (R378, R379) -/

/-- An event of source `src`: numbered, and held for the ring; while the ring is full a source holds 256. -/
def hostEvent (src kind : Nat) (hseq d0 d1 d2 d3 : Word) (s : State) : State :=
  let e := Tab.get {} src s.host.sources
  let full := s.host.evtail - s.host.evhead == s.host.evsize
  let ev : Event := ⟨e.next, kind, s.rt, hseq, d0, d1, d2, d3⟩
  let held := if full && decide (256 ≤ e.held.length) then e.held else e.held ++ [ev]
  { s with host := { s.host with sources := Tab.set src { next := (e.next + 1) % 2 ^ 32, held := held } s.host.sources } }

/-- A record of fields, each so many bytes wide, from offset 0 on, as a little-endian number. -/
def layout : List (Nat × Nat) → Nat
  | [] => 0
  | (n, v) :: t => v % 256 ^ n + 256 ^ n * layout t

/-- All ones. -/
def allOnes : Word := BitVec.ofNat 64 (2 ^ 64 - 1)

/-- An ERROR event (R387): class, structure code, D1, affected context, counter value. -/
def errorEvent (src cls code : Nat) (d1 d2 d3 : Word) (s : State) : State :=
  hostEvent src 0x20 0 (BitVec.ofNat 64 (cls + 256 * code)) d1 d2 d3 s

/-- The counter pair of an event source (R378, R386). -/
def counterOf (src : Nat) : Nat :=
  if src = 0 then 0
  else if 0x10 ≤ src ∧ src < 0x18 then src - 0x0F
  else if 0x20 ≤ src ∧ src < 0x32 then src - 0x17
  else if src = 0x40 then 27 else 28

/-- The event source of a counter pair (R378, R386). -/
def sourceOf (i : Nat) : Nat := if i = 0 then 0 else if i ≤ 8 then 0x0F + i else if i ≤ 26 then 0x17 + i else if i = 27 then 0x40 else 0x41

/-- An ERROR event with which no count goes: D3 is the UECNT of its source as it stands. DEDUCED, log entry 31. -/
def errorNoted (src cls code : Nat) (d1 d2 : Word) (s : State) : State :=
  errorEvent src cls code d1 d2 (BitVec.ofNat 64 (min (2 ^ 64 - 1) (Tab.get 0 (counterOf src) s.err.ue))) s

/-- The saturating count of R386. -/
def satInc (n : Nat) : Nat := if n + 1 < 2 ^ 64 then n + 1 else 2 ^ 64 - 1

/-- Count a corrected error of counter pair `i` and report it at a multiple of 1,024 (R386, R387). DEDUCED, log entry 31. -/
def countCorrected (i src code : Nat) (d1 : Word) (s : State) : State :=
  let n := satInc (Tab.get 0 i s.err.ce)
  let s := { s with err := { s.err with ce := Tab.set i n s.err.ce } }
  if n % 1024 = 0 then errorEvent src 0 code d1 allOnes (BitVec.ofNat 64 n) s else s

/-- Count an uncorrectable error of counter pair `i` and report it (R386, R387). DEDUCED, log entry 31. -/
def countUncorrected (i src cls code : Nat) (d1 d2 : Word) (s : State) : State :=
  let n := satInc (Tab.get 0 i s.err.ue)
  let s := { s with err := { s.err with ue := Tab.set i n s.err.ue } }
  errorEvent src cls code d1 d2 (BitVec.ofNat 64 n) s

/-! ## Fault codes (R228) -/

def fIllegal : Nat := 0x01
def fAlign : Nat := 0x02
def fFetch : Nat := 0x03
def fNonCanonical : Nat := 0x04
def fNotPresent : Nat := 0x05
def fProtection : Nat := 0x06
def fMisaligned : Nat := 0x07
def fUncorrectable : Nat := 0x08
def fLead : Nat := 0x09
def fTimeIntegrity : Nat := 0x0A
def fMissedDeadline : Nat := 0x0B
def fPeerRange : Nat := 0x0C
def fPeerRemote : Nat := 0x0D
def fMulticastPartial : Nat := 0x0E
def fPrismExit : Nat := 0x0F
def fCopyEngine : Nat := 0x10
def fTileDescriptor : Nat := 0x11
def fTileRange : Nat := 0x12
def fTileState : Nat := 0x13
def fTileEngine : Nat := 0x14
def fPinExhaustion : Nat := 0x15
def fLaunchRefused : Nat := 0x16
def fTrap : Nat := 0x17
def fBreakpoint : Nat := 0x18
def fLockstepFreeze : Nat := 0x19
def fView : Nat := 0x1A

/-! ## Taking a fault (R217, R220, R226) -/

/-- What a fault reports: KIND, CODE, SUB, the PCs, ADDR, AUX and AUX2 of R226. -/
structure FaultInfo where
  kind : Nat
  code : Nat
  sub : Nat := 0
  fpc : Word
  rpc : Word
  addr : Word := 0
  aux : Word := 0
  aux2 : Word := 0
  /-- ERET may only kill (R383, code 0x09) -/
  killOnly : Bool := false
  /-- length of the faulting instruction in words -/
  len : Nat := 1
deriving DecidableEq, Repr

/-- Append a fault record to those the hub holds for the context: SEQ counts from 1 (R226). -/
def holdRecord (ctx : Nat) (cell slot : Nat) (k : Kind) (lock : Bool) (f : FaultInfo) (s : State) : State :=
  s.updCtx ctx fun x =>
    { x with
      fseq := x.fseq + 1
      held := x.held ++ [{ seq := x.fseq + 1, code := f.code, sub := f.sub, kind := f.kind, cell := cell, slot := slot
                           strand := kindNo k, lock := lock, ctx := ctx, asid := x.asid, time := s.rt, fpc := f.fpc
                           rpc := f.rpc, addr := f.addr, aux := f.aux, aux2 := f.aux2 }] }

/-- The slot is freezing or frozen for a failure of its own state, after which ERET may only kill (R383). -/
def Slot.onlyKill (x : Slot) : Bool :=
  (x.freezing == some .fault || x.freezeNext == some .fault || x.frozenBy == some .fault)
    && (match x.lastFault with | some f => f.killOnly | none => false)

/-- Mark a slot to freeze at the end of this clk for a fault; a slot that is frozen already holds the fault (R220, R306). A later fault
does not lift the limit of R383. -/
def Slot.freezeForFault (x : Slot) (last : LastFault) : Slot :=
  let last := { last with killOnly := last.killOnly || x.onlyKill }
  match x.st with
  | .frozen => { x with frozenBy := some .fault, lastFault := some last }
  | .free => x
  | _ => { x with freezing := some .fault, lastFault := some last }

/-- The other members of a slot's lockstep round: cell and slot (R287). -/
def lockMembers (s : State) (c k : Nat) : List (Nat × Nat) :=
  let me := s.slot c k
  if me.lock then
    s.cells.flatMap fun (c', x) =>
      (x.slots.filter fun (k', y) =>
        y.lock && y.recId == me.recId && y.round == me.round && y.st != .free && !(c' == c && k' == k)).map fun (k', _) => (c', k')
  else []

/-- The fault of a task's strand: its record, and the freeze of its task and of every other member of its lockstep
round, each with a LOCKSTEP_FREEZE record that names the cell (R220). Of such a record R220 gives the code and AUX alone: its KIND is 2, its
strand S, and both PCs are that strand's. DESIGN CHOICE, log entry 64. -/
def taskFault (c k : Nat) (x : Kind) (f : FaultInfo) (s : State) : State :=
  let sl := s.slot c k
  let last : LastFault := ⟨f.kind == 0, x, f.code, (s.ctxOf sl.ctx).fseq + 1, f.killOnly, f.fpc, f.len⟩
  let s1 := holdRecord sl.ctx c k x sl.lock f s
  let s2 := s1.updSlot c k fun y =>
    let y := y.freezeForFault last
    y.setStrand x { y.strand x with stopped := true }
  (lockMembers s c k).foldl (fun t (c', k') =>
    let y := t.slot c' k'
    if y.freezing.isSome || y.st == .frozen then t
    else
      let g : FaultInfo := { kind := 2, code := fLockstepFreeze, fpc := y.s.pc, rpc := y.s.pc, aux := BitVec.ofNat 64 c }
      let last : LastFault := ⟨false, .S, fLockstepFreeze, (t.ctxOf y.ctx).fseq + 1, false, y.s.pc, 1⟩
      (holdRecord y.ctx c' k' .S true g t).updSlot c' k' fun z => z.freezeForFault last) s2

/-- The fault of a conductor halts it and raises COND_HALT; its copy commands are abandoned (R217). -/
def condFault (n : Nat) (f : FaultInfo) (s : State) : State :=
  let s := s.updCond n fun c => { c with st := .halted, block := none, copyq := [] }
  hostEvent (0x50 + n) 0x10 0 (BitVec.ofNat 64 f.code) f.aux f.fpc f.addr s

/-- Take a fault at an agent: the one operation by which every exception is taken (R217, R220). -/
def takeFault (a : Agent) (f : FaultInfo) (s : State) : State :=
  match a with
  | .strand c k x => taskFault c k x f s
  | .cond n => condFault n f s

/-- The instruction that the cell has taken in this clk for its strand kind is the current one (R47). -/
def takePlace (s : State) : State :=
  match s.cur.agent with
  | .strand c k x => s.updCell c fun cl => { cl with issued := (x, k) :: cl.issued }
  | .cond _ => s

/-- `raise` of R51: the issuing instruction takes a precise fault and has no effect but to have been the one taken for its kind in the
clk (R47); it has popped and reserved nothing (R28). The resume PC is the faulting PC. -/
def raise (code sub : Nat) (addr aux aux2 : Word) (s : State) : State :=
  takeFault s.cur.agent
    { kind := 0, code := code, sub := sub, fpc := s.cur.pc, rpc := s.cur.pc, addr := addr, aux := aux, aux2 := aux2
      len := s.cur.len } (takePlace s)

/-- An illegal-instruction trap with a sub-code of R83. -/
def illegal (sub : Nat) (s : State) : State := raise fIllegal sub 0 0 0 s

/-- The PC of an agent. -/
def State.pcOf (s : State) : Agent → Word
  | .strand c k x => (s.strand c k x).pc
  | .cond n => (s.condOf n).pc

/-- Set the PC of an agent. -/
def State.setPc (s : State) (a : Agent) (v : Word) : State :=
  match a with
  | .strand c k x => s.updStrand c k x fun y => { y with pc := v }
  | .cond n => s.updCond n fun y => { y with pc := v }

/-- A fault reported after issue or asynchronously, noted for the agent (R117, R220). -/
def report (r : Report) (s : State) : State := { s with reports := s.reports ++ [r] }

/-! ## Resuming, killing (R221, R224, R225) -/

/-- The operation of an instruction was refused after its issue and does not perform: the instruction keeps its reservation and
makes no push that waits for the operation (R28, R384). -/
def losePush (a : Agent) (seq : Nat) (s : State) : State :=
  match a with
  | .strand c k _ => s.updSlot c k fun y =>
      { y with pushes := y.pushes.map fun p => if p.seq = seq && p.due == .perform seq then { p with due := .lost } else p }
  | .cond _ => s

/-- Whether all four strands have executed END. -/
def Slot.allEnded (x : Slot) : Bool := x.s.ended && x.a.ended && x.x.ended && x.w.ended

/-- The slate entries of a strand as writes that land r clk after the restart at clk `g` (R224). -/
def slateWrites (slot g : Nat) (k : Kind) (y : Strand) : List RegWrite :=
  y.slate.map fun e =>
    { seq := e.seq, slot := slot, k := k, engine := e.engine, interlock := e.len == 8, slate := true, due := g + e.r
      off := e.off, len := e.len, mask := e.mask, val := e.val, resumed := true }

/-- A strand as it restarts at clk `g`: its slate is in flight, its ready age 0; its dividers are taken for as long as they still were at
the freeze (R93), and a delay of a wrong prediction has to pass (R104). -/
def Strand.restart (y : Strand) (g : Nat) : Strand :=
  { y with slate := [], gate := max g y.gate, age := 0, stopped := false, divFree := g + y.divFree, fdivFree := g + y.fdivFree }

/-- Return a frozen task to RUN, or to ENDING when all four strands had ended, or, where `park`, to PARKED while a reply is outstanding,
which only T′ of a suspend does (R16); its strands may issue from clk g, its slates land at g + r and its held pushes fall due
likewise (R221, R224). What walks had refused before is forgotten, so that an access walks afresh (R331). -/
def resumeSlot (park : Bool) (g c k : Nat) (s : State) : State :=
  let mine (a : Agent) : Bool := match a with | .strand c' k' _ => c' == c && k' == k | _ => false
  let s1 : State := { s with refusals := s.refusals.filter fun w => !mine w.agent }
  s1.updCell c fun x =>
    let y := x.slot k
    let wr := kinds4.flatMap fun q => slateWrites k g q (y.strand q)
    let y' := { y with
      st := if y.allEnded then .ending else if park && y.parkSeq.isSome then .parked else .run
      freezing := none, frozenBy := none, live := none
      s := y.s.restart g, a := y.a.restart g, x := y.x.restart g, w := y.w.restart g
      pushes := y.pushes.map fun p => match p.due with | .rel r => { p with due := .clk (g + r) } | _ => p }
    { x.setSlot k y' with
      wr := x.wr ++ wr
      ops := x.ops.map fun o => if o.slot == k then { o with reported := false } else o
      copyq := x.copyq.map fun q => match q.agent with
        | .strand c' k' _ => if c' == c && k' == k then { q with stopped := false } else q
        | _ => q }

/-- Whether a Lens entry is an unpublished entry that the task of slot `k` produced. -/
def Entry.ownedBy (e : Entry) (k : Nat) (y : Slot) : Bool :=
  e.slot == k && e.pos == y.pos && e.launch == y.launch && e.ctx == y.ctx && (e.st == .producing || e.st == .spilled)

/-- Entries that a command binds (R232). -/
def LensCmd.binds : LensCmd → List Nat
  | .alloc e _ _ _ _ _ _ => [e]
  | .fill e => [e]
  | .drain e _ => [e]
  | .tpost _ _ _ => []
  | .tqrel _ _ _ => []
  | .tgth e _ => [e]
  | .tsct e _ => [e]
  | .tinv _ => []
  | .tld e _ _ _ => [e]
  | .tst e _ _ => [e]
  | .adrn e _ _ _ _ _ _ => [e]
  | .mma m => [m.eidA, m.eidB]

/-- What becomes of a command of a task that is removed (R222, R225): one that its engine performs goes on with no task, and so does
an allocation whose entry another task has bound; any other leaves. A command with no task stands under slot 8. -/
def LensOp.survives (x : Cell) (k : Nat) (o : LensOp) : Bool :=
  match o.cmd with
  | .alloc e _ _ _ _ _ _ => x.ops.any fun p => p.slot != k && p.cmd.binds.contains e
  | .drain _ _ => o.st != .parked
  | .tpost _ _ _ => true
  | .tqrel _ _ _ => true
  | .tgth _ _ => o.st != .parked
  | .tsct _ _ => o.st != .parked
  | _ => false

/-- An entry that a removed allocation leaves without one. -/
def Cell.unmade (x : Cell) (k : Nat) (e : Entry) : Bool :=
  e.st == .waiting && x.ops.any fun o => o.slot == k && !o.survives x k && (match o.cmd with | .alloc i _ _ _ _ _ _ => i == e.id | _ => false)

/-- The engine has begun a copy command: a piece of it has moved or is moving, or its result is due (R222). -/
def CopyCmd.begun (q : CopyCmd) : Bool := q.off != 0 || q.buf.isSome || q.out.isSome

/-- Remove a task and everything it holds, making its slot FREE (R225); its accesses in flight still perform, and the copy command
that the engine is performing goes on (R222). The frames it frees start the scan again (R236).
DEDUCED, log entry 14. -/
def clearTask (c k : Nat) (s : State) : State :=
  let y := s.slot c k
  let mine (a : Agent) : Bool := match a with | .strand c' k' _ => c' == c && k' == k | _ => false
  let s := s.updCell c fun x =>
    { x.setSlot k {} with
      wr := x.wr.filter fun w => !(w.slot == k && w.slate)
      ops := x.ops.filterMap fun o => if o.slot != k then some o else if o.survives x k then some { o with slot := 8 } else none
      copyq := x.copyq.filterMap fun q =>
        if !mine q.agent || q.orphan then some q else if q.begun then some { q with orphan := true, dst := .none, stopped := false } else none
      lens := x.lens.filter fun e => !e.ownedBy k y && !x.unmade k e
      scanLeft := 4096 }
  { s with
    accs := s.accs.map fun a => if mine a.agent then { a with orphan := true } else a
    late := s.late.map fun q => if mine q.agent then { q with orphan := true } else q
    reports := s.reports.filter fun r => !mine r.agent
    walks := s.walks.filter fun w => !mine w.agent
    refusals := s.refusals.filter fun w => !mine w.agent }

/-- Count a task of a record that no longer lives: failed with a code, or ended (R282). -/
def countEnded (rid : Nat) (failed : Option Nat) (s : State) : State :=
  { s with recs := updFirst (fun r => r.id == rid) (fun r =>
      { r with
        live := r.live - 1
        failed := if failed.isSome then r.failed + 1 else r.failed
        first := match failed with | some f => if r.first = 0 then f else r.first | none => r.first }) s.recs }

/-- Kill a task (R225): its position counts as failed, with the code of the fault that froze it (R282). DEDUCED, log entry 14. -/
def killTask (c k : Nat) (s : State) : State :=
  let y := s.slot c k
  let code := match y.lastFault with | some f => f.code | none => 0
  countEnded y.recId (some code) (clearTask c k s)

/-! ## Issue: pops, reservations, pushes, PC (R27 to R30) -/

/-- Key of the queue from strand `y` to strand `x`. -/
def qKey (y x : Kind) : Nat := 4 * kindNo y + kindNo x

/-- A queue of a slot. -/
def Slot.queue (sl : Slot) (y x : Kind) : TokQ := Tab.get {} (qKey y x) sl.q
def Slot.updQueue (sl : Slot) (y x : Kind) (f : TokQ → TokQ) : Slot :=
  { sl with q := Tab.set (qKey y x) (f (sl.queue y x)) sl.q }

/-- The strands that the mask of a wait or signal byte names, in order (R23, R24). -/
def named (b : Nat) (x : Kind) : List Kind :=
  ((others x).zip [7, 6, 5]).filterMap fun (y, j) => if bit b j then some y else none

/-- Tokens per queue of a wait or signal byte (R23, R24). -/
def tokens (b : Nat) : Nat := 2 ^ bits b 4 3

/-- `pops_ok` of R51. -/
def popsOk (sl : Slot) (wb : Nat) (x : Kind) : Bool :=
  (named wb x).all fun y => tokens wb ≤ (sl.queue y x).cnt - (sl.queue y x).pop

/-- `room_ok` of R51: count + RES + m ≤ 63, the pushes of this clk counted. -/
def roomOk (sl : Slot) (sb : Nat) (x : Kind) : Bool :=
  (named sb x).all fun y => (sl.queue x y).cnt + (sl.queue x y).push + (sl.queue x y).res + tokens sb ≤ 63

/-- Pop the queues that a wait byte names. -/
def popAll (wb : Nat) (x : Kind) (sl : Slot) : Slot :=
  (named wb x).foldl (fun t y => t.updQueue y x fun q => { q with pop := q.pop + tokens wb }) sl

/-- Reserve the push room that a signal byte names and note the pushes with the clk or event they are due at (R21, R25). -/
def reserve (sb : Nat) (x : Kind) (seq : Nat) (due : PushAt) (sl : Slot) : Slot :=
  (named sb x).foldl (fun t y =>
    let t := t.updQueue x y fun q => { q with res := q.res + tokens sb }
    { t with pushes := t.pushes ++ [{ seq := seq, src := x, dst := y, m := tokens sb, due := due }] }) sl

/-- The signal point of a signal byte, from the instruction's perform and operands-consumed points (R25). -/
def signalAt (sb : Nat) (pf cs : PushAt) : PushAt :=
  match bits sb 2 1 with
  | 1 => pf
  | 2 => cs
  | _ => .now

/-- REPST of an agent (R91). -/
def State.repst (s : State) : Agent → Word
  | .strand c k x => (s.strand c k x).repst
  | .cond n => (s.condOf n).repst

/-- Whether a REP repeats the word at the agent's PC (R108). -/
def State.repeating (s : State) (a : Agent) : Bool := bit (s.repst a).toNat 63

/-- The issuing slot after an issue of `i` by strand `x`: popped, reserved, its strand at `pc` unless a REP keeps it (R27, R108). -/
def issueSlot (i : Cur) (x : Kind) (stays : Bool) (pc : Word) (pf cs : PushAt) (sl : Slot) : Slot :=
  let sl1 := reserve i.hdr.sb x i.seq (signalAt i.hdr.sb pf cs) (popAll i.hdr.wb x sl)
  sl1.setStrand x { sl1.strand x with pc := if stays then (sl1.strand x).pc else pc, age := 0 }

/-- Issue the current instruction: pop, reserve, note its pushes, take its strand's place in the clk, and set the PC,
which an active REP leaves at the repeated word (R27, R108). -/
def issueTo (pc : Word) (pf cs : PushAt) (s : State) : State :=
  let s1 : State := { s with cur := { s.cur with done := true } }
  match s.cur.agent with
  | .strand c k x =>
    s1.updCell c fun cl =>
      { cl.setSlot k (issueSlot s.cur x (s.repeating s.cur.agent) pc pf cs (cl.slot k)) with issued := (x, k) :: cl.issued }
  | .cond n =>
    s1.updCond n fun y => { y with pc := if s.repeating s.cur.agent then y.pc else pc, issuedClk := some s.clk }

/-- The address of the next instruction. -/
def State.nextPc (s : State) : Word := s.cur.pc + BitVec.ofNat 64 (8 * s.cur.len)

/-- Issue the current instruction and go on to the next (R27). -/
def retire (pf cs : PushAt) (s : State) : State := issueTo s.nextPc pf cs s

/-- Issue an instruction that writes no result and whose effect is complete at issue, or an access with nothing to do: every signal
point is the clk of issue (R25). DEDUCED, log entry 16. -/
def retireNow (s : State) : State := retire .now .now s

/-- Issue a fixed-latency instruction that writes its last result in clk t + L − 1 (R93, R151). -/
def retireIn (l : Nat) (s : State) : State := retire (.clk (s.clk + l - 1)) (.clk (s.clk + 1)) s

/-- Issue an address-based or engine instruction: it performs when its access or operation has (R25). -/
def retireAccess (s : State) : State := retire (.perform s.cur.seq) (.clk (s.clk + 1)) s

end Sys2Proof.Machine
end

