-- ==== Sys2Proof/Machine/Operands.lean ====
section
/-! DEFINITION. Registers as operands: the views and rotating regions of R33 to R39, reads with the classes of R43, the
writes that land at their clk, and the source registers of every instruction, for the interlock of R46. -/

namespace Sys2Proof.Machine

open Sys2Proof

/-! ## Views (R33 to R38) -/

/-- The fields of ROTV (R38). -/
def rotKind (r : Word) : Nat := bits r.toNat 31 30
def rotFirst (r : Word) : Nat := bits r.toNat 29 24
def rotSize (r : Word) : Nat := bits r.toNat 37 32
def rotRb (r : Word) : Nat := bits r.toNat 45 40
def rotBase (r : Word) : Nat := bits r.toNat 21 3 * 8

/-- Whether a ROTV keeps the limits of R38 and its region lies in the register space (R37). -/
def rotvOk (r : Word) : Bool :=
  match rotKind r with
  | 0 => true
  | 1 => 1 ≤ rotSize r && rotSize r ≤ 56 && 8 ≤ rotFirst r && rotFirst r + rotSize r ≤ 64
      && rotBase r + 8 * rotSize r ≤ 0x400000
  | 2 => 1 ≤ rotSize r && rotSize r ≤ 32 && rotFirst r + rotSize r ≤ 32 && rotBase r % 256 == 0
      && rotBase r + 256 * rotSize r ≤ 0x400000
  | _ => false

/-- The value a write of ROTV stores: reserved bits zero, RB taken modulo SIZE (R38). With SIZE 0, which names no region, R38 gives no
remainder: the six bits of RB are stored as written. DESIGN CHOICE, log entry 45. -/
def rotvStored (r : Word) : Word :=
  let n := r.toNat
  let sz := rotSize r
  let rb := if sz = 0 then rotRb r else rotRb r % sz
  BitVec.ofNat 64 (rb * 2 ^ 40 + sz * 2 ^ 32 + rotKind r * 2 ^ 30 + rotFirst r * 2 ^ 24 + bits n 21 3 * 8)

/-- Place of name `n` of a rotating kind, if it rotates (R38). -/
def rotOff (r : Word) (kind n width : Nat) : Option Nat :=
  if rotKind r = kind ∧ rotFirst r ≤ n ∧ n < rotFirst r + rotSize r then
    some (rotBase r + (n - rotFirst r + rotRb r) % rotSize r * width)
  else none

/-- Register-space offset of s register `n` for a strand of a slot (R33, R38). -/
def sOff (sl : Slot) (x : Kind) (n : Nat) : Nat :=
  match rotOff (sl.strand x).rotv 1 n 8 with
  | some o => o
  | none => bits sl.sview.toNat 21 9 * 512 + 8 * n

/-- Register-space offset of v register `n` (R35, R38). -/
def vOff (sl : Slot) (x : Kind) (n : Nat) : Nat :=
  match rotOff (sl.strand x).rotv 2 n 256 with
  | some o => o
  | none => bits sl.vview.toNat 21 8 * 256 + 256 * n

/-- AMAP field `n` of a slot's a view (R36). -/
def amap (sl : Slot) (n : Nat) : Nat := bits sl.aview.toNat (3 * n + 42) (3 * n + 40)
/-- ACNT of a slot's a view (R36). -/
def acnt (sl : Slot) : Nat := bits sl.aview.toNat 27 24
/-- Register-space offset of the physical accumulator that name `n` names; `none` where AMAP field n ≥ ACNT (R36, R37). -/
def accOff (sl : Slot) (n : Nat) : Option Nat :=
  if amap sl n < acnt sl then some (bits sl.aview.toNat 21 16 * 65536 + 65536 * amap sl n) else none

/-! ## Reads (R34, R43, R44) -/

/-- An asynchronous-class write that lands at the end of this clk (R43): neither interlocked nor of fixed latency. -/
def RegWrite.async (w : RegWrite) : Bool := !w.interlock && !w.slate && decide (w.len ≤ 256)

/-- `n` bytes of a cell's register space, little-endian, as they stood at the end of the clk before (R44). A result of the
asynchronous class whose instruction has not performed may have reached some of its bytes: each is old or new (R43). -/
def regRead (s : State) (c off n : Nat) : Nat := Memory.readN (s.cell c).regs off n

/-- The value of s register `n` of an agent; s0 reads 0 (R34). -/
def readS (s : State) (a : Agent) (n : Nat) : Word :=
  if n = 0 then 0
  else
    match a with
    | .strand c k x => BitVec.ofNat 64 (regRead s c (sOff (s.slot c k) x n) 8)
    | .cond m => Tab.get 0 n (s.condOf m).regs

/-- The value of s register `n` of the issuing agent. -/
def State.rs (s : State) (n : Nat) : Word := readS s s.cur.agent n

/-- The 256 bytes of v register `n` of a strand, as a number. -/
def readV (s : State) (a : Agent) (n : Nat) : Nat :=
  match a with
  | .strand c k x => regRead s c (vOff (s.slot c k) x n) 256
  | .cond _ => 0

/-- The value of v register `n` of the issuing strand. -/
def State.rv (s : State) (n : Nat) : Nat := readV s s.cur.agent n

/-- Lane `i` of a vector value (R35). -/
def laneOf (v i : Nat) : Nat := v / 2 ^ (32 * i) % 2 ^ 32

/-- A vector value from its lanes. -/
def ofLanes (l : List Nat) : Nat := l.foldr (fun x v => x % 2 ^ 32 + 2 ^ 32 * v) 0

/-- The lane mask that a field names: s0 selects all 64 lanes (R149). -/
def State.laneMask (s : State) (n : Nat) : Nat := if n = 0 then 2 ^ 64 - 1 else (s.rs n).toNat

/-- The value of s register `n` of the issuing strand as a signed integer (R92). -/
def sgn (x : Word) : Int := x.toInt

/-! ## Writes -/

/-- Where a result in s register `n` of an agent goes; a write to s0 is discarded (R34). -/
def dstS (s : State) (a : Agent) (n : Nat) : Dst :=
  if n = 0 then .none
  else
    match a with
    | .strand c k x => .s c k x (sOff (s.slot c k) x n)
    | .cond m => .cond m n

/-- Put a fixed-latency interlocked result in flight, to land in clk `due` (R43, R93). -/
def putS (engine : Bool) (d : Dst) (v : Word) (due seq : Nat) (s : State) : State :=
  match d with
  | .s c k x off => s.updCell c fun cl =>
      { cl with wr := cl.wr ++ [{ seq := seq, slot := k, k := x, engine := engine, interlock := true, slate := true
                                  due := due, off := off, len := 8, mask := 1, val := v.toNat }] }
  | .cond n r => s.updCond n fun y => { y with wr := y.wr ++ [(seq, r, v, due)] }
  | _ => s

/-- Write s register `n` of the issuing agent with latency `l` (R93). -/
def writeS (n : Nat) (v : Word) (l : Nat) (s : State) : State :=
  putS false (dstS s s.cur.agent n) v (s.clk + l - 1) s.cur.seq s

/-- Write s register `n` of the X strand from the vector unit with latency `l` (R150): an engine's result in the order of R44.
DEDUCED, log entry 46. -/
def writeVS (n : Nat) (v : Word) (l : Nat) (s : State) : State :=
  putS true (dstS s s.cur.agent n) v (s.clk + l - 1) s.cur.seq s

/-- Put a vector result in flight: the lanes of `mask` of the 256 bytes at `off` land in clk `due` (R149, R151); an engine's
result in the order of R44. DEDUCED, log entry 46. -/
def putV (c k : Nat) (x : Kind) (off mask val due seq : Nat) (slate : Bool) (s : State) : State :=
  s.updCell c fun cl =>
    { cl with wr := cl.wr ++ [{ seq := seq, slot := k, k := x, engine := true, interlock := false, slate := slate
                                due := due, off := off, len := 256, mask := mask, val := val }] }

/-- Write the lanes of `mask` of v register `n` of the issuing strand with latency `l`. -/
def writeV (n mask val l : Nat) (s : State) : State :=
  match s.cur.agent with
  | .strand c k x => putV c k x (vOff (s.slot c k) x n) mask val (s.clk + l - 1) s.cur.seq true s
  | .cond _ => s

/-- Bytes that a landing write changes: (offset, length, value) parts. -/
def RegWrite.parts (w : RegWrite) : List (Nat × Nat × Nat) :=
  if 256 ≤ w.len then (setBits (w.len / 4) w.mask).map fun i => (w.off + 4 * i, 4, laneOf w.val i)
  else [(w.off, w.len, w.val)]

/-- Land one write in a cell's register space; a word written whole is no longer in error. -/
def landWrite (c : Nat) (w : RegWrite) (s : State) : State :=
  let s := s.updCell c fun x =>
    { x with regs := w.parts.foldl (fun m (o, n, v) => Memory.writeN m o n v) x.regs }
  { s with err := { s.err with badRegs := s.err.badRegs.filter fun (c', o) =>
      !(c' == c && w.parts.any fun (p, n, _) => p ≤ 8 * o && 8 * o + 8 ≤ p + n) } }

/-- A result that an access or engine delivers in this clk, to land at its end (R44, R116). -/
def deliver (d : Dst) (v : Word) (seq : Nat) (s : State) : State :=
  match d with
  | .s c k x off => s.updCell c fun cl =>
      { cl with wr := cl.wr ++ [{ seq := seq, slot := k, k := x, engine := true, interlock := true, slate := false
                                  due := s.clk, off := off, len := 8, mask := 1, val := v.toNat }] }
  | .cond n r => s.updCond n fun y => { y with wr := y.wr ++ [(seq, r, v, s.clk)] }
  | _ => s

/-! ## Task registers (R40 to R42) -/

/-- The task id that PRELOAD writes into s7: the position, and all ones for a sweep task (R34, R165, R279, R284). -/
def Slot.taskId (y : Slot) : Nat := if y.sweep then 2 ^ 64 - 1 else y.pos

/-- Coordinate register `n` of a slot (R40). -/
def Slot.creg (sl : Slot) (n : Nat) : Word := Tab.get 0 n sl.c
/-- Field `i` of a word of four 16-bit fields (R40, R42). -/
def fld (w : Word) (i : Nat) : Nat := w.toNat / 2 ^ (16 * i) % 2 ^ 16
/-- A word of four 16-bit fields. -/
def ofFlds (f : Nat → Nat) : Word :=
  BitVec.ofNat 64 (f 0 % 2 ^ 16 + f 1 % 2 ^ 16 * 2 ^ 16 + f 2 % 2 ^ 16 * 2 ^ 32 + f 3 % 2 ^ 16 * 2 ^ 48)
/-- Replace field `i` of a word. -/
def setFld (w : Word) (i v : Nat) : Word := ofFlds fun j => if j = i then v else fld w j
/-- Shape register `n` of a strand. -/
def Strand.kreg (y : Strand) (n : Nat) : Word := Tab.get 0 n y.k
/-- Exchange k0-k3 with ks0-ks3 (R42). -/
def Strand.swapK (y : Strand) (clk : Nat) : Strand := { y with k := y.ks, ks := y.k, swapClk := some clk }
/-- Peer register `n` of a slot or conductor: p0 is the package itself, the others start so (R41); a conductor's stay unlisted until they are
written. -/
def preg (self : Nat) (p : Tab Nat) (n : Nat) : Nat := if n = 0 then self else Tab.get self n p
/-- The package's own member index (R342): 0 while it belongs to no formed group. -/
def State.selfIdx (s : State) : Nat := s.prism.self
/-- Peer register `n` of the issuing agent. -/
def State.peer (s : State) (n : Nat) : Nat :=
  match s.cur.agent with
  | .strand c k _ => preg s.selfIdx (s.slot c k).p n
  | .cond m => preg s.selfIdx (s.condOf m).p n

/-! ## Sources (R46) -/

/-- The s registers and v registers that an instruction reads at issue, from its opcode and operand field. -/
def srcRegs (op w : Nat) : List Nat × List Nat :=
  let a := FmtA.dec w
  let i := FmtI.dec w
  let b := FmtB.dec w
  let m := FmtM.dec w
  let p := FmtP.dec w
  let v := FmtV.dec w
  let t := FmtT.dec w
  let q := FmtQ.dec w
  if op == 0x02 || op == 0x0D || op == 0x0F || op == 0x13 || op == 0x15 || op == 0x17 || op == 0x45 || op == 0x47
      || op == 0xE4 then ([i.a], [])
  else if op == 0x24 || op == 0x25 || op == 0x42 || op == 0x43 || op == 0x46 || (0x48 ≤ op && op ≤ 0x4A) then ([], [])
  else if 0x3C ≤ op && op ≤ 0x41 then ([b.a, b.b], [])
  else if op ≤ 0x44 || op == 0x66 || op == 0x67 || op == 0xE5 || op == 0xE6 then ([a.a, a.b, a.c], [])
  else if op == 0x51 then ([m.base, m.d], [])
  else if op == 0x59 then ([m.base], [m.d])
  else if op == 0x50 || op == 0x57 || op == 0x58 || op == 0x68 then ([m.base], [])
  else if op == 0x5A then ([a.a, a.c], [a.b])
  else if op == 0x5B then ([a.a, a.c], [a.b, a.d])
  else if op == 0x53 || op == 0x55 || op == 0x5D || op == 0x5F || op == 0x60 || op == 0x62 || op == 0x63 then
    ([p.base, p.x, p.d], [])
  else if op == 0x56 then ([], [])
  else if op ≤ 0x68 then ([p.base, p.x], [])
  else if op == 0x73 || op == 0x74 || op == 0x97 || op == 0x98 || op == 0x99 then ([v.mask], [v.va, v.vb, v.vc])
  else if op == 0x81 then ([v.mask, v.vc], [v.va, v.vb])
  else if op == 0x83 then ([v.mask, v.va], [])
  else if op == 0x84 then ([v.mask, v.va, v.vb], [])
  else if op == 0x85 then ([v.vb], [v.va])
  else if op == 0x86 then ([v.va, v.vb], [])
  else if op == 0x95 then ([v.mask, v.vb, v.vc], [v.va])
  else if op == 0x88 || op == 0x96 || op == 0x9A then ([v.mask, v.vb], [v.va])
  else if op == 0x77 || op == 0x78 || op == 0x7C || op == 0x82 || op == 0x87 || op == 0x89 || op == 0x8A
      || (0x8B ≤ op && op ≤ 0x93) then ([v.mask], [v.va])
  else if op == 0x9B then ([v.mask], (List.range (v.sub % 4 + 1)).map (v.va + ·))
  else if op == 0x9C || op == 0x9D then ([], [])
  else if op ≤ 0x9D then ([v.mask], [v.va, v.vb])
  else if op == 0xB0 then (if t.sub % 4 == 3 then [] else [t.sx], [])
  else if op == 0xB4 || op == 0xB6 || op == 0xB9 || op == 0xBE then ([], [])
  else if op == 0xBB || op == 0xBC || op == 0xBD then ([t.sx], [t.vx])
  else if op ≤ 0xBF then ([t.sx], [])
  else if op ≤ 0xC6 || op == 0xC8 then ([], [])
  else if op == 0xC7 || op == 0xD0 || op == 0xD7 || op == 0xD8 then ([q.a], [])
  else if op == 0xD1 || op == 0xD2 || op == 0xD3 || op == 0xD6 then ([q.a, q.b], [])
  else if op == 0xE1 then ([w / 2 ^ 24 % 64], [])
  else ([], [])

/-- The register-space ranges of an instruction's sources for a strand. -/
def srcRanges (sl : Slot) (x : Kind) (op w : Nat) : List (Nat × Nat) :=
  ((srcRegs op w).1.filter (fun n => n != 0)).map (fun n => (sOff sl x n, 8)) ++
    (srcRegs op w).2.map fun n => (vOff sl x (n % 32), 256)

/-- Whether an access writes its destination in the interlocked class when it performs (R43). -/
def AccKind.interlocked : AccKind → Bool
  | .vload => false | .mcst _ _ => false | _ => true

/-- Whether every interlocked source has landed (R46). -/
def sourcesLanded (s : State) (a : Agent) (op w : Nat) : Bool :=
  match a with
  | .strand c k x =>
    let rs := srcRanges (s.slot c k) x op w
    (s.cell c).wr.all (fun q => !(q.interlock && q.slot == k && q.k == x && rs.any fun (o, n) => overlap o n q.off q.len))
      && s.accs.all fun q =>
        match q.dst with
        | .s c' k' x' off => !(c' == c && k' == k && x' == x && q.kind.interlocked && !q.orphan
            && rs.any fun (o, n) => overlap o n off 8)
        | _ => true
  | .cond m =>
    let rs := (srcRegs op w).1
    (s.condOf m).wr.all (fun q => !rs.contains q.2.1)
      && s.accs.all fun q => match q.dst with
        | .cond m' r => !(m' == m && q.kind.interlocked && rs.contains r)
        | _ => true

/-- The lowest register-space offset of a source word that cannot be corrected (R384). -/
def badSource (s : State) (a : Agent) (op w : Nat) : Option Nat :=
  match a with
  | .strand c k x =>
    let rs := srcRanges (s.slot c k) x op w
    let bad := s.err.badRegs.filter fun (c', o) => c' == c && rs.any fun (p, n) => overlap p n (8 * o) 8
    bad.foldl (fun m (_, o) => match m with | some j => some (min j (8 * o)) | none => some (8 * o)) none
  | .cond _ => none

/-- How many slate-eligible register writes an instruction makes (R223). -/
def slateCount (op w : Nat) : Nat :=
  if op == 0x9C then (FmtV.dec w).sub % 4 + 3
  else if op == 0xB0 then (if w % 4 = 3 then 1 else 0)
  else if op ≤ 0x3A || op == 0x43 || op == 0x44 || (0x70 ≤ op && op ≤ 0x9D && op != 0x9B) || op == 0xBA || op == 0xBE || op == 0xC8
      || op == 0xD5 || op == 0xE0 || op == 0xE5 || op == 0xE9 then 1
  else 0

/-- Slate-eligible writes in flight of a strand. -/
def slateInFlight (s : State) (c k : Nat) (x : Kind) : Nat :=
  ((s.cell c).wr.filter fun q => q.slate && q.slot == k && q.k == x).length

end Sys2Proof.Machine
end

