-- ==== Sys2Proof/Machine/Flags.lean ====
section
/-! DEFINITION. Guards, stage predicates, the conditions of the wait byte, comparisons: every one-bit computation of the
manual (R23, R29 to R31, R100, R105, R175). No other flag or condition state exists (R31). -/

namespace Sys2Proof.Machine

open Sys2Proof

/-- Stage predicates of an agent: bit k is qk (R31, R212). -/
def State.qpred (s : State) : Agent → Word
  | .strand c k x => (s.strand c k x).qpred
  | .cond n => (s.condOf n).qpred

/-- `guard_holds` of R51: 0 always, k when qk is true, 8 + k when qk is false (R29). -/
def guardHolds (q : Word) (gd : Nat) : Bool :=
  if gd % 8 = 0 then true else bit q.toNat (gd % 8) != decide (8 ≤ gd)

/-- `set_preds(i)` of R105: QPRED with qk = (k ≤ STG) and 0 ≤ i − (k − 1) < CNT. -/
def predsAt (stg cnt i : Nat) : Word :=
  BitVec.ofNat 64 (ofBits ((List.range 8).filter fun k => 1 ≤ k && k ≤ stg && k - 1 ≤ i && i - (k - 1) < cnt))

/-- Comparisons on 64-bit registers (R94, R103). -/
def ltS (a b : Word) : Bool := decide (a.toInt < b.toInt)
def ltU (a b : Word) : Bool := decide (a.toNat < b.toNat)

/-- `ver_ge(v, n)` of R175. -/
def verGe (v n : Nat) : Bool := decide ((v + 2 ^ 24 - n % 2 ^ 24) % 2 ^ 24 < 2 ^ 23)

/-- Version v is newer than n (R241). -/
def verNewer (v n : Nat) : Bool := verGe v n && v % 2 ^ 24 != n % 2 ^ 24

/-- The copy commands of an agent: a task's in its cell's queue, a conductor's in its own (R143, R145, R217). -/
def copyOf (s : State) (a : Agent) : List CopyCmd :=
  match a with
  | .strand c _ _ => (s.cell c).copyq.filter fun q => q.agent == a && !q.orphan
  | .cond n => (s.condOf n).copyq

/-- Whether every earlier instruction of the agent has performed, parked commands included (drain, R23). -/
def drained (s : State) (a : Agent) : Bool :=
  s.accs.all (fun q => q.orphan || q.agent != a) && (copyOf s a).isEmpty &&
    match a with
    | .strand c k x =>
      let cl := s.cell c
      cl.wr.all (fun q => !(q.slot == k && q.k == x)) && cl.ops.all (fun q => !(q.slot == k && q.k == x))
        && cl.rows.all (fun q => !(q.slot == k && q.k == x)) && cl.lensWr.all (fun q => !(q.slot == k && q.k == x))
    | .cond n => (s.condOf n).wr.isEmpty

/-- Barrier `n` of a context (R208). -/
def Ctx.barrier (x : Ctx) (n : Nat) : Barrier := Tab.get {} n x.barriers

/-- Whether an arrival of a task at barrier `n` has been issued and not yet recorded: ARRG[n] awaits it (R208). DEDUCED, log entry 15. -/
def baraPending (s : State) (c k n : Nat) : Bool :=
  s.accs.any fun a => !a.orphan && a.kind == .bara n && match a.agent with
    | .strand c' k' _ => c' == c && k' == k
    | .cond _ => false

/-- Whether the generation that BARW defines for barrier `n` has completed (R208): (G − ARRG[n]) mod 2^32 in 1 to 2^31, with ARRG as
the task's earlier arrivals leave it. -/
def barDone (s : State) (c k n : Nat) : Bool :=
  let sl := s.slot c k
  let d := (((s.ctxOf sl.ctx).barrier n).g - Tab.get 0 n sl.arrg).toNat
  !baraPending s c k n && decide (1 ≤ d) && decide (d ≤ 2 ^ 31)

/-- Entries of deferral path `p` of a cell that belong to context `ctx`, those appended in this clk left out (R165, R169). -/
def defCount (s : State) (c p ctx : Nat) : Nat :=
  let q := Tab.get {} p (s.cell c).defq
  if q.ctx = ctx then (q.ents.filter fun e => e.clk < s.clk).length else 0

/-- Whether RT has reached NBT (R23). -/
def timeOk (s : State) : Agent → Bool
  | .strand c k x => decide ((s.strand c k x).nbt.toNat ≤ (s.dieRt (c / 16)).toNat)
  | .cond n => decide ((s.condOf n).nbt.toNat ≤ s.rt.toNat)

/-- `cond_ok` of R51. -/
def condOk (s : State) (a : Agent) (cnd : Nat) : Bool :=
  match cnd with
  | 0 => true
  | 1 => timeOk s a
  | 2 => drained s a
  | 3 => match a with
    | .strand c k x => barDone s c k (s.strand c k x).barsel
    | .cond _ => false
  | 4 => match a with
    | .strand c k x => decide (64 ≤ defCount s c (s.strand c k x).defsel (s.slot c k).ctx)
    | .cond _ => false
  | _ => false

/-- The wait of an instruction is met and its push room is there (R27). -/
def waitMet (s : State) (a : Agent) (h : Hdr) : Bool :=
  condOk s a (bits h.wb 2 0) &&
    match a with
    | .strand c k x => popsOk (s.slot c k) h.wb x && roomOk (s.slot c k) h.sb x
    | .cond _ => true

/-- FCMP and VCMP predicates on exact values (R100): 0 eq, 1 lt, 2 le, 3 un, 4 ne. -/
def fpred (p : Nat) (nan lt eq : Bool) : Bool :=
  match p with
  | 0 => !nan && eq
  | 1 => !nan && lt
  | 2 => !nan && (lt || eq)
  | 3 => nan
  | _ => nan || !eq

/-- The size of an RDC of a context on a die, in GiB (R254, R292). -/
def rdcGiB (x : Ctx) (d : Nat) : Nat := x.rdcsz / 256 ^ d % 256

/-- Bump the RDC generation of a context on a die: no later load is served from a sector filled before (R255).
DEDUCED, log entry 37. -/
def rdcBump (ctx die : Nat) (s : State) : State :=
  let s := s.updCtx ctx fun x => { x with rdcgen := Tab.set die (Tab.get 0 die x.rdcgen + 1) x.rdcgen }
  { s with rdc := s.rdc.filter fun r => !(r.die == die && r.ctx == ctx) }

/-- Bump the RDC generations of a context on every die. -/
def rdcBumpAll (ctx : Nat) (s : State) : State := (List.range 8).foldl (fun t d => rdcBump ctx d t) s

/-- An acquire of package or group scope by an agent bumps the RDC generation of its die (R115, R255). DEDUCED, log entry 37. -/
def acquireBump (a : Agent) (ctx scope : Nat) (s : State) : State :=
  match agentDie a with
  | some d => if 2 ≤ scope then rdcBump ctx d s else s
  | none => s

end Sys2Proof.Machine
end

