-- ==== Sys2Proof/Machine/Translate.lean ====
section
/-! DEFINITION. Address translation: the walk of R321, cached translations in the TLB and the page registers (R323 to
R325), and the operation by which every access of an agent translates its addresses. -/

namespace Sys2Proof.Machine

open Sys2Proof

/-- A canonical address: bits [63:57] equal bit 56 (R113, R315). -/
def canonical (va : Word) : Bool :=
  let h := va.toNat / 2 ^ 56
  h == 0 || h == 0xFF

/-- The translation cause word (R326). -/
def causeWord (cause level kind : Nat) : Word := BitVec.ofNat 64 (cause * 2 ^ 12 + level * 2 ^ 8 + kind)

/-- Access kinds that write (R321). -/
def kindWrites (k : Nat) : Bool := k == 1 || k == 2 || k == 5 || k == 7

/-- The fault code of a refused translation for an address-based instruction (R327). -/
def causeCode (cause : Nat) : Nat :=
  if cause = 0 then fNotPresent else if cause = 6 then fNonCanonical else if cause = 8 then fUncorrectable else fProtection

/-- Bytes that the hub reserves at the top of a stack: the RDC and version store of each context (R254, R293, R316), and
the suspend area once GO is set with SUSPEND accepted (R391). DEDUCED, log entry 11. -/
def reservedTop (s : State) (d : Nat) : Nat :=
  (s.ctxs.foldl (fun n (_, x) => if x.st = .absent then n else n + rdcGiB x d * 2 ^ 30 + x.vsrec * 4096 * 32) 0)
    + (if s.host.go && bit (Tab.get 0 0 s.host.feata).toNat 3 then 2 ^ 29 else 0)

/-- Whether [pa, pa + n) lies in HBM4 that a translation may reach (R316). DEDUCED, log entry 11. -/
def hbmOk (s : State) (pa n : Nat) : Bool :=
  let d := pa / 2 ^ 36
  decide (pa + n ≤ 2 ^ 39) && !bit s.err.fencedDies d && decide (pa % 2 ^ 36 + n ≤ 2 ^ 36 - reservedTop s d)

/-- Whether a key slot is plaintext or bound to the context (R328, R402, R375). -/
def keyUsable (s : State) (ctx key : Nat) : Bool :=
  key = 0 || (s.host.go && bit (Tab.get 0 0 s.host.feata).toNat 4 && (Tab.get {} key s.sec.slots).ctx == some ctx)

/-- The result of a walk: a translation with the address and new value of a leaf to set A and D in, a refusal, or a
speculative request dropped. -/
inductive WalkRes where
  | ok (t : Trans) (upd : Option (Nat × Nat))
  | fail (cause level : Nat)
  | drop
deriving DecidableEq, Repr

/-- An entry read at its home, with key slot 0; `none` where its data cannot be corrected (R321). -/
def readEntry (s : State) (ea : Nat) : Option Nat :=
  if (s.badAt ea 8).isSome then none else some (s.memRead ea 8 0)

/-- An entry as the walkers of a set read it: levels 5 to 2 from the set's cache where it holds the entry (R322).
DESIGN CHOICE, log entry 12. -/
def readLevel (s : State) (set l ea : Nat) : Option Nat :=
  match (Tab.get [] set s.wcache).find? fun q => decide (2 ≤ l) && q.1 == ea with
  | some q => some q.2
  | none => readEntry s ea

/-- The leaf checks of R321 on entry `e` at `ea`, level `l`; `merge` says the entry stands for its 64 KiB group (R320). -/
def walkLeaf (s : State) (ctx : Nat) (asid va kind : Nat) (task spec : Bool) (ea e l : Nat) (merged : Bool) : WalkRes :=
  let sz := if merged then 16 else 12 + 9 * (l - 1)
  let frame := if merged then bits e 51 16 * 2 ^ 16 else bits e 51 12 * 2 ^ 12
  if l ≠ 1 ∧ bits e 51 12 * 2 ^ 12 % 2 ^ (12 + 9 * (l - 1)) ≠ 0 then .fail 4 l
  else if bit e 6 && task then .fail 3 l
  else if kindWrites kind && !bit e 1 then .fail 1 l
  else if kind == 3 && !bit e 2 then .fail 2 l
  else if !keyUsable s ctx (e / 2 ^ 52) then .fail 5 l
  else if !hbmOk s frame (2 ^ sz) then .fail 7 l
  else
    let need := 0x10 ||| (if kindWrites kind then 0x20 else 0)
    let t : Trans := ⟨asid, va / 2 ^ sz * 2 ^ sz, sz, frame, e ||| need, l⟩
    if e &&& need = need then .ok t none
    else if spec then .drop
    else .ok t (some (ea, e ||| need))

/-- The other entries of a page's 64 KiB group that an access may use instead of its own (R320): present, with CH set. -/
def groupOthers (s : State) (t idx : Nat) : List (Nat × Nat) :=
  (List.range 16).filterMap fun j =>
    let i := idx / 16 * 16 + j
    if i = idx then none
    else match readEntry s (t + 8 * i) with
      | some e => if bit e 0 && bit e 3 && !bit e 7 then some (t + 8 * i, e) else none
      | none => none

/-- The 64 KiB group of a page is consistent (R320): 16 present entries with CH, consecutive frames from a 64 KiB boundary, equal in their
bits [63:52] and [6:0]. -/
def groupConsistent (s : State) (t idx : Nat) : Bool :=
  match (List.range 16).mapM fun j => readEntry s (t + 8 * (idx / 16 * 16 + j)) with
  | some (e :: es) =>
    bit e 0 && bit e 3 && bits e 15 12 == 0
      && (es.zip (List.range 15)).all fun (f, j) =>
        f / 2 ^ 52 == e / 2 ^ 52 && f % 2 ^ 7 == e % 2 ^ 7 && bits f 51 12 == bits e 51 12 + j + 1 && !bit f 7
  | _ => false

/-- The levels still to walk from table `t` (R321). `merge` picks the entry of the 64 KiB group that the walk uses: another page's entry is
read as if it mapped the whole group, the page's own as its own page. In a consistent group the page's own entry is used in any case, as
one 64 KiB translation or as its own page, so that A and D are set there (R320). DESIGN CHOICE, log entry 12. -/
def walkFrom (s : State) (set ctx asid va kind : Nat) (task spec : Bool) (merge : Option Nat) : List Nat → Nat → WalkRes
  | [], _ => .fail 0 0
  | l :: ls, t =>
    let idx := va / 2 ^ (9 * l + 3) % 512
    let ea := t + 8 * idx
    match readLevel s set l ea with
    | none => .fail 8 l
    | some e =>
      let own : WalkRes :=
        if !bit e 0 then .fail 0 l
        else if 4 ≤ l && bit e 7 then .fail 4 l
        else if l == 1 && bit e 7 then .fail 4 l
        else if l != 1 && bit e 3 then .fail 4 l
        else if l == 1 || bit e 7 then walkLeaf s ctx asid va kind task spec ea e l false
        else if e / 2 ^ 52 != 0 || bit e 6 || bits e 3 1 != 0 then .fail 4 l
        else if !hbmOk s (bits e 51 12 * 2 ^ 12) 4096 then .fail 7 l
        else walkFrom s set ctx asid va kind task spec merge ls (bits e 51 12 * 2 ^ 12)
      if l != 1 then own
      else match groupOthers s t idx with
        | [] => own
        | others => match merge.bind fun j => others.find? fun q => q.1 == t + 8 * (idx / 16 * 16 + j % 16) with
          | some (ea', e') =>
            if groupConsistent s t idx then walkLeaf s ctx asid va kind task spec ea e 1 true
            else walkLeaf s ctx asid va kind task spec ea' e' 1 true
          | none => own

/-- The walk of R321 for a virtual address of a context by the walkers of a set: of die 0 to 7, or of the hub, 8.
DESIGN CHOICE, log entry 12. -/
def walk (s : State) (set ctx : Nat) (va : Word) (kind : Nat) (task spec : Bool) (merge : Option Nat) : WalkRes :=
  if !canonical va then .fail 6 0
  else
    let x := s.ctxOf ctx
    match walkFrom s set ctx x.asid va.toNat kind task spec merge [5, 4, 3, 2, 1] x.ptroot with
    | .fail c l => if spec then .drop else .fail c l
    | r => r

/-- The non-leaf entries of levels 5 to 2 that a walk goes through: address and value. DESIGN CHOICE, log entry 12. -/
def walkPath (s : State) (set va : Nat) : List Nat → Nat → List (Nat × Nat)
  | [], _ => []
  | l :: ls, t =>
    let ea := t + 8 * (va / 2 ^ (9 * l + 3) % 512)
    match readLevel s set l ea with
    | none => []
    | some e =>
      if bit e 0 && !bit e 7 && !bit e 3 && e / 2 ^ 52 == 0 && !bit e 6 && bits e 3 1 == 0 && hbmOk s (bits e 51 12 * 2 ^ 12) 4096 then
        (ea, e) :: walkPath s set va ls (bits e 51 12 * 2 ^ 12)
      else []

/-- A set's cache of 512 entries takes the non-leaf entries that a walk has read (R322). DESIGN CHOICE, log entry 12. -/
def noteWalk (set ctx : Nat) (va : Word) (s : State) : State :=
  let l := if canonical va then walkPath s set va.toNat [5, 4, 3, 2] (s.ctxOf ctx).ptroot else []
  if l.isEmpty then s
  else { s with wcache := Tab.set set ((l ++ (Tab.get [] set s.wcache).filter fun q => !l.any fun p => p.1 == q.1).take 512) s.wcache }

/-- The walker set of the hub. -/
def hubSet : Nat := 8

/-- Set A and D in a leaf by the walk's compare-and-swap, as a write at package scope (R321). -/
def setAD (upd : Option (Nat × Nat)) (s : State) : State :=
  match upd with
  | some (ea, e) => s.memWrite 0 ea 8 e 0
  | none => s

/-- Whether a translation serves a virtual address of an ASID. -/
def Trans.covers (t : Trans) (asid : Nat) (va : Word) : Bool :=
  t.asid == asid && va.toNat / 2 ^ t.sz * 2 ^ t.sz == t.va

/-- Whether a translation may serve an access of a kind without a walk: a write needs D set (R323). -/
def Trans.serves (t : Trans) (asid : Nat) (va : Word) (kind : Nat) : Bool :=
  t.covers asid va && (!kindWrites kind || bit t.pte 5)

/-- The refusal that a cached translation gives an access, if any: the permission checks of R321 on its entry. -/
def Trans.refuses (t : Trans) (kind : Nat) (task : Bool) : Option Nat :=
  if bit t.pte 6 && task then some 3
  else if kindWrites kind && !bit t.pte 1 then some 1
  else if kind == 3 && !bit t.pte 2 then some 2
  else none

/-- The physical address of a virtual address under a translation. -/
def Trans.phys (t : Trans) (va : Word) : Nat := t.pa + va.toNat % 2 ^ t.sz
/-- The key slot of a translation. -/
def Trans.key (t : Trans) : Nat := t.pte / 2 ^ 52

/-- What translating an address comes to: a translation, a wait for a walker, or a refusal. -/
inductive Tr where
  | hit (t : Trans)
  | wait
  | bad (cause level : Nat)
deriving DecidableEq, Repr

/-- Streams of a task slot (R324): IS 0, IA 1, IX 2, IW 3, DS 4, DA 5, DW 6, CS 7, CD 8. -/
def dataStream : Kind → Nat
  | .S => 4 | .A => 5 | .X => 5 | .W => 6 | .C => 4
def fetchStream : Kind → Nat := kindNo

/-- Note a stream's latest access and its current page (R324, R325). -/
def noteStream (c k stream : Nat) (va : Word) (t : Trans) (fromNext : Bool) (s : State) : State :=
  s.updSlot c k fun y =>
    { y with
      pages := Tab.set (2 * stream) t (if fromNext then Tab.del (2 * stream + 1) y.pages else y.pages)
      lastVa := Tab.set (2 * stream) va.toNat (match Tab.find (2 * stream) y.lastVa with
        | some v => Tab.set (2 * stream + 1) v y.lastVa | none => y.lastVa) }

/-- The translation held for an access of a stream, and whether it is the next page's (R324): the current page, the next page, the TLB. -/
def streamTrans (x : Cell) (y : Slot) (stream asid : Nat) (va : Word) (kind : Nat) : Option (Trans × Bool) :=
  match (Tab.find (2 * stream) y.pages).filter (fun t => t.serves asid va kind) with
  | some t => some (t, false)
  | none =>
    match (Tab.find (2 * stream + 1) y.pages).filter (fun t => t.serves asid va kind) with
    | some t => some (t, true)
    | none => (x.tlb.find? fun t => t.serves asid va kind).map fun t => (t, false)

/-- Translate an address of a task's strand through a stream (R324): the translation held for it; otherwise the refusal of a walk made for
it, or a wait for a walker. -/
def translateTask (a : Agent) (c k : Nat) (stream : Nat) (va : Word) (kind : Nat) (s : State) : Tr × State :=
  let y := s.slot c k
  let asid := (s.ctxOf y.ctx).asid
  if !canonical va then (.bad 6 0, s)
  else
    match streamTrans (s.cell c) y stream asid va kind with
    | some (t, nxt) =>
      (match t.refuses kind true with
      | some cause => (.bad cause t.level, s)
      | none => (.hit t, noteStream c k stream va t nxt s))
    | none =>
      let mine (r : WalkRefusal) : Bool :=
        r.agent == a && r.va.toNat / 4096 == va.toNat / 4096 && kindWrites r.kind == kindWrites kind
          && (r.kind == 3) == (kind == 3)
      match s.refusals.find? mine with
      | some r => (.bad r.cause r.level, { s with refusals := s.refusals.filter fun q => !mine q })
      | none =>
        let w : WalkReq := { agent := a, ctx := y.ctx, va := va, kind := kind, task := true, spec := false }
        if s.walks.contains w then (.wait, s) else (.wait, { s with walks := s.walks ++ [w] })

/-- The entry of an inconsistent 64 KiB group that an access uses which walks at once (R320). DESIGN CHOICE, log entry 12.
DESIGN CHOICE, log entry 5. -/
def groupChoice (s : State) (va : Word) : Option Nat := some (Config.groupEntry s.free (va.toNat / 65536))

/-- Translate at once, as the hub's walkers do for conductors and for hub agents (R322). DESIGN CHOICE, log entry 12. -/
def translateHub (ctx : Nat) (va : Word) (kind : Nat) (task : Bool) (s : State) : Tr × State :=
  let u := noteWalk hubSet ctx va s
  match walk s hubSet ctx va kind task false (groupChoice s va) with
  | .ok t upd => (.hit t, setAD upd u)
  | .fail c l => (.bad c l, u)
  | .drop => (.bad 0 0, u)

/-- Translate an address of a record or an entry PC through the launch translation cache of 256 entries (R298).
DESIGN CHOICE, log entry 12. -/
def translateLaunch (ctx : Nat) (va : Word) (kind : Nat) (task : Bool) (s : State) : Tr × State :=
  match s.lcache.find? fun t => t.serves (s.ctxOf ctx).asid va kind with
  | some t => match t.refuses kind task with
    | some cause => (.bad cause t.level, s)
    | none => (.hit t, s)
  | none => match translateHub ctx va kind task s with
    | (.hit t, s) => (.hit t, { s with lcache := (t :: s.lcache.filter fun q => !(q.asid == t.asid && q.va == t.va && q.sz == t.sz)).take 256 })
    | r => r

/-- Translate an address for an agent's instruction through a stream. -/
def translate (a : Agent) (stream : Nat) (va : Word) (kind : Nat) (s : State) : Tr × State :=
  match a with
  | .strand c k _ => translateTask a c k stream va kind s
  | .cond _ => translateHub (s.ctxNum a) va kind false s

/-- Translate each address of a list in order; stop at the first that waits or is refused. -/
def translateAll (a : Agent) (stream : Nat) (kind : Nat) : List Word → State → Except (Option (Nat × Nat × Word)) (List (Word × Trans)) × State
  | [], s => (.ok [], s)
  | v :: vs, s =>
    match translate a stream v kind s with
    | (.hit t, s) =>
      match translateAll a stream kind vs s with
      | (.ok l, s) => (.ok ((v, t) :: l), s)
      | e => e
    | (.wait, s) => (.error none, s)
    | (.bad c l, s) => (.error (some (c, l, v)), s)

/-- Install a translation in a cell's TLB of 2,048 entries, in place of an older one of the same page (R323).
DESIGN CHOICE, log entry 12. -/
def installTlb (c : Nat) (t : Trans) (s : State) : State :=
  s.updCell c fun x => { x with tlb := (t :: x.tlb.filter fun q => !(q.asid == t.asid && q.va == t.va && q.sz == t.sz)).take 2048 }

/-- Whom an engine of a cell acts for: the cell, the slot of the task (8 where it is gone), the context, the stream that its accesses go
through, and whether they are speculative (R321, R324). -/
structure Requester where
  cell : Nat
  slot : Nat
  ctx : Nat
  stream : Nat
  spec : Bool := false
deriving DecidableEq, Repr

/-- The task whose streams a requester uses is still there. -/
def Requester.live (r : Requester) (s : State) : Bool :=
  decide (r.slot < 8) && (s.slot r.cell r.slot).st != .free && (s.slot r.cell r.slot).ctx == r.ctx

/-- An access of an engine through the stream of its task, where that is still there (R324). -/
def Requester.note (r : Requester) (va : Word) (t : Trans) (nxt : Bool) (s : State) : State :=
  if r.live s then noteStream r.cell r.slot r.stream va t nxt s else s

/-- Translate for an engine acting for a task: through the task's stream and the TLB of the cell, or by a walk at once whose translation
the TLB takes (R321, R323, R324); a speculative request that a walk drops comes to a wait. DESIGN CHOICE, log entry 12. -/
def translateEngine (r : Requester) (va : Word) (kind : Nat) (s : State) : Tr × State :=
  let asid := (s.ctxOf r.ctx).asid
  let y : Slot := if r.live s then s.slot r.cell r.slot else {}
  match streamTrans (s.cell r.cell) y r.stream asid va kind with
  | some (t, nxt) => (match t.refuses kind true with
    | some cause => (.bad cause t.level, s)
    | none => (.hit t, r.note va t nxt s))
  | none =>
    let u := noteWalk (r.cell / 16) r.ctx va s
    match walk s (r.cell / 16) r.ctx va kind true r.spec (groupChoice s va) with
    | .ok t upd => (.hit t, r.note va t false (installTlb r.cell t (setAD upd u)))
    | .fail cause l => (.bad cause l, u)
    | .drop => (.wait, u)

/-- The runs of [va, va + n) that lie in one 4 KiB page each: (address, length), ascending. -/
def pageRuns (va : Word) (n : Nat) : List (Word × Nat) :=
  let o := va.toNat % 4096
  let pages := (o + n + 4095) / 4096
  (List.range pages).map fun i =>
    let lo := if i = 0 then 0 else i * 4096 - o
    let hi := min n ((i + 1) * 4096 - o)
    (va + BitVec.ofNat 64 lo, hi - lo)

/-- Translate the pages of [va, va + n) for an engine: physical runs (address, length, key), or the refusal and its address. -/
def engineRuns (r : Requester) (kind : Nat) : List (Word × Nat) → State → Except (Nat × Nat × Word) (List (Nat × Nat × Nat)) × State
  | [], s => (.ok [], s)
  | (v, n) :: rs, s =>
    match translateEngine r v kind s with
    | (.hit t, s) =>
      match engineRuns r kind rs s with
      | (.ok l, s) => (.ok ((t.phys v, n, t.key) :: l), s)
      | e => e
    | (.bad cause l, s) => (.error (cause, l, v), s)
    | (.wait, s) => (.error (0, 0, v), s)

/-- Bytes of physical runs. -/
def readRuns (s : State) : List (Nat × Nat × Nat) → List Byte
  | [] => []
  | (pa, n, key) :: rs => s.memBytes pa n key ++ readRuns s rs

/-- Write bytes over physical runs. -/
def writeRuns (who : Nat) : List (Nat × Nat × Nat) → List Byte → State → State
  | [], _, s => s
  | (pa, n, key) :: rs, l, s => writeRuns who rs (l.drop n) (s.memWriteL who pa key (l.take n))

/-- The structure code of bad data in physical runs, if any. -/
def badRuns (s : State) (rs : List (Nat × Nat × Nat)) : Option Nat :=
  (rs.filterMap fun (pa, n, _) => s.badAt pa n).head?

/-- The conductor memories of R296: offset into the conductor's own memories, instruction memory first. -/
def condMem (va : Word) : Option Nat :=
  let o := va.toNat - 0x00FFFF0000000000
  if 0x00FFFF0000000000 ≤ va.toNat ∧ o < 0x140000 then some o else none

/-- Bytes of a conductor's memories. -/
def condRead (s : State) (n off len : Nat) : Nat :=
  if off < 0x100000 then Memory.readN (s.condOf n).imem off len else Memory.readN (s.condOf n).dmem (off - 0x100000) len

/-- Write bytes of a conductor's memories; a word that is covered whole is good again (R383). -/
def condWrite (n off len v : Nat) (s : State) : State :=
  let s := { s with err := { s.err with badCond := s.err.badCond.filter fun w => !(w.1 == n && decide (off ≤ w.2) && decide (w.2 + 8 ≤ off + len)) } }
  if off < 0x100000 then s.updCond n fun c => { c with imem := Memory.writeN c.imem off len v }
  else s.updCond n fun c => { c with dmem := Memory.writeN c.dmem (off - 0x100000) len v }

/-! ## Instruction fetch (R75, R323, R327) -/

/-- An instruction word as the fetch of a cell may return it: the present word, or an earlier one that a store has replaced since the cell
was bound to see it; what stood before a store that the cell is bound to see is gone, whoever replaced it (R75).
DESIGN CHOICE, log entry 5. -/
def fetchStale (s : State) (c pa : Nat) (now : Word) : Word :=
  let cl := s.cell c
  let n := s.oldWords.length
  let here := (s.oldWords.zip (List.range n)).filterMap fun ((who, a, v), i) => if a == pa then some (who, n - 1 - i, v, i) else none
  let gone (pos : Nat) : Bool := here.any fun (who, q, _, _) => who == c + 1 && decide (q < cl.flushedOwn) && decide (pos ≤ q)
  let cand := here.filterMap fun (_, pos, v, i) => if decide (cl.flushedAll ≤ pos) && !gone pos then some (v, i) else none
  match cand.find? (fun (_, i) => Config.freeBit s.free i) with
  | some (v, _) => v
  | none => now

/-- What a fetch comes to. -/
inductive Fetched where
  | word (w : Word)
  | wait
  | bad (code : Nat) (cause : Word)
deriving DecidableEq, Repr

/-- Fetch the word at `va` for an agent: a conductor from its own memories, or through the context it selects (R296). A conductor holds no
prefetched words: it fetches memory as it stands, before its IFLUSH too (R75, R219). DESIGN CHOICE, log entry 58. -/
def fetchWord (a : Agent) (va : Word) (s : State) : Fetched × State :=
  let viaTables : Fetched × State :=
    match translate a (fetchStream (agentKind a)) va 3 s with
    | (.hit t, s) =>
      let pa := t.phys va
      match s.badAt pa 8 with
      | some code => (.bad fFetch (badWord code), s)
      | none =>
        let now := BitVec.ofNat 64 (s.memRead pa 8 t.key)
        match a with
        | .strand c _ _ => (.word (fetchStale s c pa now), s)
        | .cond _ => (.word now, s)
    | (.wait, s) => (.wait, s)
    | (.bad c l, s) => (.bad fFetch (causeWord c l 3), s)
  match a with
  | .cond n =>
    match condMem va with
    | some o => (.word (BitVec.ofNat 64 (condRead s n o 8)), s)
    | none => viaTables
  | .strand _ _ _ => viaTables

end Sys2Proof.Machine
end

