-- ==== Sys2Proof/Machine/Access.lean ====
section
/-! DEFINITION. Accesses: making them at issue with the checks of R408, the local order of R258, and what it is for each
to perform (R116), the remote-data cache of R254 to R257 included. -/

namespace Sys2Proof.Machine

open Sys2Proof

/-! ## Sizes (R79, R114) -/

/-- Width in bytes of a SIZE code. -/
def sizeBytes (sz : Nat) : Nat := match sz with | 0 => 1 | 1 => 2 | 2 => 4 | 3 => 8 | 4 => 1 | 5 => 2 | 6 => 4 | _ => 1

/-- `extend` of R114: the low bytes zero-extended for N codes and 64-bit, sign-extended for I codes, as `n` bits. -/
def extendTo (n sz v : Nat) : Nat :=
  let w := 8 * sizeBytes sz
  if 4 ≤ sz && sz ≤ 6 then wrap n (sext v w) else v % 2 ^ w

/-- A displacement of 12 bits, signed (R113). -/
def disp12 (d : Nat) : Word := toW (sext d 12)

/-! ## Placing an access -/

/-- Where an address of the issuing agent lies: a conductor's own memory (R296), or physical memory through a
translation. A refusal takes the fault of R327; a miss leaves the instruction waiting for a walker. -/
def place (stream kind : Nat) (ea : Word) (s : State) : Except State (Loc × State) :=
  let viaTables : Except State (Loc × State) :=
    match translate s.cur.agent stream ea kind s with
    | (.hit t, s) => .ok (.mem (t.phys ea) t.key, s)
    | (.wait, s) => .error s
    | (.bad c l, s) => .error (raise (causeCode c) 0 ea (causeWord c l kind) 0 s)
  match s.cur.agent with
  | .cond n => match condMem ea with
    | some o => .ok (.cond n o, s)
    | none => viaTables
  | .strand _ _ _ => viaTables

/-- Place several addresses, ascending, so that the lowest refused is the one named (R125, R408). -/
def placeAll (stream kind : Nat) : List Word → State → Except State (List Loc × State)
  | [], s => .ok ([], s)
  | v :: vs, s =>
    match place stream kind v s with
    | .error s => .error s
    | .ok (l, s) => match placeAll stream kind vs s with
      | .error s => .error s
      | .ok (ls, s) => .ok (l :: ls, s)

/-- The non-canonical fault (R113, R408 order 3). -/
def raiseNonCanonical (ea : Word) (kind : Nat) (s : State) : State := raise fNonCanonical 0 ea (causeWord 6 0 kind) 0 s

/-- Checks 3, 5 and 8 of R408 for one aligned element. -/
def placeScalar (stream kind width : Nat) (ea : Word) (s : State) : Except State (Loc × State) :=
  if !canonical ea then .error (raiseNonCanonical ea kind s)
  else if ea.toNat % width ≠ 0 then .error (raise fMisaligned 0 ea 0 0 s)
  else place stream kind ea s

/-- The first address in each page of a list, in list order. -/
def pageReps (l : List Word) : List Word :=
  l.foldl (fun acc v => if acc.any (fun u => u.toNat / 4096 == v.toNat / 4096) then acc else acc ++ [v]) []

/-- Place vector elements given in the order in which a refusal names them: every element canonical, then aligned, then
each page translated (R127, R408); `aux` is what a misaligned element's record holds in AUX (R226). -/
def placeElems (stream kind width : Nat) (aux : Word → Word) (eas : List Word) (s : State) : Except State (List Loc × State) :=
  match eas.find? (fun v => !canonical v) with
  | some v => .error (raiseNonCanonical v kind s)
  | none =>
    match eas.find? (fun v => v.toNat % width != 0) with
    | some v => .error (raise fMisaligned 0 v (aux v) 0 s)
    | none =>
      let reps := pageReps eas
      match placeAll stream kind reps s with
      | .error s => .error s
      | .ok (ls, s) =>
        let tab := reps.zip ls
        .ok (eas.map fun v =>
          match tab.find? (fun (u, _) => u.toNat / 4096 == v.toNat / 4096) with
          | some (u, .mem pa key) => .mem (pa + v.toNat % 4096 - u.toNat % 4096) key
          | some (u, .cond n o) => .cond n (o + v.toNat % 4096 - u.toNat % 4096)
          | some (_, l) => l
          | none => .prism 0, s)

/-- The parts of an access that its instruction gives. -/
def newAcc (s : State) (kind : AccKind) (cls scope : Nat) : Acc :=
  { id := s.cur.seq, agent := s.cur.agent, ctx := s.ctxNum s.cur.agent, kind := kind, cls := cls, scope := scope
    fpc := s.cur.pc, word := s.cur.word, repst := s.repst s.cur.agent, rt := s.rtOf s.cur.agent }

/-- Size of the page that an agent's translation of an address maps, as a power of two: of the largest that its cell holds for it, or as a
conductor's walk finds it (R335). -/
def pageSize (s : State) (a : Agent) (ctx : Nat) (va : Word) : Nat :=
  match a with
  | .strand c k _ =>
    let asid := (s.ctxOf ctx).asid
    ((s.cell c).tlb ++ (s.slot c k).pages.map (·.2)).foldl (fun n t => if t.covers asid va then max n t.sz else n) 12
  | .cond _ => match walk s hubSet ctx va 0 false false (groupChoice s va) with
    | .ok t _ => t.sz
    | _ => 12

/-- An element with the size of the page that translated it. -/
def Elem.sized (s : State) (a : Agent) (ctx : Nat) (e : Elem) : Elem :=
  match e.loc with
  | .mem _ _ => { e with sz := pageSize s a ctx e.va }
  | _ => e

/-- An access as it goes into flight: its elements note the pages that translated them. -/
def Acc.sized (a : Acc) (s : State) : Acc := { a with elems := a.elems.map fun (e : Elem) => e.sized s a.agent a.ctx }

/-- Put an access in flight and issue its instruction (R116). -/
def issueAcc (a : Acc) (s : State) : State := retireAccess { s with accs := s.accs ++ [a.sized s] }

/-- Hold the issuing agent until the operation numbered as the current instruction performs (R46). -/
def holdAgent (s : State) : State :=
  match s.cur.agent with
  | .strand c k x => s.updStrand c k x fun y => { y with block := some s.cur.seq }
  | .cond n => s.updCond n fun y => { y with block := some s.cur.seq }

/-- Release the agent that the operation held. -/
def releaseAgent (a : Agent) (id : Nat) (s : State) : State :=
  match a with
  | .strand c k x => s.updStrand c k x fun y => if y.block = some id then { y with block := none } else y
  | .cond n => s.updCond n fun y => if y.block = some id then { y with block := none } else y

/-! ## Local order (R115, R258) -/

/-- Kinds that stand in a class for class order. -/
def AccKind.classed : AccKind → Bool
  | .fence _ _ | .bara _ | .barm _ _ _ | .tlbi _ _ _ | .iflush | .collw _ => false
  | _ => true
/-- Loads, BLD and the read parts that a FENCE .acq orders (R124). -/
def AccKind.reads : AccKind → Bool
  | .load | .vload | .amo _ | .cas | .ldnb _ | .bamo _ | .bld | .semw _ | .launch | .qpush _ | .coll | .thnd _ | .cinv _ => true
  | _ => false
/-- Stores and the write parts that a FENCE .rel orders (R124). -/
def AccKind.writes : AccKind → Bool
  | .store | .vstore | .amo _ | .cas | .stat _ | .mcst _ _ | .bst _ | .bamo _ => true
  | _ => false

/-- Accesses that take a place in the λ0 order (R139). -/
def AccKind.prismOp : AccKind → Bool
  | .bst _ | .bamo _ => true
  | _ => false

/-- Whether a FENCE `a` holds the later access `b` (R124). -/
def fenceBefore (a b : Acc) : Bool :=
  match a.kind with
  | .fence kind mask => b.kind.classed && bit mask b.cls && (kind != 2 || b.kind.writes)
  | _ => false

/-- Whether class order holds `b` behind `a` (R115). Of two operations of the λ0 order the second may enter once the first has: they
perform in the order in which they entered (R139). -/
def classBefore (a b : Acc) : Bool :=
  if a.kind.prismOp && b.kind.prismOp then !a.sent else a.kind.classed && b.kind.classed && a.cls == b.cls

/-- Whether pending access `a` is locally ordered before the later access `b` of its agent (R258). -/
def localBefore (a b : Acc) : Bool :=
  match b.kind with
  | .fence kind mask => a.kind.classed && bit mask a.cls && (kind != 1 || a.kind.reads)
  | .bst mask => classBefore a b || a.acq || fenceBefore a b || (b.rel && a.scope == 3 && bit mask a.cls)
  | .bld => a.kind.prismOp || classBefore a b || a.acq || fenceBefore a b
  | .iflush => a.kind.writes
  | _ => classBefore a b || a.acq || b.rel || fenceBefore a b

/-- Whether an earlier copy command of the agent holds access `b` (R124, R145). -/
def copyBefore (q : CopyCmd) (b : Acc) : Bool :=
  match b.kind with
  | .fence _ mask => bit mask q.cls
  | .bst mask => q.cls == b.cls || (b.rel && q.scope == 3 && bit mask q.cls)
  | _ => (b.kind.classed && q.cls == b.cls) || b.rel

/-- Whether plain class-0 accesses hold the later access `b`; `reads` where they are loads (R124, R258). -/
def class0Before (reads : Bool) (b : Acc) : Bool :=
  match b.kind with
  | .fence kind mask => bit mask 0 && (kind != 1 || reads)
  | .bst mask => b.cls == 0 || (b.rel && bit mask 0)
  | .iflush => !reads
  | _ => (b.kind.classed && b.cls == 0) || b.rel

/-- Whether a row operation of TGTH or TSCT, plain class 0, holds access `b` (R194). -/
def rowsBefore (o : LensOp) (b : Acc) : Bool :=
  match o.cmd with
  | .tgth _ _ => class0Before true b
  | .tsct _ _ => class0Before false b
  | _ => false

/-- Whether every access that is locally ordered before `b` has performed (R258). DEDUCED, log entry 14. -/
def mayPerform (s : State) (b : Acc) : Bool :=
  s.accs.all (fun a => a.orphan || a.agent != b.agent || decide (b.id ≤ a.id) || !localBefore a b)
    && (copyOf s b.agent).all (fun q => decide (b.id ≤ q.id) || !copyBefore q b)
    && match b.agent with
      | .strand c k x => (s.cell c).ops.all fun o => o.slot != k || o.k != x || decide (b.id ≤ o.seq) || !rowsBefore o b
      | .cond _ => true

/-! ## L1 copies (R252, R253) -/

/-- Home die of a physical address (R316). -/
def homeDie (pa : Nat) : Nat := pa / 2 ^ 36

/-- The cell of an agent whose L1 may hold a line of `pa`: one of the home die (R252). -/
def l1Cell (a : Agent) (pa : Nat) : Option Nat :=
  match a with
  | .strand c _ _ => if c / 16 = homeDie pa then some c else none
  | .cond _ => none

/-- A load of one element at its home passes through the L1 of its cell; a bypass load does not (R119, R252). -/
def loadL1 (a : Acc) (l : Loc) (s : State) : State :=
  match l with
  | .mem pa _ => match l1Cell a.agent pa with
    | some c => if a.byp then s else s.readL1 c pa
    | none => s
  | _ => s

/-- A store of whole bytes, or an atomic of cell scope, merges in the L1 of its cell, which owns the sector from then on (R252). -/
def storeL1 (a : Acc) (l : Loc) (s : State) : State :=
  match l with
  | .mem pa _ => match l1Cell a.agent pa with
    | some c => s.ownL1 c pa
    | none => s
  | _ => s

/-! ## The remote-data cache (R254 to R257) -/

/-- Whether an access of die `d` for a context to `pa` may use the die's RDC (R254). -/
def rdcEligible (s : State) (a : Acc) (d pa : Nat) : Bool :=
  (a.kind == .load || a.kind == .vload) && !a.byp && homeDie pa != d && rdcGiB (s.ctxOf a.ctx) d != 0

/-- The sector of an RDC that serves a load: not filled more than 4,000 ticks before the load issued (R256).
DESIGN CHOICE, log entry 10. DESIGN CHOICE, log entry 40. -/
def rdcFind (s : State) (a : Acc) (d pa key : Nat) : Option RdcSector :=
  s.rdc.find? fun r => r.die == d && r.ctx == a.ctx && r.pa == pa / 64 * 64 && r.key == key && (a.rt - r.filled).toInt ≤ 4000

/-- Fill a sector of a die's RDC from the home (R254). DESIGN CHOICE, log entry 40. -/
def rdcFill (a : Acc) (d pa key : Nat) (s : State) : State :=
  let b := pa / 64 * 64
  let r : RdcSector := ⟨d, a.ctx, b, key, s.memRead b 64 key, s.dieRt d⟩
  { s with rdc := r :: s.rdc.filter fun q => !(q.die == d && q.ctx == a.ctx && q.pa == b) }

/-- A write from die `d` updates the RDC copies of that die (R254). -/
def rdcWrite (d : Option Nat) (pa n v : Nat) (s : State) : State :=
  match d with
  | none => s
  | some d => { s with rdc := s.rdc.map fun r =>
      if r.die == d && overlap r.pa 64 pa n && homeDie pa != d then
        { r with bytes := (List.range 64).foldr (fun i acc =>
            let p := r.pa + i
            (if pa ≤ p && p < pa + n then v / 256 ^ (p - pa) % 256 else r.bytes / 256 ^ i % 256) + 256 * acc) 0 }
      else r }

/-! ## Reading and writing elements -/

/-- `n` bytes where an element lies. DESIGN CHOICE, log entry 10. -/
def locRead (s : State) (l : Loc) (n : Nat) : Nat :=
  match l with
  | .mem pa key => s.memRead pa n key
  | .cond m o => condRead s m o n
  | .prism o => Memory.readN s.prism.replica o n
  | .peer _ _ => 0

/-- The cell whose fetch a store of an agent belongs to, plus 1; 0 for a conductor (R75). -/
def writerOf : Agent → Nat
  | .strand c _ _ => c + 1
  | .cond _ => 0

/-- Write the low `n` bytes of `v` where an element lies, for an agent. -/
def locWrite (a : Agent) (l : Loc) (n v : Nat) (s : State) : State :=
  match l with
  | .mem pa key => rdcWrite (agentDie a) pa n v (s.memWrite (writerOf a) pa n v key)
  | .cond m o => condWrite m o n v s
  | _ => s

/-- Bytes that an element of an access covers. -/
def elemBytes (a : Acc) (e : Elem) : Nat := if e.nib.isSome then 1 else sizeBytes a.size

/-- Structure code of bad data that an access would read of the elements that satisfy `p`, and its address. -/
def badElem (s : State) (a : Acc) (p : Elem → Bool) : Option (Nat × Word) :=
  (a.elems.filterMap fun (e : Elem) => match e.loc with
    | .mem pa _ => if p e then (s.badAt pa (elemBytes a e)).map fun c => (c, e.va) else none
    | _ => none).head?

/-- Structure code of bad data that an access would read, and its address: of the elements that it has not read yet. -/
def accBad (s : State) (a : Acc) : Option (Nat × Word) := badElem s a fun e => e.got.isNone

/-- The bytes of memory that a store writes whole: address and length of each element that is no nibble. -/
def Acc.spans (a : Acc) : List (Nat × Nat) :=
  a.elems.filterMap fun (e : Elem) => match e.loc with
    | .mem pa _ => if e.nib.isSome then none else some (pa, elemBytes a e)
    | _ => none

/-- Whether byte ranges together cover [p, p + n). -/
def spansCover (l : List (Nat × Nat)) (p n : Nat) : Bool := (List.range n).all fun i => l.any fun q => decide (q.1 ≤ p + i) && decide (p + i < q.1 + q.2)

/-- Structure code of bad data that a write of an access, with all its elements, would leave in part, and its address (R384, R385). -/
def accBadPart (s : State) (a : Acc) : Option (Nat × Word) :=
  (a.elems.filterMap fun e => match e.loc with
    | .mem pa _ => (s.badIn (spansCover a.spans) pa (elemBytes a e)).map fun c => (c, e.va)
    | _ => none).head?

/-- The errors of the words and sectors that a store has covered whole end (R383, R385). -/
def State.healSpans (s : State) (l : List (Nat × Nat)) : State :=
  { s with err := { s.err with badHbm := s.err.badHbm.filter (fun w => !spansCover l w 32)
                               lost := s.err.lost.filter fun w => !spansCover l w 64 } }

/-- The sector of the issuing die's RDC that serves an element of a load, where it may be used and holds it (R254).
DESIGN CHOICE, log entry 40. -/
def rdcOf (s : State) (a : Acc) (src : Src) (e : Elem) : Option RdcSector :=
  match src, e.loc, agentDie a.agent with
  | .rdc, .mem pa key, some d => if rdcEligible s a d pa then rdcFind s a d pa key else none
  | _, _, _ => none

/-- Whether a byte lies in an address range. -/
def inRange (r : Word × Nat) (va : Word) : Bool := decide ((va - r.1).toNat < r.2)

/-- Bytes that a program reads in the DST of a collective whose COLLW has not returned are unspecified (R366).
DESIGN CHOICE, log entry 4. -/
def unsettledBytes (s : State) (ctx : Nat) (va : Word) (n raw : Nat) : Nat :=
  match (s.ctxOf ctx).unsettled with
  | [] => raw
  | l => leNat ((leBytes n raw).zipIdx.map fun (b, i) =>
      if l.any fun q => inRange q.2.2 (va + BitVec.ofNat 64 i) then Config.freeByte s.free i else b)

/-- A program has written SRC of a collective whose COLLW has not returned: what the engine reads there is unspecified (R366).
DESIGN CHOICE, log entry 4. -/
def spoilSrc (a : Acc) (s : State) : State :=
  match (s.ctxOf a.ctx).unsettled with
  | [] => s
  | l =>
    let hit (t : Nat) : Bool := a.elems.any fun e => (List.range (sizeBytes a.size)).any fun i =>
      l.any fun q => q.1 == t && inRange q.2.1 (e.va + BitVec.ofNat 64 i)
    s.updCtx a.ctx fun x => { x with colls := x.colls.map fun c => if hit c.ticket then { c with spoilt := true } else c }

/-- The value of an element as the load's source serves it, `w` bits wide; one that has been read keeps the bytes it was read with. -/
def loadElem (s : State) (a : Acc) (src : Src) (e : Elem) (w : Nat) : Nat :=
  let raw : Nat :=
    match e.got, rdcOf s a src e, e.loc with
    | some v, _, _ => v
    | none, some r, .mem pa _ => r.bytes / 256 ^ (pa % 64)
    | none, _, l => locRead s l (elemBytes a e)
  let raw := unsettledBytes s a.ctx e.va (elemBytes a e) raw
  match e.nib with
  | some hi => (if hi then raw / 16 else raw) % 16
  | none => extendTo w a.size raw

/-- The sectors that a load fills: those of its elements that it reads at their home (R252, R254). DESIGN CHOICE, log entry 40. -/
def rdcFills (a : Acc) (src : Src) (s : State) : State :=
  match agentDie a.agent with
  | some d => a.elems.foldl (fun t e => match e.loc with
    | .mem pa key =>
      if e.got.isNone && (rdcOf s a src e).isNone then
        (if rdcEligible s a d pa then rdcFill a d pa key t else loadL1 a e.loc t)
      else t
    | _ => t) s
  | none => s

/-! ## Requests between dies (R337, R338) -/

/-- The ends of the die fabric to which requests of an access travel before it performs: the home dies of the bytes that no RDC serves,
and for an arrival at a barrier the hub; the agent's own end is none, and to a fenced die nothing travels (R337, R338, R340). -/
def Acc.dests (s : State) (a : Acc) (src : Src) : List Nat :=
  let own := (agentDie a.agent).getD 8
  let homes : List Nat := a.elems.filterMap fun (e : Elem) => match e.loc with
    | .mem pa _ => if e.got.isNone && (rdcOf s a src e).isNone then some (homeDie pa % 8) else none
    | _ => none
  let ends : List Nat := match a.kind with
    | .bara _ => [8]
    | .barm _ _ _ => [8]
    | .qpush _ => 8 :: homes
    | .launch => 8 :: homes
    | .coll => 8 :: homes
    | _ => homes
  ends.filter fun d => d != own && !bit s.err.fencedDies d

/-- The requests of an access have arrived where it performs (R338). DESIGN CHOICE, log entry 48. -/
def travelled (s : State) (a : Acc) (src : Src) : Bool := (a.dests s src).all a.arrived.contains

/-- Bad data of the elements of a load that are read at their home. -/
def loadBad (s : State) (a : Acc) (src : Src) : Option (Nat × Word) :=
  badElem s a fun e => e.got.isNone && (rdcOf s a src e).isNone

/-- Remove a performed access, releasing what it held. DEDUCED, log entry 14. -/
def finishAcc (a : Acc) (s : State) : State :=
  releaseAgent a.agent a.id { s with accs := s.accs.filter fun q => q.id != a.id }

/-- Remove an access that is refused after its issue and does not perform: its instruction keeps its pops and its reservation, and
makes no push that waits for it (R28, R384). -/
def refuseAcc (a : Acc) (s : State) : State := finishAcc a (if a.orphan then s else losePush a.agent a.id s)

/-- Return the pops and reservations of an instruction that faults precisely after its issue, its PC, and REPST as it stood before it
issued: an instruction outside any REP comes back outside any, whatever has issued since (R28, R108, R173). DEDUCED, log entry 31. A push
timed at issue that has been made by then is not taken back, and the instruction makes it again when it issues again: R28 returns pops and
reservations and names no push. DEDUCED, log entry 47. -/
def undoIssue (a : Acc) (s : State) : State :=
  let h := Hdr.dec a.word.toNat
  match a.agent with
  | .strand c k x => s.updSlot c k fun sl =>
      let sl := (named h.wb x).foldl (fun t y => t.updQueue y x fun q => { q with cnt := q.cnt + tokens h.wb }) sl
      let mine := sl.pushes.filter fun p => p.seq == a.id
      let sl := mine.foldl (fun t p => t.updQueue p.src p.dst fun q => { q with res := q.res - p.m }) sl
      let sl := { sl with pushes := sl.pushes.filter fun p => p.seq != a.id }
      sl.setStrand x { sl.strand x with pc := a.fpc, repst := a.repst }
  | .cond n => s.updCond n fun y => { y with pc := a.fpc, repst := a.repst }

/-- A precise fault of an access that was found after its issue: it writes nothing, and its record names it (R117, R173).
DEDUCED, log entry 31. -/
def preciseLate (a : Acc) (code : Nat) (addr aux : Word) (s : State) : State :=
  let s := undoIssue a (finishAcc a s)
  if a.orphan then s
  else takeFault a.agent { kind := 0, code := code, fpc := a.fpc, rpc := a.fpc, addr := addr, aux := aux } s

/-- A fault of an access reported after issue (kind 1) or asynchronous (kind 2). -/
def lateFault (a : Acc) (kind code : Nat) (addr aux aux2 : Word) (s : State) : State :=
  if a.orphan then s
  else report { agent := a.agent, kind := kind, code := code, fpc := a.fpc, addr := addr, aux := aux, aux2 := aux2 } s

/-- The lanes that a vector load writes, and the value. -/
def vloadValue (s : State) (a : Acc) (src : Src) : Nat × Nat :=
  (ofBits (a.elems.map (·.lane)),
   a.elems.foldl (fun v e => v + loadElem s a src e 32 * 2 ^ (32 * e.lane)) 0)

/-- Perform a load: bind its data at its source and write its destination (R116, R119, R125, R127). -/
def performLoad (a : Acc) (src : Src) (s : State) : State :=
  match loadBad s a src with
  | some (code, va) => preciseLate a fUncorrectable va (BitVec.ofNat 64 code) s
  | none =>
    let s1 := rdcFills a src s
    let s2 := if a.acq then acquireBump a.agent a.ctx a.scope s1 else s1
    match a.dst with
    | .v c k off =>
      let (m, v) := vloadValue s a src
      finishAcc a (putV c k (agentKind a.agent) off m v s.clk a.id false s2)
    | d =>
      let v := match a.elems with | e :: _ => loadElem s a src e 64 | [] => 0
      finishAcc a (deliver d (BitVec.ofNat 64 v) a.id s2)

/-- Write one element of a store: whole bytes, or one nibble merged at the home (R128). -/
def storeElem (a : Acc) (e : Elem) (s : State) : State :=
  match e.nib with
  | some hi =>
    let old := locRead s e.loc 1
    let v := if hi then old % 16 + e.data % 16 * 16 else old / 16 * 16 + e.data % 16
    locWrite a.agent e.loc 1 v s
  | none => storeL1 a e.loc (locWrite a.agent e.loc (sizeBytes a.size) e.data s)

/-- Write the elements of a store: one store of each word that they touch (R75). -/
def storeElems (a : Acc) (l : List Elem) (s : State) : State := (l.foldl (fun t e => storeElem a e t) s).oneStore s.oldWords.length

/-- Perform a store (R116): refused, after issue, where it would leave part of a bad word (R384). -/
def performStore (a : Acc) (s : State) : State :=
  match accBadPart s a with
  | some (code, va) => refuseAcc a (lateFault a 1 fUncorrectable va (BitVec.ofNat 64 code) 0 s)
  | none => finishAcc a (spoilSrc a ((storeElems a a.elems s).healSpans a.spans))

/-! ## Atomics (R122, R123) -/

/-- The new value of an atomic operation on `w` bytes. -/
def amoNew (op w old x : Nat) : Nat :=
  let m := 2 ^ (8 * w)
  let so := sext old (8 * w)
  let sx := sext x (8 * w)
  match op with
  | 0 => (old + x) % m
  | 1 => old &&& x
  | 2 => old ||| x
  | 3 => old ^^^ x
  | 4 => if so ≤ sx then old else x
  | 5 => if so ≤ sx then x else old
  | 6 => if old ≤ x then old else x
  | 7 => if old ≤ x then x else old
  | 8 => x
  | _ =>
    let t : ETy := if w = 8 then .f64 else .f32
    roundFmt t 0 (addX 0 (decodeF t old) (decodeF t x))

/-- What a read-modify-write of kind `k` leaves, from the old value, the operand and the data register. -/
def rmwNew (k : AccKind) (w old x d : Nat) : Nat :=
  match k with
  | .amo op => amoNew op w old x
  | .bamo op => amoNew op w old x
  | .cas => if old = x then d else old
  | _ => old

/-- Perform an atomic: one indivisible read-modify-write; the old value goes to its destination (R123). -/
def performRmw (a : Acc) (s : State) : State :=
  match a.elems with
  | [] => finishAcc a s
  | e :: _ =>
    let w := sizeBytes a.size
    match accBad s a with
    | some (code, va) => refuseAcc a (lateFault a 1 fUncorrectable va (BitVec.ofNat 64 code) 0 s)
    | none =>
      let old := unsettledBytes s a.ctx e.va w (locRead s e.loc w)
      let new := rmwNew a.kind w old (a.x.toNat % 2 ^ (8 * w)) (a.d.toNat % 2 ^ (8 * w))
      let s1 := if a.kind == .cas && decide (old ≠ a.x.toNat % 2 ^ (8 * w)) then s else locWrite a.agent e.loc w new s
      let s1 := if a.scope = 0 then storeL1 a e.loc s1 else s1
      let s2 := if a.acq then acquireBump a.agent a.ctx a.scope s1 else s1
      let s2 := spoilSrc a s2
      finishAcc a (deliver a.dst (BitVec.ofNat 64 (extendTo 64 a.size old)) a.id s2)

/-! ## Time (R129, R130) -/

/-- The minimum lead of a scope in ticks (R129); a conductor's narrow scopes act as package (R249). -/
def minLead (scope : Nat) : Int := match scope with | 0 => 16 | 1 => 120 | 2 => 800 | _ => 8000

/-- The scope that an access of an agent has (R249). -/
def scopeOf (a : Agent) (scope : Nat) : Nat :=
  match a with
  | .strand _ _ _ => scope
  | .cond _ => if scope ≤ 1 then 2 else scope

/-- Whether the package is in HOLDOVER (R134, R362). -/
def inHoldover (s : State) : Bool := s.time.holdover

/-! ## The group (R135, R343, R345) -/

/-- Whether member m belongs to the context's group in the current Mirror configuration (R135, R347). -/
def memberPresent (s : State) (ctx m : Nat) : Bool :=
  bit (s.ctxOf ctx).gmask m && (m == s.selfIdx || bit s.connected m)

/-- Facet port `n`. -/
def State.port (s : State) (n : Nat) : Port := Tab.get {} n s.ports

/-- A port in service. -/
def portUp (s : State) (n : Nat) : Bool := s.powered && decide (n < 18) && (s.port n).st == .up

/-- The port of the route to member `m` in class `cls` (R342): the first in service counted from one that member and class name, so that
within one Mirror configuration a route changes only when its port goes down; each configuration has routes of its own (R347).
DESIGN CHOICE, log entry 48. -/
def facetRoute (s : State) (m cls : Nat) : Nat :=
  let first := 16 * m + cls + s.mircfg.toNat
  (((List.range 18).map fun i => (first + i) % 18).find? (portUp s)).getD (first % 18)

/-- Whether a request to member `m` in class `cls` may take its route: those sent to the member in the class over another port have been
answered or returned (R342). -/
def routeClear (s : State) (m cls : Nat) : Bool :=
  s.accs.all fun q => !(q.sent && q.cls == cls && (match Tab.find m q.ports with | some p => p != facetRoute s m cls | none => false)
    && match q.kind with | .mcst _ _ => !bit q.x.toNat m | _ => true)

/-- Whether [ea, ea + n) lies in the context's symmetric heap (R343). -/
def inHeap (s : State) (ctx : Nat) (ea : Word) (n : Nat) : Bool :=
  let x := s.ctxOf ctx
  decide (x.shbase.toNat ≤ ea.toNat) && decide (ea.toNat + n ≤ x.shbase.toNat + x.shlen)

/-- Whether a context is a Prism member that has not left (R139, R357). -/
def prismMember (s : State) (ctx : Nat) : Bool := (s.ctxOf ctx).prism && (s.ctxOf ctx).prismLive

/-- No suspend has frozen the package, so that it sends facet packets (R392). -/
def sending (s : State) : Bool := match s.susp with | .none => true | .armed _ => true | _ => false

/-- A new facet packet, which a Mirror PREPARE holds: neither an answer to a packet that another member has sent, nor a message of the link
itself, nor light (R347). -/
def FacetMsg.fresh : FacetMsg → Bool
  | .request _ _ => true
  | .notice _ _ => true
  | .frameRequest _ _ _ => true
  | .regenAnswer _ _ => true
  | .groupKey _ _ _ => true
  | .collAnnounce _ _ _ => true
  | .collStatus _ _ _ => true
  | .replicaCopy _ _ _ _ _ => true
  | .reply _ _ _ => false
  | .frameAnswer _ _ _ => false
  | .dataAnswer _ _ _ => false
  | .keyUpdate _ _ => false
  | .keyExchange _ => false
  | .cutMarker _ _ => false
  | .marker _ _ => false
  | .dataFrame _ => false

/-- A version notice, and the member that it goes to (R246). -/
def FacetMsg.notice? : FacetMsg → Option Nat
  | .notice m _ => some m
  | _ => none

/-- What keeps the order of λ0 goes out once a package is restored, before T′: a recovery, the answers to a REGEN, the group key, a replica
(R351, R356, R358, R395, R406). -/
def FacetMsg.keepsOrder : FacetMsg → Bool
  | .frameRequest _ _ _ => true
  | .frameAnswer _ _ _ => true
  | .regenAnswer _ _ => true
  | .groupKey _ _ _ => true
  | .replicaCopy _ _ _ _ _ => true
  | _ => false

/-- The package has been restored and awaits T′. -/
def restored (s : State) : Bool := match s.susp with | .restored _ _ => true | _ => false

/-- A packet that has to wait: from T of a suspend to T′, and a new one under a Mirror PREPARE (R347, R392, R394).
DEDUCED, log entry 33. -/
def packetWaits (s : State) (m : FacetMsg) : Bool := (!sending s && !(restored s && m.keepsOrder)) || (s.mirHold && m.fresh)

/-- A facet packet goes out, or waits with the others that the package keeps. DEDUCED, log entry 33. -/
def postPacket (m : FacetMsg) (s : State) : State :=
  if packetWaits s m then { s with replyq := s.replyq ++ [m] } else { s with outbox := s.outbox ++ [m] }

/-- Send the packets that wait and may go, in their order (R347, R392, R394). -/
def flushPackets (s : State) : State :=
  { s with outbox := s.outbox ++ s.replyq.filter (fun m => !packetWaits s m), replyq := s.replyq.filter (packetWaits s) }

/-- Send a peer access to its member (R345). -/
def sendPeer (a : Acc) (m : Nat) (ea : Word) (s : State) : State :=
  let op : PeerOp := match a.kind with
    | .amo op => .amo op | .cas => .cas | .stat t => .stat t | .store => .store | .mcst _ _ => .mcst | _ => .load
  let qual := (if a.acq then 1 else 0) + (if a.rel then 1 else 0) + (if a.byp then 2 else 0)
  { s with
    outbox := s.outbox ++ [.request m ⟨s.selfIdx, a.id, (s.ctxOf a.ctx).groupId, ea, op, a.size, a.cls, qual, a.x, a.d⟩]
    accs := s.accs.map fun q => if q.id = a.id then { q with sent := true, ports := [(m, facetRoute s m a.cls)] } else q }

/-- An access by its number. -/
def State.acc (s : State) (id : Nat) : Option Acc := s.accs.find? fun a => a.id == id

/-- The member and address of a peer access. -/
def Acc.peerOf (a : Acc) : Option (Nat × Word) :=
  match a.elems with
  | e :: _ => match e.loc with | .peer m ea => some (m, ea) | _ => none
  | [] => none

end Sys2Proof.Machine
end

