-- ==== Sys2Proof/Machine/ScalarInt.lean ====
section
/-! DEFINITION. The scalar integer instructions (R92 to R97). -/

namespace Sys2Proof.Machine

open Sys2Proof

/-- What a meaning answers. -/
abbrev Out := Host.Outcome State Fault Refusal

/-- A scalar instruction of format A: a function of sA, sB and sC to sD with latency `l` (R92, R93). -/
def aluA (l : Nat) (f : Word → Word → Word → Word) (x : FmtA) (s : State) : Out :=
  .next (retireIn l (writeS x.d (f (s.rs x.a) (s.rs x.b) (s.rs x.c)) l s))

/-- A scalar instruction of format I: a function of sA to sD in one clk. -/
def aluI (f : Word → Word) (x : FmtI) (s : State) : Out :=
  .next (retireIn 1 (writeS x.d (f (s.rs x.a)) 1 s))

/-- The sign-extended 24-bit immediate (R94). -/
def imm24 (n : Nat) : Word := toW (sext n 24)

/-- Bits [127:64] of the signed product (R94). -/
def mulhS (a b : Word) : Word := toW (a.toInt * b.toInt / (2 ^ 64 : Int))
/-- Bits [127:64] of the unsigned product (R94). -/
def mulhU (a b : Word) : Word := BitVec.ofNat 64 (a.toNat * b.toNat / 2 ^ 64)
/-- Signed quotient (R96). -/
def divS (a b : Word) : Word := if b = 0 then allOnes else toW (a.toInt.tdiv b.toInt)
/-- Unsigned quotient (R96). -/
def divU (a b : Word) : Word := if b = 0 then allOnes else BitVec.ofNat 64 (a.toNat / b.toNat)
/-- Signed remainder (R96). -/
def remS (a b : Word) : Word := if b = 0 then a else toW (a.toInt.tmod b.toInt)
/-- Unsigned remainder (R96). -/
def remU (a b : Word) : Word := if b = 0 then a else BitVec.ofNat 64 (a.toNat % b.toNat)
/-- A shift amount: b[5:0] (R94, R95). -/
def sh6 (b : Word) : Nat := b.toNat % 64
/-- Rotate left (R94). -/
def rol64 (a : Word) (n : Nat) : Word := (a <<< n) ||| (a >>> (64 - n))
/-- Leading zero bits, 64 for zero (R94). -/
def clz64 (a : Word) : Nat := if a = 0 then 64 else 63 - Nat.log2 a.toNat
/-- Trailing zero bits, 64 for zero (R94). -/
def ctz64 (a : Word) : Nat := ((List.range 64).find? (bit a.toNat)).getD 64
/-- A truth value as a register value. -/
def ofBool (b : Bool) : Word := if b then 1 else 0
/-- BEXT (R97): F[11:6] is the position, F[5:0] + 1 the length. -/
def bext (f : Nat) (a : Word) : Word := BitVec.ofNat 64 (a.toNat / 2 ^ (f / 64) % 2 ^ (f % 64 + 1))
/-- BINS (R97). -/
def bins (f : Nat) (a b : Word) : Word :=
  let m : Word := BitVec.ofNat 64 ((2 ^ (f % 64 + 1) - 1) * 2 ^ (f / 64))
  (a &&& ~~~m) ||| ((b <<< (f / 64)) &&& m)

/-- Take the agent's integer divider until clk t + L − 1 (R93). -/
def takeDivider (l : Nat) (s : State) : State :=
  match s.cur.agent with
  | .strand c k x => s.updStrand c k x fun y => { y with divFree := s.clk + l }
  | .cond n => s.updCond n fun y => { y with divFree := s.clk + l }

/-- A division: latency 34 on the integer divider (R93, R96). -/
def divA (f : Word → Word → Word) (x : FmtA) (s : State) : Out :=
  .next (retireIn 34 (takeDivider 34 (writeS x.d (f (s.rs x.a) (s.rs x.b)) 34 s)))

def execAdd (x : FmtA) (s : State) : Out := aluA 1 (fun a b _ => a + b) x s
def execAddi (x : FmtI) (s : State) : Out := aluI (fun a => a + imm24 x.imm) x s
def execSub (x : FmtA) (s : State) : Out := aluA 1 (fun a b _ => a - b) x s
def execMul (x : FmtA) (s : State) : Out := aluA 3 (fun a b _ => a * b) x s
def execMulh (x : FmtA) (s : State) : Out := aluA 4 (fun a b _ => mulhS a b) x s
def execMulhn (x : FmtA) (s : State) : Out := aluA 4 (fun a b _ => mulhU a b) x s
def execMadd (x : FmtA) (s : State) : Out := aluA 4 (fun a b c => a * b + c) x s
def execDiv (x : FmtA) (s : State) : Out := divA divS x s
def execDivn (x : FmtA) (s : State) : Out := divA divU x s
def execRem (x : FmtA) (s : State) : Out := divA remS x s
def execRemn (x : FmtA) (s : State) : Out := divA remU x s
def execAnd (x : FmtA) (s : State) : Out := aluA 1 (fun a b _ => a &&& b) x s
def execAndi (x : FmtI) (s : State) : Out := aluI (fun a => a &&& imm24 x.imm) x s
def execOr (x : FmtA) (s : State) : Out := aluA 1 (fun a b _ => a ||| b) x s
def execOri (x : FmtI) (s : State) : Out := aluI (fun a => a ||| imm24 x.imm) x s
def execXor (x : FmtA) (s : State) : Out := aluA 1 (fun a b _ => a ^^^ b) x s
def execAndn (x : FmtA) (s : State) : Out := aluA 1 (fun a b _ => a &&& ~~~b) x s
def execShl (x : FmtA) (s : State) : Out := aluA 1 (fun a b _ => a <<< sh6 b) x s
def execShli (x : FmtI) (s : State) : Out := aluI (fun a => a <<< (x.imm % 64)) x s
def execShr (x : FmtA) (s : State) : Out := aluA 1 (fun a b _ => a >>> sh6 b) x s
def execShri (x : FmtI) (s : State) : Out := aluI (fun a => a >>> (x.imm % 64)) x s
def execSha (x : FmtA) (s : State) : Out := aluA 1 (fun a b _ => a.sshiftRight (sh6 b)) x s
def execShai (x : FmtI) (s : State) : Out := aluI (fun a => a.sshiftRight (x.imm % 64)) x s
def execRol (x : FmtA) (s : State) : Out := aluA 1 (fun a b _ => rol64 a (sh6 b)) x s
def execClz (x : FmtA) (s : State) : Out := aluA 1 (fun a _ _ => BitVec.ofNat 64 (clz64 a)) x s
def execCtz (x : FmtA) (s : State) : Out := aluA 1 (fun a _ _ => BitVec.ofNat 64 (ctz64 a)) x s
def execPcnt (x : FmtA) (s : State) : Out := aluA 1 (fun a _ _ => BitVec.ofNat 64 (popCount 64 a.toNat)) x s
def execMin (x : FmtA) (s : State) : Out := aluA 1 (fun a b _ => if ltS b a then b else a) x s
def execMax (x : FmtA) (s : State) : Out := aluA 1 (fun a b _ => if ltS a b then b else a) x s
def execMinn (x : FmtA) (s : State) : Out := aluA 1 (fun a b _ => if ltU b a then b else a) x s
def execMaxn (x : FmtA) (s : State) : Out := aluA 1 (fun a b _ => if ltU a b then b else a) x s
def execSlt (x : FmtA) (s : State) : Out := aluA 1 (fun a b _ => ofBool (ltS a b)) x s
def execSltn (x : FmtA) (s : State) : Out := aluA 1 (fun a b _ => ofBool (ltU a b)) x s
def execSeq (x : FmtA) (s : State) : Out := aluA 1 (fun a b _ => ofBool (a == b)) x s
def execSel (x : FmtA) (s : State) : Out := aluA 1 (fun a b c => if c = 0 then b else a) x s
def execLi (x : FmtI) (s : State) : Out := aluI (fun _ => imm24 x.imm) x s
def execLiw (x : FmtI) (lit : Word) (s : State) : Out := aluI (fun _ => lit) x s
def execBext (x : FmtA) (s : State) : Out := aluA 1 (fun a _ _ => bext x.f a) x s
def execBins (x : FmtA) (s : State) : Out := aluA 1 (fun a b _ => bins x.f a b) x s

end Sys2Proof.Machine
end

