-- ==== Sys2Proof/Machine/MemInstr.lean ====
section
/-! DEFINITION. Loads, stores, prefetches, invalidations, atomics, fences, vector and indexed accesses, and time-tagged
accesses (R113 to R134), at their issue. What each does when it performs stands in Machine/Access.lean and
Machine/AccessEvents.lean. -/

namespace Sys2Proof.Machine

open Sys2Proof

/-- The effective address of formats M and P (R113). -/
def eaM (x : FmtM) (s : State) : Word := s.rs x.base + disp12 x.disp
def eaP (x : FmtP) (s : State) : Word := s.rs x.base + BitVec.ofNat 64 (8 * (x.sub % 8))

/-- The data stream of the issuing agent (R324). -/
def State.dStream (s : State) : Nat := dataStream (agentKind s.cur.agent)

/-- The result of an issue that may have faulted or still waits. -/
def ofPlaced {α : Type} (r : Except State (α × State)) (f : α → State → State) : Out :=
  match r with
  | .error s => .next s
  | .ok (a, s) => .next (f a s)

/-- An access with one element. -/
def Acc.one (a : Acc) (l : Loc) (ea : Word) (size data : Nat) : Acc :=
  { a with size := size, elems := [{ loc := l, va := ea, lane := 0, data := data }] }

/-- The acquire, release and bypass parts of a load or store qualifier (R79). -/
def Acc.loadQual (a : Acc) (q : Nat) : Acc := { a with acq := bit q 0, byp := bit q 1 }
def Acc.storeQual (a : Acc) (q : Nat) : Acc := { a with rel := bit q 0 }

/-- The access of the current instruction at its scope (R249). -/
def State.newAcc (s : State) (kind : AccKind) (cls scope : Nat) : Acc := Machine.newAcc s kind cls (scopeOf s.cur.agent scope)

/-! ## Scalar loads and stores (R119) -/

def execLd (x : FmtM) (s : State) : Out :=
  let ea := eaM x s
  ofPlaced (placeScalar s.dStream 0 (sizeBytes x.size) ea s) fun l s =>
    issueAcc { ((s.newAcc .load x.cls x.scope).one l ea x.size 0).loadQual x.qual with dst := dstS s s.cur.agent x.d } s

def execSt (x : FmtM) (s : State) : Out :=
  let ea := eaM x s
  ofPlaced (placeScalar s.dStream 1 (sizeBytes x.size) ea s) fun l s =>
    issueAcc (((s.newAcc .store x.cls x.scope).one l ea x.size (s.rs x.d).toNat).storeQual x.qual) s

/-- The four sectors of the 256-byte line at `pa` come into the L1 of a cell of its home die (R120, R252). -/
def lineToL1 (a : Agent) (pa : Nat) (s : State) : State :=
  match l1Cell a pa with
  | some c => (List.range 4).foldl (fun t i => t.readL1 c (pa / 256 * 256 + 64 * i)) s
  | none => s

/-- The line of `ea` comes into an L1 through a translation that permits it (R120). DESIGN CHOICE, log entry 10. -/
def lineVia (a : Agent) (t : Trans) (ea : Word) (s : State) : State :=
  let pa := t.phys ea
  if (t.refuses 0 true).isSome || (s.badAt (pa / 256 * 256) 256).isSome then s else lineToL1 a pa s

/-- What PREF does (R120, R321): the page is translated speculatively, and through the translation, held or walked for, the line comes into
the cell's L1 (`l1`) or its home slice, which is not in State; whatever refuses it drops the prefetch. DESIGN CHOICE, log entry 10. -/
def prefetched (l1 : Bool) (ea : Word) (s : State) : State :=
  match s.cur.agent with
  | .cond _ => s
  | .strand c k x =>
    let y := s.slot c k
    if !canonical ea then s
    else
      match streamTrans (s.cell c) y (dataStream x) (s.ctxOf y.ctx).asid ea 0 with
      | some (t, _) => if l1 then lineVia s.cur.agent t ea s else s
      | none =>
        let w : WalkReq := { agent := s.cur.agent, ctx := y.ctx, va := ea, kind := 0, task := true, spec := true, line := l1 }
        if s.walks.contains w then s else { s with walks := s.walks ++ [w] }

/-- PREF (R120): it performs in its issue clk, belongs to no class, never faults and writes no register. -/
def prefetch (l1 : Bool) (x : FmtM) (s : State) : Out := .next (retireNow (prefetched l1 (eaM x s) s))
def execPrefL1 (x : FmtM) (s : State) : Out := prefetch true x s
def execPrefL2 (x : FmtM) (s : State) : Out := prefetch false x s

/-! ## Invalidation (R121) -/

def execCinvLine (x : FmtM) (s : State) : Out :=
  let ea := eaM x s
  if !canonical ea then .next (raiseNonCanonical ea 0 s)
  else
    ofPlaced (place s.dStream 0 ea s) fun l s =>
      issueAcc ((s.newAcc (.cinv 0) x.cls 2).one l ea 0 0) s

/-- CINV of a die or of the package. -/
def cinvWide (extent : Nat) (x : FmtM) (s : State) : Out := .next (issueAcc (s.newAcc (.cinv extent) x.cls 2) s)
def execCinvDie (x : FmtM) (s : State) : Out := cinvWide 1 x s
def execCinvPkg (x : FmtM) (s : State) : Out := cinvWide 2 x s

/-! ## Atomics (R122, R123) -/

def execAmo (x : FmtP) (s : State) : Out :=
  let ea := s.rs x.base
  let ar := bit x.sub 4
  ofPlaced (placeScalar s.dStream 2 (sizeBytes x.size) ea s) fun l s =>
    issueAcc { (s.newAcc (.amo (x.sub % 16)) x.cls x.scope).one l ea x.size 0 with
      acq := ar, rel := ar, x := s.rs x.x, dst := dstS s s.cur.agent x.d } s

def execCas (x : FmtP) (s : State) : Out :=
  let ea := s.rs x.base
  let ar := bit x.sub 4
  ofPlaced (placeScalar s.dStream 2 (sizeBytes x.size) ea s) fun l s =>
    issueAcc { (s.newAcc .cas x.cls x.scope).one l ea x.size 0 with
      acq := ar, rel := ar, x := s.rs x.x, d := s.rs x.d, dst := dstS s s.cur.agent x.d } s

/-! ## Fences (R124) -/

def execFence (x : FmtI) (s : State) : Out :=
  .next (issueAcc (s.newAcc (.fence (bits x.imm 5 4) (bits x.imm 23 8)) 0 (bits x.imm 7 6)) s)

/-! ## Vector loads and stores (R125) -/

/-- The elements of a contiguous vector access, lowest address first: (lane, address). -/
def spanLanes (ea : Word) (e : Nat) : List (Nat × Word) :=
  let l := (List.range 64).map fun i => (i, ea + BitVec.ofNat 64 (e * i))
  l.filter (fun q => decide (q.2.toNat < ea.toNat)) ++ l.filter fun q => decide (ea.toNat ≤ q.2.toNat)

/-- The register-space offset of v register `n` of the issuing strand, as a destination. -/
def State.dstV (s : State) (n : Nat) : Dst :=
  match s.cur.agent with
  | .strand c k x => .v c k (vOff (s.slot c k) x n)
  | .cond _ => .none

def execVld (x : FmtM) (s : State) : Out :=
  let ln := spanLanes (eaM x s) (sizeBytes x.size)
  ofPlaced (placeElems s.dStream 0 (sizeBytes x.size) (fun _ => 0) (ln.map (·.2)) s) fun ls s =>
    issueAcc { (s.newAcc .vload x.cls x.scope).loadQual x.qual with
      size := x.size, dst := s.dstV x.d
      elems := (ln.zip ls).map fun ((i, va), l) => { loc := l, va := va, lane := i, data := 0 } } s

def execVst (x : FmtM) (s : State) : Out :=
  let ln := spanLanes (eaM x s) (sizeBytes x.size)
  let v := s.rv x.d
  ofPlaced (placeElems s.dStream 1 (sizeBytes x.size) (fun _ => 0) (ln.map (·.2)) s) fun ls s =>
    issueAcc { (s.newAcc .vstore x.cls x.scope).storeQual x.qual with
      size := x.size
      elems := (ln.zip ls).map fun ((i, va), l) => { loc := l, va := va, lane := i, data := laneOf v i } } s

/-! ## Gathers and scatters (R126 to R128) -/

/-- Fields of F of VGTH and VSCT (R126). -/
def gEsz (f : Nat) : Nat := bits f 11 9
def gScl (f : Nat) : Nat := bits f 8 7
def gCls (f : Nat) : Nat := bits f 6 3
def gScope (f : Nat) : Nat := bits f 2 1
def gOrd (f : Nat) : Bool := bit f 0

/-- The selected lanes of a gather or scatter in ascending order: lane, address, nibble (R127). -/
def gatherLanes (x : FmtA) (s : State) : List (Nat × Word × Option Bool) :=
  let base := s.rs x.a
  let ix := s.rv (x.b % 32)
  (setBits 64 (s.laneMask x.c)).map fun i =>
    let n := sext (laneOf ix i) 32
    if gEsz x.f = 7 then (i, base + toW (n / 2), some (decide (n % 2 = 1)))
    else (i, base + toW (n * ((2 ^ gScl x.f : Nat) : Int)), none)

/-- The lane that a refused element address belongs to, lowest first (R127). -/
def laneNamed (ln : List (Nat × Word × Option Bool)) (v : Word) : Word :=
  match ln.find? fun q => q.2.1 == v with
  | some (i, _) => BitVec.ofNat 64 i
  | none => 0

def execVgth (x : FmtA) (s : State) : Out :=
  let ln := gatherLanes x s
  ofPlaced (placeElems s.dStream 0 (sizeBytes (gEsz x.f)) (laneNamed ln) (ln.map (·.2.1)) s) fun ls s =>
    issueAcc { s.newAcc .vload (gCls x.f) (gScope x.f) with
      size := gEsz x.f, acq := gOrd x.f, dst := s.dstV (x.d % 32)
      elems := (ln.zip ls).map fun ((i, va, nib), l) => { loc := l, va := va, lane := i, data := 0, nib := nib } } s

def execVsct (x : FmtA) (s : State) : Out :=
  let ln := gatherLanes x s
  let v := s.rv (x.d % 32)
  ofPlaced (placeElems s.dStream 1 (sizeBytes (gEsz x.f)) (laneNamed ln) (ln.map (·.2.1)) s) fun ls s =>
    issueAcc { s.newAcc .vstore (gCls x.f) (gScope x.f) with
      size := gEsz x.f, rel := gOrd x.f
      elems := (ln.zip ls).map fun ((i, va, nib), l) => { loc := l, va := va, lane := i, data := laneOf v i, nib := nib } } s

/-! ## Time-tagged accesses (R129 to R134) -/

/-- Holdover, then lead, of a time-tagged store (R130); the fault where one is refused. -/
def statRefused (scope : Nat) (t : Word) (ea : Word) (s : State) : Option State :=
  if scope = 3 && inHoldover s then some (raise fTimeIntegrity 0 ea 0 0 s)
  else if (t - s.rtOf s.cur.agent).toInt < minLead scope then some (raise fLead 0 ea 0 0 s)
  else none

/-- Holdover for a not-before load of group scope (R132). -/
def ldnbRefused (scope : Nat) (ea : Word) (s : State) : Option State :=
  if scope = 3 && inHoldover s then some (raise fTimeIntegrity 0 ea 0 0 s) else none

/-- A time-tagged store to the package's own memory. -/
def localStat (x : FmtP) (s : State) : Out :=
  let ea := eaP x s
  let sc := scopeOf s.cur.agent x.scope
  let w := sizeBytes x.size
  let t := s.rs x.x
  if !canonical ea then .next (raiseNonCanonical ea 1 s)
  else if ea.toNat % w ≠ 0 then .next (raise fMisaligned 0 ea 0 0 s)
  else
    match statRefused sc t ea s with
    | some s => .next s
    | none =>
      ofPlaced (place s.dStream 1 ea s) fun l s =>
        issueAcc (((s.newAcc (.stat t) x.cls x.scope).one l ea x.size (s.rs x.d).toNat).storeQual (x.sub / 8)) s

/-- A not-before load of the package's own memory. -/
def localLdnb (x : FmtP) (s : State) : Out :=
  let ea := eaP x s
  let sc := scopeOf s.cur.agent x.scope
  let w := sizeBytes x.size
  if !canonical ea then .next (raiseNonCanonical ea 0 s)
  else if ea.toNat % w ≠ 0 then .next (raise fMisaligned 0 ea 0 0 s)
  else
    match ldnbRefused sc ea s with
    | some s => .next s
    | none =>
      ofPlaced (place s.dStream 0 ea s) fun l s =>
        issueAcc { ((s.newAcc (.ldnb (s.rs x.x)) x.cls x.scope).one l ea x.size 0).loadQual (x.sub / 8) with
          byp := true, dst := dstS s s.cur.agent x.d } s

def execStat (x : FmtP) (s : State) : Out := localStat x s
def execLdnb (x : FmtP) (s : State) : Out := localLdnb x s

end Sys2Proof.Machine
end

