-- ==== Sys2Proof/Machine/Sha.lean ====
section
/-! DEFINITION. SHA-256, whose state a copy command keeps in its pieces of 256 bytes (R144, R145). -/

namespace Sys2Proof.Machine

open Sys2Proof

abbrev W32 := BitVec 32

/-- The 64 round constants of SHA-256 in one number, the first in its highest 32 bits. -/
def shaK : Nat :=
  0x428a2f9871374491b5c0fbcfe9b5dba53956c25b59f111f1923f82a4ab1c5ed5d807aa9812835b01243185be550c7dc372be5d7480deb1fe9bdc06a7c19bf174e49b69c1efbe47860fc19dc6240ca1cc2de92c6f4a7484aa5cb0a9dc76f988da983e5152a831c66db00327c8bf597fc7c6e00bf3d5a7914706ca63511429296727b70a852e1b21384d2c6dfc53380d13650a7354766a0abb81c2c92e92722c85a2bfe8a1a81a664bc24b8b70c76c51a3d192e819d6990624f40e3585106aa07019a4c1161e376c082748774c34b0bcb5391c0cb34ed8aa4a5b9cca4f682e6ff3748f82ee78a5636f84c878148cc7020890befffaa4506cebbef9a3f7c67178f2

/-- The constant of round `i`. -/
def shaConst (i : Nat) : W32 := BitVec.ofNat 32 (shaK / 2 ^ (32 * (63 - i)))

/-- The initial state of SHA-256: a in the top 32 bits, h in the lowest. -/
def shaInit : BitVec 256 :=
  0x6a09e667bb67ae853c6ef372a54ff53a510e527f9b05688c1f83d9ab5be0cd19#256

/-- Word `i` of a state, 0 the first. -/
def shaWord (h : BitVec 256) (i : Nat) : W32 := h.extractLsb' (32 * (7 - i)) 32

/-- The exclusive or of a word's rotations to the right, and of `z`. -/
def shaMix (x z : W32) (turns : List Nat) : W32 := turns.foldr (fun n y => x.rotateRight n ^^^ y) z

/-- A message block as one number of 512 bits, its first byte highest. -/
def shaPack (l : List Byte) : BitVec 512 := BitVec.ofNat 512 (l.foldl (fun n b => 256 * n + b.toNat) 0)

/-- The schedule as a window of 16 words, the oldest highest: the window one round on. -/
def shaNext (m : BitVec 512) : BitVec 512 :=
  let at' (i : Nat) : W32 := m.extractLsb' (32 * (15 - i)) 32
  let old := shaMix (at' 1) (at' 1 >>> 3) [7, 18]
  let late := shaMix (at' 14) (at' 14 >>> 10) [17, 19]
  (m <<< 32) ||| (old + late + at' 0 + at' 9).setWidth 512

/-- A state one round on, with the round's constant and schedule word `kw` already added: every word moves one place, the first takes the
sum of both halves of the round, and the fifth gains the half that depends on the last four. -/
def shaTurn (v : BitVec 256) (kw : W32) : BitVec 256 :=
  let p (i : Nat) : W32 := shaWord v i
  let low := kw + p 7 + shaMix (p 4) 0 [25, 11, 6] + (p 6 ^^^ (p 4 &&& (p 5 ^^^ p 6)))
  let high := shaMix (p 0) 0 [22, 13, 2] + ((p 1 &&& p 2) ||| (p 0 &&& (p 1 ||| p 2)))
  let moved := v >>> 32
  let keep : BitVec 256 := moved &&& 0xFFFFFFFFFFFFFFFFFFFFFFFF00000000FFFFFFFFFFFFFFFFFFFFFFFF#256
  keep ||| ((low + high).setWidth 256 <<< 224) ||| ((p 3 + low).setWidth 256 <<< 96)

/-- `n` rounds up to the last, over the rest of a schedule. -/
def shaTurns : Nat → BitVec 256 → BitVec 512 → BitVec 256
  | 0, v, _ => v
  | n + 1, v, m => shaTurns n (shaTurn v (shaConst (63 - n) + m.extractLsb' 480 32)) (shaNext m)

/-- Word by word sum of two states. -/
def shaAdd (g h : BitVec 256) : BitVec 256 :=
  (List.range 8).foldl (fun (v : BitVec 256) i => (v <<< 32) ||| (shaWord g i + shaWord h i).setWidth 256) 0

/-- Absorb one 64-byte block. -/
def shaBlock (h : BitVec 256) (l : List Byte) : BitVec 256 := shaAdd h (shaTurns 64 h (shaPack (l.take 64)))

/-- Absorb `n` whole blocks. -/
def shaBlocks : Nat → BitVec 256 → List Byte → BitVec 256
  | 0, h, _ => h
  | n + 1, h, l => shaBlocks n (shaBlock h (l.take 64)) (l.drop 64)

/-- Absorb the bytes of a piece that is not the last: a multiple of 64 bytes. -/
def shaPiece (h : BitVec 256) (l : List Byte) : BitVec 256 := shaBlocks (l.length / 64) h l

/-- The padding after a message of `n` bytes. -/
def shaPad (n : Nat) : List Byte :=
  (0x80 :: List.replicate ((119 - n % 64) % 64) 0) ++
    (List.range 8).map fun i => BitVec.ofNat 8 (8 * n / 256 ^ (7 - i))

/-- Finish with the last bytes of a message of `n` bytes. -/
def shaFinish (h : BitVec 256) (l : List Byte) (n : Nat) : BitVec 256 :=
  let m := l ++ shaPad n
  shaBlocks (m.length / 64) h m

/-- SHA-256 of a list of bytes. -/
def sha256 (l : List Byte) : BitVec 256 := shaFinish shaInit l l.length

/-- Bytes 0 to 7 of a digest, little-endian (R144). -/
def fingerprint (h : BitVec 256) : Word :=
  BitVec.ofNat 64 ((List.range 8).foldr (fun i v => (h.toNat / 256 ^ (31 - i)) % 256 + 256 * v) 0)

end Sys2Proof.Machine
end

