-- ==== Sys2Proof/Machine/CopyInstr.lean ====
section
/-! DEFINITION. Bulk copy and compare at their issue (R143, R144). The pieces are in Machine/AccessEvents.lean. -/

namespace Sys2Proof.Machine

open Sys2Proof

/-- Fields of F of MCPY and MCMP (R143). -/
def cpCls (f : Nat) : Nat := bits f 11 8
def cpScope (f : Nat) : Nat := bits f 7 6

/-- The copy queue that an agent's commands go to (R143). -/
def State.copyQueue (s : State) : Agent → List CopyCmd
  | .strand c _ _ => (s.cell c).copyq
  | .cond n => (s.condOf n).copyq

/-- Append to an agent's copy queue. -/
def addCopy (q : CopyCmd) (s : State) : State :=
  match q.agent with
  | .strand c _ _ => s.updCell c fun x => { x with copyq := x.copyq ++ [q] }
  | .cond n => s.updCond n fun x => { x with copyq := x.copyq ++ [q] }

/-- Replace the commands of an agent's copy queue. -/
def mapCopy (a : Agent) (f : List CopyCmd → List CopyCmd) (s : State) : State :=
  match a with
  | .strand c _ _ => s.updCell c fun x => { x with copyq := f x.copyq }
  | .cond n => s.updCond n fun x => { x with copyq := f x.copyq }

/-- Whether the agent's copy queue has room (R143). -/
def copyRoom (s : State) (a : Agent) : Bool := decide ((s.copyQueue a).length < 16)

/-- Write an asynchronous-class result in this clk. -/
def putAsync (d : Dst) (v : Word) (seq : Nat) (s : State) : State :=
  match d with
  | .s c k x off => s.updCell c fun cl =>
      { cl with wr := cl.wr ++ [{ seq := seq, slot := k, k := x, engine := true, interlock := false, slate := false
                                  due := s.clk, off := off, len := 8, mask := 1, val := v.toNat }] }
  | .cond n r => s.updCond n fun y => { y with wr := y.wr ++ [(seq, r, v, s.clk)] }
  | _ => s

/-- A copy-engine instruction (R143): refused, held back by a full queue, done at once for n = 0, or appended. Ranges that pass 2⁶⁴ are
compared without wrapping. DESIGN CHOICE, log entry 60. -/
def copyInstr (kind : CopyKind) (d a b c f : Nat) (s : State) : Out :=
  let ag := s.cur.agent
  let n := (s.rs c).toNat
  let va := s.rs a
  let vb := s.rs b
  if !copyRoom s ag then .next s
  else if 2 ^ 40 ≤ n then .next (illegal 7 s)
  else if (kind == .copy || kind == .copyFp) && overlap va.toNat n vb.toNat n then .next (illegal 7 s)
  else
    let dst := match kind with | .copy => .none | _ => dstS s ag d
    if n = 0 then
      let v : Word := match kind with | .cmp => 0 | _ => fingerprint (sha256 [])
      .next (retireAccess (putAsync dst v s.cur.seq s))
    else
      .next (retireAccess (addCopy
        { id := s.cur.seq, agent := ag, ctx := s.ctxNum ag, kind := kind, cls := cpCls f
          scope := scopeOf ag (cpScope f), a := va, b := vb, n := n, dst := dst, fpc := s.cur.pc
          word := s.cur.word, sha := shaInit } s))

def execMcpy (x : FmtA) (s : State) : Out := copyInstr .copy x.d x.a x.b x.c x.f s
def execMcpyFp (x : FmtA) (s : State) : Out := copyInstr .copyFp x.d x.a x.b x.c x.f s
def execMcpyHash (x : FmtA) (s : State) : Out := copyInstr .hash x.d x.a x.b x.c x.f s
def execMcmp (x : FmtA) (s : State) : Out := copyInstr .cmp x.d x.a x.b x.c x.f s

end Sys2Proof.Machine
end

