-- ==== Sys2Proof/Machine/Lens.lean ====
section
/-! DEFINITION. Tiles and the Lens: tensor descriptors (R170, R171), where the bytes of a tile lie in memory (R172), tile
references (R174), entries and their granules (R229 to R234), allocation and replacement (R235, R236), and writes into
entries (R177, R195). -/

namespace Sys2Proof.Machine

open Sys2Proof

/-! ## Descriptors (R170, R171) -/

/-- A tensor descriptor, read little-endian. -/
abbrev Desc := BitVec 512

def Desc.f (d : Desc) (hi lo : Nat) : Nat := bits d.toNat hi lo
def Desc.base (d : Desc) : Word := toW (sext (d.f 56 0) 57)
def Desc.tid (d : Desc) : Nat := d.f 79 64
def Desc.etype (d : Desc) : Nat := d.f 83 80
def Desc.tsize (d : Desc) : Nat := d.f 86 84
def Desc.layout (d : Desc) : Nat := d.f 88 87
def Desc.smode (d : Desc) : Nat := d.f 90 89
def Desc.skdir (d : Desc) : Nat := d.f 91 91
def Desc.vscope (d : Desc) : Nat := d.f 93 92
def Desc.wbk (d : Desc) : Bool := bit d.toNat 94
def Desc.sq (d : Desc) : Bool := bit d.toNat 95
def Desc.texp (d : Desc) : Int := sext (d.f 103 96) 8
def Desc.tr (d : Desc) : Nat := d.f 143 128
def Desc.tc (d : Desc) : Nat := d.f 159 144
def Desc.e2 (d : Desc) : Nat := d.f 175 160
def Desc.e3 (d : Desc) : Nat := d.f 191 176
def Desc.er (d : Desc) : Nat := d.f 223 192
def Desc.ec (d : Desc) : Nat := d.f 255 224
def Desc.rstr (d : Desc) : Nat := d.f 303 256
def Desc.str2 (d : Desc) : Nat := d.f 383 320
def Desc.str3 (d : Desc) : Nat := d.f 447 384
def Desc.sbase (d : Desc) : Word := toW (sext (d.f 504 448) 57)
/-- Element format, its width in bits, bytes of a tile row and of a tile. -/
def Desc.ety (d : Desc) : ETy := ETy.ofCode d.etype
def Desc.width (d : Desc) : Nat := d.ety.width
def Desc.rowBytes (d : Desc) : Nat := d.tc * d.width / 8
def Desc.tileBytes (d : Desc) : Nat := 4096 * 2 ^ d.tsize
/-- Elements of a scale block (R59). -/
def Desc.block (d : Desc) : Nat := if d.smode = 1 then 32 else 16
/-- Bytes of the scale tile; 0 without scales. -/
def Desc.scaleBytes (d : Desc) : Nat := if d.smode = 0 then 0 else d.tr * d.tc / d.block
/-- Frames of an entry: data and scale tile together (R229). -/
def Desc.frames (d : Desc) : Nat := d.tileBytes / 4096 + ceilDiv d.scaleBytes 4096
/-- Tiles along rows and columns (R172). -/
def Desc.nt0 (d : Desc) : Nat := ceilDiv d.er d.tr
def Desc.nt1 (d : Desc) : Nat := ceilDiv d.ec d.tc

/-- Whether a scale mode is permitted for an element format (R59). -/
def scaleAllowed (smode etype : Nat) : Bool :=
  smode == 0 || (smode == 1 && 3 ≤ etype && etype ≤ 6) || (smode == 2 && (etype == 3 || etype == 5 || etype == 6))

/-- The descriptor is valid (R171). -/
def Desc.valid (d : Desc) : Bool :=
  d.f 511 505 == 0 && d.f 319 304 == 0 && d.f 127 104 == 0 && d.f 63 57 == 0
    && d.etype ≤ 13 && d.tsize ≤ 4 && d.smode != 3
    && (d.smode != 0 || d.f 504 448 == 0)
    && (d.layout ≤ 1 || d.rstr == 0)
    && 1 ≤ d.er && 1 ≤ d.ec && 1 ≤ d.e2 && 1 ≤ d.e3
    && d.f 3 0 == 0 && d.f 451 448 == 0
    && d.tc * d.width % 8 == 0 && d.rowBytes % 16 == 0 && d.tr * d.rowBytes == d.tileBytes
    && (d.layout != 1 || d.tr * d.width % 8 == 0)
    && (d.layout != 3 || d.rowBytes % 128 == 0)
    && scaleAllowed d.smode d.etype
    && (d.smode == 0 || (if d.skdir = 0 then d.tc else d.tr) % d.block == 0)

/-- The first of the commands that satisfy `p`, in the order in which a replay queue hands them on (R44, R239): by the clk of their issue,
then by slot and strand, then by number. -/
def firstOp (p : LensOp → Bool) (l : List LensOp) : Option LensOp :=
  let before (a b : LensOp) : Bool :=
    if a.issued ≠ b.issued then decide (a.issued < b.issued)
    else if a.slot ≠ b.slot then decide (a.slot < b.slot)
    else if a.k ≠ b.k then decide (kindNo a.k < kindNo b.k)
    else decide (a.seq < b.seq)
  l.foldl (fun m o => if p o then (match m with | some b => if before o b then some o else m | none => some o) else m) none

/-! ## Where a tile lies in memory (R172, R57) -/

/-- The plane address of coordinates (R172). -/
def planeOf (d : Desc) (co : Word) : Word :=
  d.base + BitVec.ofNat 64 (fld co 3 * d.str3 + fld co 2 * d.str2)

/-- The address of byte `b` of row `r` of a tile that does not lie by columns (R172). -/
def rowByte (d : Desc) (co : Word) (r b : Nat) : Word :=
  let rb := d.rowBytes
  let tile := (fld co 0 * d.nt1 + fld co 1) * d.tileBytes
  let off :=
    if d.layout = 0 then (fld co 0 * d.tr + r) * d.rstr + fld co 1 * rb + b
    else if d.layout = 2 then tile + r * rb + b
    else tile + r * rb + (b / 128 * 8 + ((b / 16 % 8) ^^^ (r % 8))) * 16 + b % 16
  planeOf d co + BitVec.ofNat 64 off

/-- The pieces of the byte at tile offset `o`: (bit of the byte, address, bit there, how many bits). Bits of elements
outside the tensor have none. -/
def tilePieces (d : Desc) (co : Word) (o : Nat) : List (Nat × Word × Nat × Nat) :=
  let rb := d.rowBytes
  let r := o / rb
  let b := o % rb
  let row := fld co 0 * d.tr + r
  let col := fld co 1 * d.tc
  let p := planeOf d co
  let e := d.width
  if d.er ≤ row then []
  else if d.layout = 1 then
    if 8 ≤ e then
      let c := col + 8 * b / e
      if d.ec ≤ c then []
      else [(0, p + BitVec.ofNat 64 (c * d.rstr + row * e / 8 + b % (e / 8)), 0, 8)]
    else
      (List.range 8).filterMap fun i =>
        let q := 8 * b + i
        let c := col + q / e
        let m := row * e + q % e
        if d.ec ≤ c then none else some (i, p + BitVec.ofNat 64 (c * d.rstr + m / 8), m % 8, 1)
  else
    let n := min 8 (min d.tc (d.ec - col) * e - 8 * b)
    if n = 0 then [] else [(0, rowByte d co r b, 0, n)]

/-- The address of scale byte `q` of a tile; none for a block wholly outside the tensor. -/
def scalePiece (d : Desc) (co : Word) (q : Nat) : Option Word :=
  let per := (if d.skdir = 0 then d.tc else d.tr) / d.block
  let row := q / per
  let k := q % per * d.block
  let t0 := fld co 0
  let t1 := fld co 1
  let out :=
    if d.skdir = 0 then decide (d.er ≤ t0 * d.tr + row) || decide (d.ec ≤ t1 * d.tc + k)
    else decide (d.ec ≤ t1 * d.tc + row) || decide (d.er ≤ t0 * d.tr + k)
  if out then none
  else some (d.sbase + BitVec.ofNat 64 ((((fld co 3 * d.e2 + fld co 2) * d.nt0 + t0) * d.nt1 + t1) * d.scaleBytes + q))

/-- Scale granules are numbered from here. -/
def scaleG : Nat := 4096

/-- The granules of an entry: those of the tile, then those of its scale tile. -/
def granulesOf (d : Desc) : List Nat :=
  List.range (d.tileBytes / 16) ++ (List.range (d.scaleBytes / 16)).map (scaleG + ·)

/-- The memory bytes of a granule: (byte of the granule, bit, address, bit there, bits). -/
def granulePieces (d : Desc) (co : Word) (g : Nat) : List (Nat × Nat × Word × Nat × Nat) :=
  (List.range 16).flatMap fun i =>
    if g < scaleG then (tilePieces d co (16 * g + i)).map fun (s, va, m, n) => (i, s, va, m, n)
    else match scalePiece d co (16 * (g - scaleG) + i) with
      | some va => [(i, 0, va, 0, 8)]
      | none => []

/-- Bits that an array of `n` bits of elements `e` wide takes with those of its last byte, or of its last 3-byte group, that lie beyond
its last element (R57, R58). -/
def padded (e n : Nat) : Nat := let u := if e = 6 then 24 else 8; (n + u - 1) / u * u

/-- The bits beyond the last element of the arrays that a tile holds the end of (R58): (address, bit, bits). The tensor's last element in
a tile's row or column is taken as the last of its array. DESIGN CHOICE, log entry 61. -/
def padPieces (d : Desc) (co : Word) : List (Word × Nat × Nat) :=
  let e := d.width
  let p := planeOf d co
  let split (at' : Nat → Word) (lo hi : Nat) : List (Word × Nat × Nat) :=
    (List.range ((hi + 7) / 8 - lo / 8)).map fun i =>
      let b := lo / 8 + i
      if i = 0 then (at' b, lo % 8, 8 - lo % 8) else (at' b, 0, 8)
  if 8 ≤ e then []
  else if d.layout = 1 then
    let last := d.er * e
    let mine := decide (fld co 0 * d.tr < d.er) && decide (d.er ≤ (fld co 0 + 1) * d.tr) && padded e last != last
    if mine then (List.range (min d.tc (d.ec - fld co 1 * d.tc))).flatMap fun c =>
      split (fun b => p + BitVec.ofNat 64 ((fld co 1 * d.tc + c) * d.rstr + b)) last (padded e last)
    else []
  else
    let n := min d.tc (d.ec - fld co 1 * d.tc) * e
    if padded e n = n then []
    else (List.range (min d.tr (d.er - fld co 0 * d.tr))).flatMap fun r => split (rowByte d co r) n (padded e n)

/-- The address of element (0, 0) of a tile: its home (R240). -/
def tileHome (d : Desc) (co : Word) : Word :=
  match tilePieces d co 0 with
  | (_, va, _, _) :: _ => va
  | [] => d.base

/-! ## Tile references (R174) -/

/-- k register `n` of a strand as it stands after the swap of its instruction (R42). -/
def Strand.kAfter (y : Strand) (sw n : Nat) : Word := Tab.get 0 n (if sw = 1 then y.ks else y.k)

/-- The sum of two coordinate words, field by field (R174). -/
def addCo (a b : Word) : Word := ofFlds fun i => (fld a i + fld b i) % 2 ^ 16

/-- Coordinates lie inside the tensor (R174). -/
def coordOk (d : Desc) (co : Word) : Bool :=
  fld co 0 < d.nt0 && fld co 1 < d.nt1 && fld co 2 < d.e2 && fld co 3 < d.e3

/-- The descriptor and effective coordinates of handle `h` and coordinate register `co` with offset `off`; or the fault. -/
def tileAt (h co : Nat) (off : Word) (s : State) : Except State (Desc × Word) :=
  match s.cur.agent with
  | .cond _ => .error s
  | .strand c k _ =>
    let sl := s.slot c k
    match Tab.find h sl.h with
    | none => .error (raise fTileDescriptor 0 0 0 0 s)
    | some d =>
      let x := addCo (sl.creg co) off
      if coordOk d x then .ok (d, x) else .error (raise fTileRange 0 0 0 0 s)

/-- The tile reference of a format T instruction: offset by kK, read after the swap, on A, X and W (R174). -/
def tileRef (x : FmtT) (s : State) : Except State (Desc × Word) :=
  let off : Word := match s.cur.agent with
    | .strand c k st => if st = .S then 0 else (s.strand c k st).kAfter x.sw x.k
    | .cond _ => 0
  tileAt x.h x.co off s

/-- Make the swap of an instruction of the issuing strand (R42). -/
def swapIf (sw : Nat) (s : State) : State :=
  match s.cur.agent with
  | .strand c k x => if sw = 1 then s.updStrand c k x fun y => y.swapK s.clk else s
  | .cond _ => s

/-! ## Entries and granules (R229 to R234) -/

/-- The set of an entry (R231). -/
def lensSet (key : Nat) (tid coord sp : Nat) : Nat :=
  let w := tid + sp * 2 ^ 16
  let z := ((coord ^^^ key) * 0xFF51AFD7ED558CCD) % 2 ^ 64
  let z := z ^^^ (z / 2 ^ 29)
  let z := ((z + w * 0x9E3779B97F4A7C15) * 0xC4CEB9FE1A85EC53) % 2 ^ 64
  z / 2 ^ 56 % 256

/-- The current entry of a tile in a cell (R176). -/
def Cell.current (x : Cell) (t : TileKey) : Option Entry :=
  x.lens.find? fun e => e.cur && e.ctx == t.ctx && e.tid == t.tid && e.coord == t.coord
/-- An entry by its number. -/
def Cell.entry (x : Cell) (eid : Nat) : Option Entry := x.lens.find? fun e => e.id == eid
/-- Change an entry. -/
def updEntry (c eid : Nat) (f : Entry → Entry) (s : State) : State :=
  s.updCell c fun x => { x with lens := updFirst (fun e => e.id == eid) f x.lens }

/-- The descriptor of an entry's tile. -/
def Entry.d (e : Entry) : Desc := e.desc

/-- Every granule is full. -/
def Entry.allFull (e : Entry) : Bool :=
  e.full == 2 ^ (e.d.tileBytes / 16) - 1 && e.sfull == 2 ^ (e.d.scaleBytes / 16) - 1
/-- Granule `g` is full. -/
def Entry.isFull (e : Entry) (g : Nat) : Bool := if g < scaleG then bit e.full g else bit e.sfull (g - scaleG)
/-- All granules of an entry as a mask, scale granules from bit 4,096. -/
def Entry.allMask (e : Entry) : Nat := 2 ^ (e.d.tileBytes / 16) - 1 + 2 ^ scaleG * (2 ^ (e.d.scaleBytes / 16) - 1)
/-- A granule that the fill in progress has landed (R180, R232). -/
def Entry.hasLanded (e : Entry) (g : Nat) : Bool := bit e.landed g
/-- Set granule `g` full. -/
def Entry.setFull (e : Entry) (g : Nat) : Entry :=
  if g < scaleG then { e with full := e.full ||| 2 ^ g } else { e with sfull := e.sfull ||| 2 ^ (g - scaleG) }
/-- The 16 bytes of granule `g`. -/
def Entry.granule (e : Entry) (g : Nat) : Nat :=
  if g < scaleG then Memory.readN e.data (16 * g) 16 else Memory.readN e.scale (16 * (g - scaleG)) 16
/-- Write `n` bytes at a tile offset, or at a scale offset from `scaleG` × 16. -/
def Entry.put (e : Entry) (o n v : Nat) : Entry :=
  if o < 16 * scaleG then { e with data := Memory.writeN e.data o n v }
  else { e with scale := Memory.writeN e.scale (o - 16 * scaleG) n v }

/-- Whether a row operation still binds an entry. -/
def RowOp.binds (o : RowOp) (eid : Nat) : Bool :=
  match o.kind with
  | .mma m _ => !o.consumed && (m.eidA == eid || m.eidB == eid)
  | .adrn _ e _ _ _ _ _ => e == eid
  | _ => false

/-- An entry is bound: an instruction that bound it has not performed or consumed its operands (R232). -/
def Cell.bound (x : Cell) (eid : Nat) : Bool :=
  x.ops.any (fun o => o.cmd.binds.contains eid) || x.rows.any (fun o => o.binds eid) || x.lensWr.any (fun w => w.eid == eid)
/-- An entry stands on a task's pin list (R189). -/
def Cell.pinned (x : Cell) (eid : Nat) : Bool := x.slots.any fun (_, y) => y.pins.any fun (_, e) => e == eid

/-- The entry is locally produced and unpublished (R186, R193). One that is DRAINING counts as published: its version is on its way, and
a command that needs an unpublished entry takes TILE_STATE. DEDUCED, log entry 55. -/
def Entry.open (e : Entry) : Bool := e.produced && !e.published && e.st != .draining

/-- An entry that a fill, an operand miss or a TPREF may bind (R233). -/
def Entry.bindable (e : Entry) : Bool := e.st != .clean || (e.allFull && !e.frameless)

/-- An entry holds frames in this state. -/
def LensState.framed : LensState → Bool
  | .waiting => false | .spilled => false | _ => true
/-- The entry's bytes are in the Lens: it holds frames. -/
def Entry.here (e : Entry) : Bool := e.st.framed && !e.frameless
/-- The entry's bytes are in memory, by a spill: SPILLED, or published since (R237). -/
def Entry.away (e : Entry) : Bool := e.st == .spilled || e.frameless
/-- Frames that an entry holds. -/
def Entry.framesHeld (e : Entry) : Nat := if e.here then e.d.frames else 0
/-- A fill of the entry that any instruction waits for has been made (R179): every granule is full, by its own fill or as it was. -/
def Entry.fillDone (e : Entry) : Bool :=
  match e.st with
  | .waiting => false
  | .filling => false
  | .producing => e.allFull
  | _ => true
/-- Free frames of a cell (R229). -/
def Cell.freeFrames (x : Cell) : Nat :=
  4096 - x.lens.foldl (fun n e => n + e.framesHeld) 0

/-- Entries of the replay queue that are held (R177, R239): an instruction holds one while a command of it is parked. R46 asks an MMA, a
MMAS and a TFILLM for one free entry, whatever fills of their operands R176 parks with them. DEDUCED, log entry 53. -/
def Cell.parked (x : Cell) : Nat := ((x.ops.filter fun o => o.st == .parked).map (·.inst)).eraseDups.length

/-! ## Allocation and replacement (R235, R236) -/

/-- The entry whose data or scale tag stands at a tag place. The way of an entry that has been spilled is used again (R235); its tag
stays aside, in no way, until its bytes are brought back (R237). DESIGN CHOICE, log entry 56. -/
def Cell.occupant (x : Cell) (tag : Nat) : Option Entry :=
  x.lens.find? fun e => e.here && (e.way == tag || e.sway == some tag)

/-- An entry is pinned, or implicitly pinned (R235, R238): a PRODUCING entry of a tensor that is not written back, a DRAINING or a SPILLED
one. -/
def Cell.pinnedFast (x : Cell) (e : Entry) : Bool :=
  x.pinned e.id || (e.st == .producing && !e.d.wbk) || e.st == .draining || e.st == .spilled

/-- An occupied way is eligible for replacement (R235). -/
def Cell.eligible (x : Cell) (e : Entry) : Bool :=
  !x.pinned e.id && !x.bound e.id && (e.st == .clean || (e.st == .producing && e.d.wbk && e.allFull))

/-- The least recently used entry. -/
def minLru : List Entry → Option Entry
  | [] => none
  | e :: t => match minLru t with
    | none => some e
    | some f => some (if e.lru ≤ f.lru then e else f)

/-- What the choice of a way comes to (R235). -/
inductive Pick where
  | free (tag : Nat)
  | evict (tag eid : Nat) (spill : Bool)
  | none
deriving DecidableEq, Repr

/-- Pick a way of a set, the victims of this allocation and one tag already taken left out. -/
def Cell.pick (x : Cell) (vic : List Nat) (set : Nat) (taken : Option Nat) : Pick :=
  let tags := ((List.range 16).map (16 * set + ·)).filter fun t => taken != some t
  let occ (t : Nat) : Option Entry := (x.occupant t).filter fun e => !vic.contains e.id
  match tags.find? fun t => (occ t).isNone with
  | some t => .free t
  | none =>
    let cand := (tags.filterMap occ).filter x.eligible
    let chosen := match minLru (cand.filter fun e => !e.cur && e.st == .clean) with
      | some e => some e
      | none => match minLru (cand.filter (·.lastUse)) with
        | some e => some e
        | none => minLru cand
    match chosen with
    | none => .none
    | some e => match tags.find? fun t => (occ t).any fun f => f.id == e.id with
      | some t => .evict t e.id (e.st == .producing)
      | none => .none

/-- What an allocation comes to: tag places and victims; no way in a set; an entry to spill first; too few frames. -/
inductive AllocRes where
  | ok (way : Nat) (sway : Option Nat) (vic : List Nat)
  | noWay (set : Nat)
  | spill (eid : Nat)
  | noFrames (set : Nat)
deriving DecidableEq, Repr

/-- Try an allocation of a tile (R234, R235). -/
def allocTry (s : State) (c : Nat) (t : TileKey) (d : Desc) : AllocRes :=
  let x := s.cell c
  let key := (s.ctxOf t.ctx).lhkey.toNat
  let set := lensSet key t.tid t.coord.toNat 0
  let frames (vic : List Nat) (way : Nat) (sway : Option Nat) : AllocRes :=
    let back := x.lens.foldl (fun n e => if vic.contains e.id then n + e.framesHeld else n) 0
    if d.frames ≤ x.freeFrames + back then .ok way sway vic else .noFrames set
  let second (vic : List Nat) (way : Nat) : AllocRes :=
    if d.smode = 0 then frames vic way none
    else
      let set2 := lensSet key t.tid t.coord.toNat 1
      match x.pick vic set2 (some way) with
      | .free t2 => frames vic way (some t2)
      | .evict t2 e false => frames (e :: vic) way (some t2)
      | .evict _ e true => .spill e
      | .none => .noWay set2
  match x.pick [] set none with
  | .free t1 => second [] t1
  | .evict t1 e false => second [e] t1
  | .evict _ e true => .spill e
  | .none => .noWay set

/-- Remove an entry from a Lens: its frames, its places on pin lists and as a holder (R245); a fill of it that the home served ends (R242). -/
def dropEntry (c eid : Nat) (s : State) : State :=
  let s := s.updCell c fun x =>
    { x with
      lens := x.lens.filter fun e => e.id != eid
      slots := x.slots.map fun (k, y) => (k, { y with pins := y.pins.filter fun (_, e) => e != eid })
      scanLeft := 4096 }
  { s with
    dirs := s.dirs.map fun v => { v with holders := v.holders.filter fun h => !(h.cell == c && h.eid == eid) }
    fillReads := s.fillReads.filter fun r => !(r.cell == c && r.eid == eid) }

/-- Give an entry its places, those of the victims among them. -/
def seatEntry (c eid way : Nat) (sway : Option Nat) (vic : List Nat) (s : State) : State :=
  updEntry c eid (fun e => { e with way := way, sway := sway }) (vic.foldl (fun t v => dropEntry c v t) s)

/-- Give an allocated entry its places and its first state. -/
def placeEntry (c eid way : Nat) (sway : Option Nat) (vic : List Nat) (produce : Bool) (s : State) : State :=
  updEntry c eid (fun e =>
    { e with st := if produce then .producing else .filling, src := if produce then .notFill else .waiting }) (seatEntry c eid way sway vic s)

/-- Put a new entry in a Lens as its tile's current entry (R176, R185). -/
def addEntry (c k eid : Nat) (t : TileKey) (d : Desc) (produce : Bool) (want : Option Nat) (ver : Nat) (s : State) : State :=
  let sl := s.slot c k
  s.updCell c fun x =>
    { x with lens := (x.lens.map fun e =>
        if e.cur && e.ctx == t.ctx && e.tid == t.tid && e.coord == t.coord then { e with cur := false } else e) ++
        [{ id := eid, ctx := t.ctx, tid := t.tid, coord := t.coord, desc := d, ver := ver, resolved := produce
           want := want, st := .waiting, produced := produce, lru := s.cur.seq, slot := k, pos := sl.pos
           launch := sl.launch }] }

/-- Allocate an entry for the current instruction of slot `k`: at once where a way and frames are there, otherwise parked
in the replay queue (R177, R179, R185). -/
def allocate (c k : Nat) (st : Kind) (seq eid : Nat) (t : TileKey) (d : Desc) (produce : Bool) (want : Option Nat)
    (ver : Nat) (s : State) : State :=
  let s1 := addEntry c k eid t d produce want ver s
  match allocTry s c t d with
  | .ok way sway vic => placeEntry c eid way sway vic produce s1
  | _ => s1.updCell c fun x =>
      { x with
        ops := x.ops ++ [{ seq := seq, slot := k, k := st, fpc := s.cur.pc, word := s.cur.word, lit := s.cur.lit
                           cmd := .alloc eid t d produce want ver 0, st := .parked, issued := s.clk, inst := s.cur.seq }] }

/-! ## Hints and pins (R189, R235) -/

/-- Whether a pin of an entry finds no room on the task's list. -/
def pinFull (sl : Slot) (hint : Nat) (eid : Option Nat) : Bool :=
  hint == 1 && decide (16 ≤ sl.pins.length) && !(match eid with
    | some e => sl.pins.any fun (_, p) => p == e
    | none => false)

/-- The lowest free place of a pin list. -/
def pinPlace (p : Tab Nat) : Nat := ((List.range 16).find? fun i => (Tab.find i p).isNone).getD 0

/-- The place in the order of recency of the entry used least recently. -/
def Cell.oldest (x : Cell) : Int := x.lens.foldl (fun m e => min m e.lru) 0

/-- Apply a HINT to an entry for a task (R189). -/
def applyHint (c k eid hint : Nat) (s : State) : State :=
  match (if 8 ≤ k ∧ hint ≤ 2 then 0 else hint) with
  | 1 => updEntry c eid (fun e => { e with lastUse := false }) (s.updSlot c k fun y =>
      if y.pins.any fun (_, e) => e == eid then y else { y with pins := Tab.set (pinPlace y.pins) eid y.pins })
  | 2 => updEntry c eid (fun e => { e with lastUse := false }) (s.updSlot c k fun y =>
      { y with pins := y.pins.filter fun (_, e) => e != eid })
  | 3 => updEntry c eid (fun e => { e with lastUse := true }) s
  | 4 => updEntry c eid (fun e => { e with lastUse := false, lru := (s.cell c).oldest - 1 }) s
  | _ => s

/-- Note that an instruction binds an entry (R235). -/
def touch (c eid : Nat) (s : State) : State := updEntry c eid (fun e => { e with lru := s.cur.seq }) s

/-! ## Versions at the home (R240) -/

/-- The version record of a tile; 0 versions and the own package as source where there is none. -/
def verRec (s : State) (t : TileKey) : VerRec :=
  ((s.ctxOf t.ctx).vers.find? fun v => v.tile == t).getD { tile := t, stack := 0, src := s.selfIdx }

/-- Change the version record of a tile, making one for it. -/
def updVer (t : TileKey) (stack : Nat) (f : VerRec → VerRec) (s : State) : State :=
  s.updCtx t.ctx fun x =>
    if x.vers.any fun v => v.tile == t then { x with vers := updFirst (fun v => v.tile == t) f x.vers }
    else { x with vers := x.vers ++ [f { tile := t, stack := stack, src := s.selfIdx }] }

/-- A version meets a request (R175): at least n, or exactly the latest published. -/
def verMeets (want : Option Nat) (pub v : Nat) : Bool :=
  match want with
  | some n => verGe v n
  | none => v == pub

/-- A current entry meets a fill's request (R179). While its own fill has not resolved it has no version yet: it meets a request that its
own request covers, the latest for the latest, a minimum for one no higher. DEDUCED, log entry 54. -/
def Entry.meets (e : Entry) (want : Option Nat) (pub : Nat) : Bool :=
  if e.resolved then verMeets want pub e.ver
  else match want, e.want with
    | none, none => true
    | some n, some m => verGe m n
    | _, _ => false

/-! ## Writes into entries (R177, R195) -/

/-- The clks D that the array spends on the reduction of an operation (R197). -/
def mmaD (types klen : Nat) : Nat :=
  klen / (if types ≤ 1 then 1 else if types = 7 ∨ types = 9 then 4 else 2)

/-- Whether a matrix operation holds a write to granule `g` of an entry in clk `t`: the granule was full at its issue, and
clk t is not after its operands-consumed point (R195). -/
def granuleHeld (x : Cell) (eid g t : Nat) : Bool :=
  let has (m : MmaOp) : Bool := (m.eidA == eid && bit m.fullA g) || (m.eidB == eid && bit m.fullB g)
  x.ops.any (fun o => match o.cmd with | .mma m => has m | _ => false)
    || x.rows.any fun o => match o.kind with
      | .mma m _ => decide (t ≤ o.start + mmaD m.types m.klen) && has m
      | _ => false

/-- What first fills a granule that was empty when a waiting matrix operation issued is what the array reads (R195). -/
def snapGranule (x : Cell) (eid g v : Nat) : Cell :=
  { x with ops := x.ops.map fun o => match o.cmd with
      | .mma m =>
        let m := if m.eidA == eid && !bit m.fullA g && (Tab.find g m.snapA).isNone then { m with snapA := Tab.set g v m.snapA } else m
        let m := if m.eidB == eid && !bit m.fullB g && (Tab.find g m.snapB).isNone then { m with snapB := Tab.set g v m.snapB } else m
        { o with cmd := .mma m }
      | _ => o }

/-- The granules of an entry are empty and its fill starts again, for version `want` or a later one: a waiting matrix operation reads what
that fill brings (R195). -/
def Cell.refill (x : Cell) (eid : Nat) (want : Option Nat) : Cell :=
  { x with
    lens := updFirst (fun e => e.id == eid) (fun e =>
      { e with st := .filling, src := .waiting, resolved := false, want := want, full := 0, sfull := 0, landed := 0, frameless := false }) x.lens
    ops := x.ops.map fun o => match o.cmd with
      | .mma m =>
        let m := if m.eidA = eid then { m with fullA := 0, snapA := [] } else m
        { o with cmd := .mma (if m.eidB = eid then { m with fullB := 0, snapB := [] } else m) }
      | _ => o }

/-- A granule that lands in a FILLING entry is one that its fill brings (R180, R232). -/
def Entry.noteLanded (e : Entry) (g : Nat) : Entry := if e.st == .filling then { e with landed := e.landed ||| 2 ^ g } else e

/-- Land bytes in granule `g` of an entry and set it full. -/
def landGranule (c eid g : Nat) (parts : List (Nat × Nat × Nat)) (s : State) : State :=
  let s := updEntry c eid (fun e => ((parts.foldl (fun e (o, n, v) => e.put o n v) e).setFull g).noteLanded g) s
  match (s.cell c).entry eid with
  | some e => s.updCell c fun x => snapGranule x eid g (e.granule g)
  | none => s

end Sys2Proof.Machine
end

