-- ==== Sys2Proof/Machine/TileInstr.lean ====
section
/-! DEFINITION. The tile instructions at their issue (R173, R178 to R194), except TFILLM, which stands with the matrix
instructions. What the Lens does with them afterwards is in Machine/LensEvents.lean. -/

namespace Sys2Proof.Machine

open Sys2Proof

/-- The tile of a descriptor and coordinates for a slot's context. -/
def tileKeyOf (sl : Slot) (d : Desc) (co : Word) : TileKey := ⟨sl.ctx, d.tid, co⟩

/-- A command of the current instruction. -/
def newOp (s : State) (k : Nat) (st : Kind) (cmd : LensCmd) (cs : CmdSt) : LensOp :=
  { seq := s.cur.seq, slot := k, k := st, fpc := s.cur.pc, word := s.cur.word, lit := s.cur.lit, cmd := cmd, st := cs
    issued := s.clk, inst := s.cur.seq, repst := s.repst s.cur.agent }

/-- Add a command to a cell. -/
def addOp (c : Nat) (o : LensOp) (s : State) : State := s.updCell c fun x => { x with ops := x.ops ++ [o] }

/-- The replay queue of a cell has room for `n` instructions that park (R46, R177). DEDUCED, log entry 53. -/
def replayRoom (s : State) (c n : Nat) : Bool := decide ((s.cell c).parked + n ≤ 64)

/-- Issue an instruction whose engine reads a source tile: its operands are consumed in the clk after the last read of it (R25). -/
def retireTile (s : State) : State := retire (.perform s.cur.seq) (.consumed s.cur.seq) s
/-- Issue an instruction whose operation has an operands-consumed point of its own (R25, R192, R197). -/
def retireRead (s : State) : State := retire (.perform s.cur.seq) (.consumed s.cur.seq) s

/-- An instruction of a strand; it has no meaning on a conductor, which never decodes it (R82). -/
def onStrand (s : State) (f : Nat → Nat → Kind → Out) : Out :=
  match s.cur.agent with
  | .strand c k x => f c k x
  | .cond _ => .next s

/-- With the tile that a format T instruction names, or its fault (R173, R174). -/
def withTile (x : FmtT) (s : State) (f : Nat → Nat → Kind → Desc → Word → Out) : Out :=
  onStrand s fun c k st =>
    match tileRef x s with
    | .error s => .next s
    | .ok (d, co) => f c k st d co

/-- The same for an instruction that may park: its strand is not ready while the cell's replay queue is full (R46). -/
def withTileRoom (x : FmtT) (s : State) (f : Nat → Nat → Kind → Desc → Word → Out) : Out :=
  onStrand s fun c k st =>
    if !replayRoom s c 1 then .next s
    else
      match tileRef x s with
      | .error s => .next s
      | .ok (d, co) => f c k st d co

/-! ## Handles and coordinates (R173) -/

def execThndLd (x : FmtT) (s : State) : Out :=
  let ea := s.rs x.sx
  if !canonical ea then .next (raiseNonCanonical ea 0 s)
  else if ea.toNat % 64 ≠ 0 then .next (raise fMisaligned 0 ea 0 0 s)
  else
    ofPlaced (place 4 0 ea s) fun l s =>
      let at8 (i : Nat) : Elem :=
        { loc := (match l with | .mem pa key => .mem (pa + 8 * i) key | l => l), va := ea + BitVec.ofNat 64 (8 * i)
          lane := i, data := 0 }
      holdAgent (issueAcc { s.newAcc (.thnd x.h) 0 2 with byp := true, size := 3, elems := (List.range 8).map at8 } s)

/-- Write coordinate register `n` of the task. -/
def setC (n : Nat) (v : Word) (s : State) : State :=
  match s.cur.agent with
  | .strand c k _ => s.updSlot c k fun y => { y with c := Tab.set n v y.c }
  | .cond _ => s

def execThndSetc (x : FmtT) (s : State) : Out := .next (retireIn 1 (setC x.co (s.rs x.sx) s))

def execThndAddc (x : FmtT) (s : State) : Out :=
  onStrand s fun c k _ => .next (retireIn 1 (setC x.co (addCo ((s.slot c k).creg x.co) (s.rs x.sx)) s))

def execThndGetc (x : FmtT) (s : State) : Out :=
  onStrand s fun c k _ => .next (retireIn 1 (writeS x.sx ((s.slot c k).creg x.co) 1 s))

/-! ## Fills and prefetch (R179, R183, R184) -/

/-- The version that a fill form asks for: at least sX[23:0], or the latest with .any. -/
def wantOf (x : FmtT) (s : State) : Option Nat := if x.sub % 2 = 1 then none else some ((s.rs x.sx).toNat % 2 ^ 24)

/-- The current entry of a tile that a fill may bind for its request (R179, R233). -/
def fillMatch (s : State) (c : Nat) (t : TileKey) (want : Option Nat) : Option Entry :=
  ((s.cell c).current t).filter fun e => e.bindable && e.meets want (verRec s t).pub

/-- Bind the current entry of a tile, or allocate a new one numbered `eid` and start its fill (R179). -/
def bindOrFill (c k : Nat) (st : Kind) (eid : Nat) (t : TileKey) (d : Desc) (want : Option Nat) (s : State) : Nat × State :=
  match fillMatch s c t want with
  | some e => (e.id, touch c e.id s)
  | none => (eid, allocate c k st s.cur.seq eid t d false want 0 s)

/-- A fill that performs in the clk in which the last granule of its entry is full (R179). -/
def awaitFull (c k : Nat) (st : Kind) (eid : Nat) (s : State) : State :=
  match (s.cell c).entry eid with
  | some e => if e.fillDone then s else addOp c (newOp s k st (.fill eid) .active) s
  | none => s

/-- Start a fill as a hint: dropped where anything stands in its way (R183). -/
def prefetchTile (c k eid : Nat) (t : TileKey) (d : Desc) (want : Option Nat) (hint : Nat) (s : State) : State :=
  let m := fillMatch s c t want
  if !replayRoom s c 1 || pinFull (s.slot c k) hint (m.map (·.id)) then s
  else
    match m with
    | some e => applyHint c k e.id hint (touch c e.id s)
    | none =>
      match allocTry s c t d with
      | .ok way sway vic => applyHint c k eid hint (placeEntry c eid way sway vic false (addEntry c k eid t d false want 0 s))
      | _ => s

/-- Advance the itinerary of a handle and prefetch the quad at its distance (R184). DEDUCED, log entry 19. -/
def itinStep (c k h eid : Nat) (s : State) : State :=
  let sl := s.slot c k
  match sl.itin with
  | none => s
  | some it =>
    if it.h ≠ h then s
    else
      let p := it.p + 1
      let s1 := s.updSlot c k fun y => { y with itin := some { it with p := p } }
      let q := p + it.d
      if it.n < q then s1
      else
        match translateEngine { cell := c, slot := k, ctx := sl.ctx, stream := 5 } (it.base + BitVec.ofNat 64 (8 * q)) 0 s1 with
        | (.hit tr, s2) =>
          let pa := tr.phys (it.base + BitVec.ofNat 64 (8 * q))
          if (s2.badAt pa 8).isSome then s2.updSlot c k fun y => { y with itin := none }
          else
            let co : Word := BitVec.ofNat 64 (s2.memRead pa 8 tr.key)
            match Tab.find h sl.h with
            | some d =>
              if coordOk d co then prefetchTile c k eid (tileKeyOf sl d co) d none 0 s2 else s2
            | none => s2
        | (_, s2) => s2.updSlot c k fun y => { y with itin := none }

def execTfill (x : FmtT) (s : State) : Out :=
  withTileRoom x s fun c k st d co =>
    let t := tileKeyOf (s.slot c k) d co
    let want := wantOf x s
    if pinFull (s.slot c k) x.hint ((fillMatch s c t want).map (·.id)) then .next (illegal 7 s)
    else
      let (eid, s1) := bindOrFill c k st (4 * s.cur.seq) t d want (swapIf x.sw s)
      let s2 := itinStep c k x.h (4 * s.cur.seq + 3) (applyHint c k eid x.hint s1)
      .next (retireAccess (awaitFull c k st eid s2))

def execTpref (x : FmtT) (s : State) : Out :=
  onStrand s fun c k _ =>
    match tileRef x s with
    | .error _ => .next (retireNow s)
    | .ok (d, co) =>
      let t := tileKeyOf (s.slot c k) d co
      let want := wantOf x s
      let m := fillMatch s c t want
      let drop := !replayRoom s c 1 || pinFull (s.slot c k) x.hint (m.map (·.id))
        || (m.isNone && match allocTry s c t d with | .ok _ _ _ => false | _ => true)
      if drop then .next (retireNow s)
      else .next (retireNow (prefetchTile c k (4 * s.cur.seq) t d want x.hint (swapIf x.sw s)))

/-- TITIN (R184): the header is read at issue. DEDUCED, log entry 19. -/
def execTitin (x : FmtT) (s : State) : Out :=
  onStrand s fun c k _ =>
    match Tab.find x.h (s.slot c k).h with
    | none => .next (raise fTileDescriptor 0 0 0 0 s)
    | some _ =>
      let ea := s.rs x.sx
      ofPlaced (placeScalar 5 0 8 ea s) fun l s =>
        let bad := match l with | .mem pa _ => s.badAt pa 8 | _ => none
        match bad with
        | some code => raise fUncorrectable 0 ea (BitVec.ofNat 64 code) 0 s
        | none =>
          let w := locRead s l 8
          let n := w % 2 ^ 16
          let d := w / 2 ^ 16 % 256
          if w / 2 ^ 24 ≠ 0 ∨ d = 0 ∨ 64 < d then illegal 7 s
          else
            retireAccess (s.updSlot c k fun y =>
              { y with itin := if n = 0 then none else some ⟨x.h, ea, n, d, 0⟩ })

/-! ## Producing and publishing (R185 to R188) -/

def execTalloc (x : FmtT) (s : State) : Out :=
  withTileRoom x s fun c k st d co =>
    let t := tileKeyOf (s.slot c k) d co
    let v := (s.rs x.sx).toNat % 2 ^ 24
    let eid := 4 * s.cur.seq
    if ((s.cell c).current t).any fun e => e.resolved && e.ver == v then .next (raise fTileState 0 0 0 0 s)
    else if pinFull (s.slot c k) x.hint none then .next (illegal 7 s)
    else .next (retireAccess (applyHint c k eid x.hint (allocate c k st s.cur.seq eid t d true none v s)))

def execTdrain (x : FmtT) (s : State) : Out :=
  withTileRoom x s fun c k st d co =>
    match ((s.cell c).current (tileKeyOf (s.slot c k) d co)).filter (·.open) with
    | none => .next (raise fTileState 0 0 0 0 s)
    | some e =>
      if pinFull (s.slot c k) x.hint (some e.id) then .next (illegal 7 s)
      else
        let s1 := touch c e.id (swapIf x.sw s)
        let s2 := if x.hint = 1 then applyHint c k e.id 1 s1 else s1
        .next (retireTile (addOp c (newOp s k st (.drain e.id x.hint) .parked) s2))

def execTpost (x : FmtT) (s : State) : Out :=
  withTile x s fun c k st d co =>
    let v := (s.rs x.sx).toNat % 2 ^ 24
    .next (retireAccess (addOp c (newOp s k st (.tpost (tileKeyOf (s.slot c k) d co) d v) .active) (swapIf x.sw s)))

def execTqrel (x : FmtT) (s : State) : Out :=
  withTile x s fun c k st d co =>
    let v := (s.rs x.sx).toNat % 2 ^ 24
    if !d.sq then .next (illegal 7 s)
    else .next (retireAccess (addOp c (newOp s k st (.tqrel (tileKeyOf (s.slot c k) d co) d v) .active) (swapIf x.sw s)))

/-! ## Hints, invalidation and queries (R189 to R191) -/

/-- THINT (R189); on a tile without a current entry it does no more than its swap. DESIGN CHOICE, log entry 62. -/
def execThint (x : FmtT) (s : State) : Out :=
  withTile x s fun c k _ d co =>
    match (s.cell c).current (tileKeyOf (s.slot c k) d co) with
    | none => .next (retireNow (swapIf x.sw s))
    | some e =>
      if pinFull (s.slot c k) x.hint (some e.id) then .next (illegal 7 s)
      else .next (retireNow (applyHint c k e.id x.hint (touch c e.id (swapIf x.sw s))))

def execTinv (x : FmtT) (s : State) : Out :=
  withTile x s fun c k st d co =>
    let s1 := swapIf x.sw s
    match (s.cell c).current (tileKeyOf (s.slot c k) d co) with
    | none => .next (retireAccess s1)
    | some e =>
      if (s.cell c).bound e.id then .next (retireAccess (addOp c (newOp s k st (.tinv e.id) .active) s1))
      else .next (retireAccess (dropEntry c e.id s1))

/-- The word that TVER writes (R191). -/
def tverWord (e : Option Entry) : Word :=
  match e with
  | none => BitVec.ofNat 64 (2 ^ 63)
  | some e =>
    if !e.resolved then BitVec.ofNat 64 (2 ^ 35 + (match e.want with | some n => n | none => 0))
    else BitVec.ofNat 64 ((if e.published then 2 ^ 34 else 0) + (if e.produced then 2 ^ 33 else 0)
      + (if e.allFull then 2 ^ 32 else 0) + e.ver)

def execTver (x : FmtT) (s : State) : Out :=
  withTile x s fun c k _ d co =>
    let v := tverWord ((s.cell c).current (tileKeyOf (s.slot c k) d co))
    .next (retireIn 4 (writeS x.sx v 4 (swapIf x.sw s)))

/-! ## Tiles and registers (R192, R193) -/

/-- The 16 granules at an offset are full. -/
def Entry.full16 (e : Entry) (o : Nat) : Bool := (List.range 16).all fun i => e.isFull (o / 16 + i)

/-- Whether an offset of TLD or TST is allowed. -/
def offOk (d : Desc) (o : Nat) : Bool := o % 16 == 0 && decide (o + 256 ≤ d.tileBytes)

/-- Put a write into an entry in flight, to land in clk `due` subject to R195. -/
def putLens (c k : Nat) (st : Kind) (seq eid due : Nat) (parts : List (Nat × Nat × Nat)) (s : State) : State :=
  s.updCell c fun x => { x with lensWr := x.lensWr ++ [{ seq := seq, slot := k, k := st, eid := eid, due := due, parts := parts }] }

/-- A TLD.C whose read clk is `r` clears the full bits of its 16 granules at the end of that clk (R177, R192, R233). -/
def emptyGranules (c k : Nat) (st : Kind) (seq eid r o : Nat) (s : State) : State :=
  s.updCell c fun x => { x with lensWr := x.lensWr ++ [
    { seq := seq, slot := k, k := st, eid := eid, due := r, parts := (List.range 16).map fun i => (o + 16 * i, 0, 0), empties := true }] }

/-- Another TLD.C reads granules among the 16 at an offset in the present clk or the next (R192). -/
def Cell.emptying (x : Cell) (eid o : Nat) : Bool := x.lensWr.any fun w => w.empties && w.eid == eid && w.parts.any fun p => overlap o 256 p.1 16

/-- Read 256 bytes of an entry for a TLD whose read clk is `r`; `lru` is its place in the order of recency (R192, R235). The entry stays
bound until the bytes have been written, in clk r + 5 (R232). -/
def tldRead (c k : Nat) (st : Kind) (seq : Nat) (e : Entry) (o dst r lru : Nat) (s : State) : State :=
  let v := Memory.readN e.data o 256
  putLens c k st seq e.id (r + 5) [] (putV c k st dst (2 ^ 64 - 1) v (r + 5) seq true (updEntry c e.id (fun e => { e with lru := lru }) s))

def execTld (x : FmtT) (s : State) : Out :=
  withTileRoom x s fun c k st d co =>
    let sl := s.slot c k
    let t := tileKeyOf sl d co
    let o := (s.rs x.sx).toNat % 2 ^ 32
    let dst := vOff sl st x.vx
    let consume := x.sub % 2 = 1
    if !offOk d o then .next (illegal 7 s)
    else
      match (s.cell c).current t with
      | some e =>
        if !e.full16 o || (consume && (s.cell c).emptying e.id o) then .next s
        else if s.err.badLens.contains (c, e.id) then .next (raise fUncorrectable 0 (BitVec.ofNat 64 o) 5 0 s)
        else if e.here then
          let s1 := tldRead c k st s.cur.seq e o dst s.clk s.cur.seq (swapIf x.sw s)
          .next (retire (.clk (s.clk + 5)) (.clk (s.clk + 1)) (if consume then emptyGranules c k st s.cur.seq e.id s.clk o s1 else s1))
        else
          .next (holdAgent (retireRead (addOp c (newOp s k st (.tld e.id o dst consume) .parked)
            (touch c e.id (swapIf x.sw s)))))
      | none =>
        let eid := 4 * s.cur.seq
        let s1 := allocate c k st s.cur.seq eid t d false none 0 (swapIf x.sw s)
        .next (holdAgent (retireRead (addOp c (newOp s k st (.tld eid o dst consume) .active) s1)))

/-- The write of 256 bytes into an entry, granule by granule (R193). -/
def tstParts (o v : Nat) : List (Nat × Nat × Nat) :=
  (List.range 16).map fun i => (o + 16 * i, 16, v / 256 ^ (16 * i) % 256 ^ 16)

def execTst (x : FmtT) (s : State) : Out :=
  withTileRoom x s fun c k st d co =>
    let sl := s.slot c k
    let o := (s.rs x.sx).toNat % 2 ^ 32
    let v := s.rv x.vx
    if !offOk d o then .next (illegal 7 s)
    else
      match ((s.cell c).current (tileKeyOf sl d co)).filter (·.open) with
      | none => .next (raise fTileState 0 0 0 0 s)
      | some e =>
        let s1 := touch c e.id (swapIf x.sw s)
        if e.here then .next (retireAccess (putLens c k st s.cur.seq e.id (s.clk + 2) (tstParts o v) s1))
        else .next (retireAccess (addOp c (newOp s k st (.tst e.id o v) .parked) s1))

/-! ## Row gathers and scatters (R194) -/

/-- The rows of TGTH or TSCT with an offset: (row, address), ascending. -/
def gatherRows (d : Desc) (base : Word) (v : Nat) : List (Nat × Word) :=
  (List.range d.tr).filterMap fun r =>
    let o := laneOf v r
    if o = 0xFFFFFFFF then none else some (r, base + BitVec.ofNat 64 o)

/-- Translate every page of every row in row order; the fault names the lowest refused row. -/
def placeRows (stream kind len : Nat) : List (Nat × Word) → State → Except State State
  | [], s => .ok s
  | (_, va) :: rest, s =>
    match placeAll stream kind ((pageRuns va len).map (·.1)) s with
    | .error s => .error s
    | .ok (_, s) => placeRows stream kind len rest s

/-- The checks of R408 on the rows; what they come to. -/
def checkRows (stream kind : Nat) (d : Desc) (rows : List (Nat × Word)) (s : State) : Except State State :=
  match rows.find? fun q => !canonical q.2 with
  | some (_, va) => .error (raiseNonCanonical va kind s)
  | none =>
    match rows.find? fun q => q.2.toNat % 16 != 0 with
    | some (r, va) => .error (raise fMisaligned 0 va (BitVec.ofNat 64 r) 0 s)
    | none => placeRows stream kind d.rowBytes rows s

/-- Issue a gather or scatter once its rows have passed their checks. -/
def ofRows (r : Except State State) (f : State → State) : Out :=
  match r with
  | .error s => .next s
  | .ok s => .next (f s)

def execTgth (x : FmtT) (s : State) : Out :=
  withTileRoom x s fun c k st d co =>
    let sl := s.slot c k
    let rows := gatherRows d (s.rs x.sx) (s.rv x.vx)
    if 64 < d.tr then .next (illegal 7 s)
    else
      match ((s.cell c).current (tileKeyOf sl d co)).filter (·.open) with
      | none => .next (raise fTileState 0 0 0 0 s)
      | some e =>
        ofRows (checkRows 5 4 d rows s) fun s =>
          let all := (List.range d.tr).map fun r => (r, Tab.find r rows)
          let cs : CmdSt := if e.here then .active else .parked
          retireAccess (addOp c (newOp s k st (.tgth e.id all) cs) (touch c e.id (swapIf x.sw s)))

/-- TSCT: rows of a tile to memory (R194). DEDUCED, log entry 18. -/
def execTsct (x : FmtT) (s : State) : Out :=
  withTileRoom x s fun c k st d co =>
    let sl := s.slot c k
    let rows := gatherRows d (s.rs x.sx) (s.rv x.vx)
    if 64 < d.tr then .next (illegal 7 s)
    else
      match (s.cell c).current (tileKeyOf sl d co) with
      | none => .next (raise fTileState 0 0 0 0 s)
      | some e =>
        ofRows (checkRows 6 5 d rows s) fun s =>
          retireTile (addOp c (newOp s k st (.tsct e.id (rows.map fun q => (q.1, some q.2))) .parked) (touch c e.id (swapIf x.sw s)))

end Sys2Proof.Machine
end

