-- ==== Sys2Proof/Machine/EngineInstr.lean ====
section
/-! DEFINITION. The engine instructions at their issue (R204 to R210): launches, command queues, semaphores, barriers and
collectives. What each does when it performs stands in Machine/AccessEvents.lean, Machine/QueueEvents.lean and Machine/Walker.lean. -/

namespace Sys2Proof.Machine

open Sys2Proof

/-- The 8-byte words of a record of `n` words at a place. -/
def recordElems (l : Loc) (ea : Word) (n : Nat) : List Elem :=
  (List.range n).map fun i =>
    { loc := (match l with | .mem pa key => .mem (pa + 8 * i) key | .cond m o => .cond m (o + 8 * i) | l => l)
      va := ea + BitVec.ofNat 64 (8 * i), lane := i, data := 0 }

/-- The read of an aligned record at issue, checks 3, 5 and 8 of R408; the record lies in one page. -/
def placeRecord (align : Nat) (ea : Word) (s : State) : Except State (Loc × State) :=
  if !canonical ea then .error (raiseNonCanonical ea 0 s)
  else if ea.toNat % align ≠ 0 then .error (raise fMisaligned 0 ea 0 0 s)
  else place s.dStream 0 ea s

/-- LAUNCH (R205). -/
def execLaunch (x : FmtQ) (s : State) : Out :=
  let ea := s.rs x.a
  ofPlaced (placeRecord 256 ea s) fun l s =>
    holdAgent (issueAcc { s.newAcc .launch (x.f % 16) 2 with
      rel := true, byp := true, elems := recordElems l ea 32, dst := dstS s s.cur.agent x.d, x := ea } s)

/-- Records that a die command queue holds (R206, R300). -/
def DieQ.count (q : DieQ) : Nat := (q.tail - q.head).toNat

/-- The queue that a selector names: die and queue (R206). -/
def State.selQueue (s : State) (b : Nat) : DieQ := s.dieq (b / 8 % 8) (b % 8)

/-- QPUSH (R206). -/
def execQpush (x : FmtQ) (s : State) : Out :=
  let ea := s.rs x.a
  let b := (s.rs x.b).toNat
  if 64 ≤ b then .next (illegal 7 s)
  else if 32 ≤ (s.selQueue b).count then .next s
  else
    ofPlaced (placeRecord 64 ea s) fun l s =>
      issueAcc { s.newAcc (.qpush b) (x.f % 16) 2 with
        rel := true, byp := true, elems := recordElems l ea 8, dst := dstS s s.cur.agent x.d, x := ea } s

/-- SEMW (R207). -/
def execSemw (x : FmtQ) (s : State) : Out :=
  let ea := s.rs x.a
  let b := s.rs x.b
  ofPlaced (placeScalar s.dStream 0 8 ea s) fun l s =>
    holdAgent (issueAcc { (s.newAcc (.semw b) (x.f % 16) 2).one l ea 3 0 with
      acq := true, byp := true, dst := dstS s s.cur.agent x.d } s)

/-- SEMADD (R207): an AMO.add.ar of package scope. -/
def execSemadd (x : FmtQ) (s : State) : Out :=
  let ea := s.rs x.a
  let b := s.rs x.b
  ofPlaced (placeScalar s.dStream 2 8 ea s) fun l s =>
    issueAcc { (s.newAcc (.amo 0) (x.f % 16) 2).one l ea 3 0 with
      acq := true, rel := true, x := b, dst := dstS s s.cur.agent x.d } s

/-! ## Barriers (R208, R209) -/

/-- BARA: BARSEL is set at issue; the hub records the arrival when it performs, and that sets ARRG and sD. DEDUCED, log entry 15. -/
def execBara (x : FmtQ) (s : State) : Out :=
  onStrand s fun c k st =>
    let n := x.idx % 32
    let b := (s.ctxOf (s.slot c k).ctx).barrier n
    if !bit b.members c then .next (illegal 7 s)
    else
      .next (issueAcc { s.newAcc (.bara n) 0 2 with rel := true, dst := dstS s s.cur.agent x.d }
        (s.updStrand c k st fun y => { y with barsel := n }))

/-- BARW: waits for the arrival generation, then is an acquire at package scope. DEDUCED, log entry 16. DEDUCED, log entry 37.
DEDUCED, log entry 15. -/
def execBarw (x : FmtQ) (s : State) : Out :=
  onStrand s fun c k st =>
    let n := x.idx % 32
    if !barDone s c k n then .next s
    else
      let ctx := (s.slot c k).ctx
      let g := ((s.ctxOf ctx).barrier n).g
      let s1 := acquireBump s.cur.agent ctx 2 (s.updStrand c k st fun y => { y with barsel := n })
      .next (retireIn 1 (writeS x.d (BitVec.ofNat 64 (g - 1).toNat) 1 s1))

/-- BARM. -/
def execBarm (x : FmtQ) (s : State) : Out :=
  onStrand s fun _ _ _ =>
    let mask := (s.rs x.a).toNat + 2 ^ 64 * (s.rs x.b).toNat
    if mask = 0 ∨ mask &&& s.err.fencedCells ≠ 0 then .next (illegal 7 s)
    else .next (issueAcc (s.newAcc (.barm (x.idx % 32) mask (x.f + 1)) 0 2) s)

/-! ## Collectives (R210) -/

/-- Collectives of a context that the engine holds: those not completed. -/
def Ctx.openColls (x : Ctx) : Nat := x.colls.length

/-- COLL. -/
def execColl (x : FmtQ) (s : State) : Out :=
  let ea := s.rs x.a
  if 16 ≤ (s.ctxOf (s.ctxNum s.cur.agent)).openColls then .next s
  else
    ofPlaced (placeRecord 64 ea s) fun l s =>
      issueAcc { s.newAcc .coll (x.f % 16) 3 with
        rel := true, byp := true, elems := recordElems l ea 8, dst := dstS s s.cur.agent x.d, x := ea } s

/-- A ticket has been issued: tickets are the low 32 bits of the count of the context's collectives, so that every ticket has been once
the count has passed 2^32. -/
def Ctx.issued (x : Ctx) (t : Nat) : Bool := decide (t < x.tickets) || decide (2 ^ 32 ≤ x.tickets)

/-- COLLW: the strand issues nothing further until the collective has completed. -/
def execCollw (x : FmtQ) (s : State) : Out :=
  let t := (s.rs x.a).toNat % 2 ^ 32
  if !(s.ctxOf (s.ctxNum s.cur.agent)).issued t then .next (illegal 7 s)
  else .next (holdAgent (issueAcc { s.newAcc (.collw t) 0 3 with acq := true, dst := dstS s s.cur.agent x.d } s))

end Sys2Proof.Machine
end

