-- ==== Sys2Proof/Machine/LensEngine.lean ====
section
/-! DEFINITION. What the engines of the Lens do with memory: reading and writing the bytes of a tile in the layout of R172,
spills and read-backs (R237), publications at a tile's home (R240 to R247), and the reports of TILE_ENGINE (R181, R241). -/

namespace Sys2Proof.Machine

open Sys2Proof

/-! ## Receivers (R239) -/

/-- Whether a receiver of a cell's replay queue has taken a command in this clk: 0 allocator, 1 drain engine, 3 fill engine. -/
def took (s : State) (c r : Nat) : Bool := Tab.get 0 r (s.cell c).handClk == s.clk + 1

/-- Note that a receiver has taken a command. -/
def take (c r : Nat) (s : State) : State := s.updCell c fun x => { x with handClk := Tab.set r (s.clk + 1) x.handClk }

/-- A slot whose waiting operations are not handed on: it is frozen (R222). -/
def heldBack (s : State) (c k : Nat) : Bool := (s.slot c k).st == .frozen

/-- Change the command numbered `q` of a cell. -/
def updOp (c q : Nat) (f : LensOp → LensOp) (s : State) : State :=
  s.updCell c fun x => { x with ops := updFirst (fun o => o.seq == q) f x.ops }
/-- Remove a command. -/
def dropOp (c : Nat) (o : LensOp) (s : State) : State := s.updCell c fun x => { x with ops := x.ops.filter fun p => p != o }
/-- A command of a cell by its number and kind. -/
def Cell.opBy (x : Cell) (q : Nat) (p : LensCmd → Bool) : Option LensOp := x.ops.find? fun o => o.seq == q && p o.cmd

/-- The scan for frames runs again (R236). -/
def rescan (c : Nat) (s : State) : State := s.updCell c fun x => { x with scanLeft := 4096 }

/-! ## Reports (R181, R241, R327) -/

/-- AUX of a TILE_ENGINE report from a translation cause (R327). DEDUCED, log entry 18. -/
def engineAux (cause : Nat) : Nat := if cause = 0 then 1 else if 8 ≤ cause then 3 else 2

/-- Report a TILE_ENGINE fault of a command to its strand; a command whose task was removed has none. -/
def engineReport (c : Nat) (o : LensOp) (aux : Nat) (aux2 va : Word) (s : State) : State :=
  if 8 ≤ o.slot then s
  else
  report { agent := .strand c o.slot o.k, kind := 1, code := fTileEngine, fpc := o.fpc, addr := va, aux := BitVec.ofNat 64 aux
           aux2 := aux2 } s

/-- The cause by which the engines of the Lens note data that cannot be corrected; those of R326 are at most 8, the last for a table
entry that cannot be read. -/
def badData : Nat := 16

/-- Report a refusal in memory: the command goes on when its task resumes (R181). AUX2 holds the cause word of the translation, that of a
refused read of a table entry included (R326, R327), or that of data that cannot be corrected (R384). -/
def engineFault (c : Nat) (o : LensOp) (kind : Nat) (e : Nat × Nat × Word) (s : State) : State :=
  engineReport c o (engineAux e.1) (if e.1 = badData then badWord (max 1 e.2.1) else causeWord e.1 e.2.1 kind) e.2.2
    (s.updCell c fun x => { x with ops := x.ops.map fun p => if p == o then { p with reported := true } else p })

/-! ## Tiles in memory (R57, R58, R172) -/

/-- Read pieces of bytes into a number, each where `tr` translates its address to: (byte, bit, address, bit there, bits). -/
def readPieces (tr : Word → State → Tr × State) : List (Nat × Nat × Word × Nat × Nat) → Nat → State → Except (Nat × Nat × Word) Nat × State
  | [], v, s => (.ok v, s)
  | (i, sh, va, m, n) :: ps, v, s =>
    match tr va s with
    | (.hit t, s) =>
      let pa := t.phys va
      match s.badAt pa 1 with
      | some code => (.error (badData, code, va), s)
      | none => readPieces tr ps (v + s.byteAt pa t.key / 2 ^ m % 2 ^ n * 2 ^ (8 * i + sh)) s
    | (.bad cause l, s) => (.error (cause, l, va), s)
    | (.wait, s) => (.error (0, 0, va), s)

/-- One granule of a tile from memory, in the Lens layout; elements outside the tensor are zero. -/
def readGranuleMem (r : Requester) (d : Desc) (co : Word) (g : Nat) (s : State) : Except (Nat × Nat × Word) Nat × State :=
  readPieces (fun va s => translateEngine r va 4 s) (granulePieces d co g) 0 s

/-- Granules of a tile as its home reads them for another package (R244). -/
def readGranulesHub (ctx : Nat) (d : Desc) (co : Word) : List Nat → State → Except (Nat × Nat × Word) (List Byte) × State
  | [], s => (.ok [], s)
  | g :: gs, s =>
    match readPieces (fun va s => translateHub ctx va 0 true s) (granulePieces d co g) 0 s with
    | (.ok v, s) =>
      match readGranulesHub ctx d co gs s with
      | (.ok l, s) => (.ok (leBytes 16 v ++ l), s)
      | e => e
    | (.error r, s) => (.error r, s)

/-- The bits that a drain writes of granule `g` of an entry: (address, bit there, bits, value), the bytes `skip` left out. -/
def granuleBits (e : Entry) (skip : List Nat) (g : Nat) : List (Word × Nat × Nat × Nat) :=
  ((granulePieces e.d e.coord g).filter fun q => !skip.contains (16 * g + q.1)).map fun (i, sh, va, m, n) =>
    (va, m, n, e.granule g / 2 ^ (8 * i + sh) % 2 ^ n)

/-- The bits that a drain writes: the elements of the tile, and as zeros the bits beyond the last element of an array (R58, R172). -/
def drainBits (e : Entry) (skip : List Nat) : List (Word × Nat × Nat × Nat) :=
  (granulesOf e.d).flatMap (granuleBits e skip) ++ (padPieces e.d e.coord).map fun (va, m, n) => (va, m, n, 0)

/-- Where bits go in memory: (physical address, key slot, bit there, bits, value). -/
def placeBits (r : Requester) : List (Word × Nat × Nat × Nat) → State → Except (Nat × Nat × Word) (List (Nat × Nat × Nat × Nat × Nat)) × State
  | [], s => (.ok [], s)
  | (va, m, n, v) :: ps, s =>
    match translateEngine r va 5 s with
    | (.hit t, s) =>
      match placeBits r ps s with
      | (.ok l, s) => (.ok ((t.phys va, t.key, m, n, v) :: l), s)
      | e => e
    | (.bad cause l, s) => (.error (cause, l, va), s)
    | (.wait, s) => (.error (0, 0, va), s)

/-- The ranges of bad data that the bits do not cover whole: address, length, structure code (R383, R384). -/
def badRanges (s : State) (l : List (Nat × Nat × Nat × Nat × Nat)) : List (Nat × Nat × Nat) :=
  let whole (w n : Nat) : Bool := (List.range n).all fun i => l.any fun q => q.1 == w + i && q.2.2.2.1 == 8
  s.err.lost.filterMap (fun w => if whole w 64 then none else some (w, 64, 0x02))
    ++ s.err.badHbm.filterMap (fun w => if whole w 32 then none else some (w, 32, 0x01))
    ++ (setBits 8 s.err.fencedDies).map fun d => (d * 2 ^ 36, 2 ^ 36, 0x0E)

/-- The structure code of the bad data in which a byte lies. -/
def badCode (bad : List (Nat × Nat × Nat)) (pa : Nat) : Option Nat :=
  (bad.find? fun (w, n, _) => w ≤ pa && pa < w + n).map fun b => b.2.2

/-- Whether the bits leave a bad word or sector in part (R384). -/
def bitsBad (s : State) (l : List (Nat × Nat × Nat × Nat × Nat)) : Bool := l.any fun q => (badCode (badRanges s l) q.1).isSome

/-- Of the bits, with the virtual addresses that they go to, the first in bad data: its structure code and address. -/
def firstBad (s : State) (ps : List (Word × Nat × Nat × Nat)) (l : List (Nat × Nat × Nat × Nat × Nat)) : Option (Nat × Word) :=
  let bad := badRanges s l
  (ps.zip l).foldl (fun (m : Option (Nat × Word)) (p, q) => match badCode bad q.1, m with
    | none, m => m
    | some c, some (c', va) => if p.1.toNat < va.toNat then some (c, p.1) else some (c', va)
    | some c, none => some (c, p.1)) none

/-- Write bits: whole bytes, and parts of a byte merged at the home; words and sectors written whole are healed. -/
def writeBits (a : Agent) (l : List (Nat × Nat × Nat × Nat × Nat)) (s : State) : State :=
  let s1 := l.foldl (fun t (pa, key, m, n, v) =>
    let old := t.byteAt pa key
    locWrite a (.mem pa key) 1 (if n = 8 then v else old - old / 2 ^ m % 2 ^ n * 2 ^ m + v * 2 ^ m) t) s
  let hit (w : Nat) : Bool := l.any fun q => q.1 == w
  { s1.oneStore s.oldWords.length with
    err := { s1.err with badHbm := s1.err.badHbm.filter (fun w => !hit w), lost := s1.err.lost.filter fun w => !hit w } }

/-- The slot of an agent; 8 where it is not a strand. -/
def agentSlot : Agent → Nat
  | .strand _ k _ => k
  | .cond _ => 8

/-- The drain engine acts for a strand of a cell: stream DW (R324). -/
def drainFor (c : Nat) (a : Agent) (ctx : Nat) : Requester := { cell := c, slot := agentSlot a, ctx := ctx, stream := 6 }

/-- The slot of the task that allocated an entry; 8 where that task is gone. -/
def Entry.ownSlot (e : Entry) (c : Nat) (s : State) : Nat :=
  let y := s.slot c e.slot
  if e.slot < 8 ∧ y.pos = e.pos ∧ y.launch = e.launch ∧ y.ctx = e.ctx then e.slot else 8

/-- The command for which a fill goes on: one that binds its entry. -/
def fillFor (x : Cell) (eid : Nat) : Option LensOp := x.ops.find? fun o => o.cmd.binds.contains eid

/-- The fill engine acts for the task that allocated an entry: stream DA; a fill that no command waits for is a prefetch, whose requests are
speculative (R183, R321, R324). -/
def fillBy (c : Nat) (e : Entry) (s : State) : Requester :=
  { cell := c, slot := e.ownSlot c s, ctx := e.ctx, stream := 5, spec := (fillFor (s.cell c) e.id).isNone }

/-- The drain engine acts for it in a spill or a read-back: stream DW (R324). -/
def spillBy (c : Nat) (e : Entry) (s : State) : Requester := { cell := c, slot := e.ownSlot c s, ctx := e.ctx, stream := 6 }

/-- Write an entry's tile and scale tile to memory, but for the bytes `skip` that have been written; the refusal where there is one
(R172, R242). -/
def writeEntry (c : Nat) (a : Agent) (e : Entry) (skip : List Nat) (s : State) : Except (Nat × Nat × Word) State × State :=
  match placeBits (drainFor c a e.ctx) (drainBits e skip) s with
  | (.error r, s) => (.error r, s)
  | (.ok l, s) => match firstBad s (drainBits e skip) l with
    | some (code, va) => (.error (badData, code, va), s)
    | none => (.ok (writeBits a l s), s)

/-- Read a whole tile back into an entry, granule by granule (R237). -/
def readBack (q : Requester) (eid : Nat) (d : Desc) (co : Word) : List Nat → State → Except (Nat × Nat × Word) Unit × State
  | [], s => (.ok (), s)
  | g :: gs, s =>
    match readGranuleMem q d co g s with
    | (.ok v, s) =>
      let o := if g < scaleG then 16 * g else 16 * scaleG + 16 * (g - scaleG)
      readBack q eid d co gs (landGranule q.cell eid g [(o, 16, v)] s)
    | (.error r, s) => (.error r, s)

/-! ## Spill and read-back (R237) -/

/-- Whether a parked command needs the bytes of an entry that a spill has moved to memory (R237). -/
def LensOp.needsBytes (o : LensOp) (eid : Nat) : Bool :=
  match o.cmd with
  | .tld e _ _ _ => e == eid
  | .tst e _ _ => e == eid
  | .adrn e _ _ _ _ _ _ => e == eid
  | .tgth e _ => e == eid
  | .tsct e _ => e == eid
  | .mma m => m.eidA == eid || m.eidB == eid
  | _ => false

/-- The command for which a spilled entry is to be read back, the earliest issued. -/
def readBackFor (s : State) (c eid : Nat) : Option LensOp :=
  firstOp (fun o => o.st == .parked && !o.reported && !heldBack s c o.slot && o.needsBytes eid) (s.cell c).ops

/-- What an allocation of an entry's own tile comes to: a read-back takes ways and frames as an allocation does (R235, R237). -/
def seatTry (s : State) (c : Nat) (e : Entry) : AllocRes := allocTry s c ⟨e.ctx, e.tid, e.coord⟩ e.d

/-- The parked command whose allocation or read-back has picked entry `eid` to spill (R235). -/
def spillFor (s : State) (c eid : Nat) : Option LensOp :=
  let x := s.cell c
  firstOp (fun o => o.st == .parked && !o.reported && !heldBack s c o.slot && match o.cmd with
    | .alloc _ t d _ _ _ _ => allocTry s c t d == .spill eid
    | _ => x.lens.any fun e => e.away && o.needsBytes e.id && seatTry s c e == .spill eid) x.ops

/-- Spill an entry: its bytes go to memory in one step, its frames are freed, its tag stays. DEDUCED, log entry 18. -/
def spillEntry (c : Nat) (e : Entry) (s : State) : State :=
  match writeEntry c (.strand c e.slot .S) e [] s with
  | (.ok s, _) => rescan c (updEntry c e.id (fun e => { e with st := .spilled, data := [], scale := [] }) s)
  | (.error r, s) =>
    match spillFor s c e.id with
    | some o => engineFault c o 5 r s
    | none => s

/-- Read a spilled entry back once a way and frames are free, in that way; a victim that has to be spilled is spilled first. One that has
been published since is filled again, with its version or a later one: its bytes in memory may have been drained over by now.
DEDUCED, log entry 19. DESIGN CHOICE, log entry 56. -/
def readBackEntry (c : Nat) (e : Entry) (o : LensOp) (s : State) : State :=
  match seatTry s c e with
  | .spill v =>
    match (s.cell c).entry v with
    | some x => take c 1 (spillEntry c x s)
    | none => s
  | .ok way sway vic =>
    if e.frameless then take c 1 ((seatEntry c e.id way sway vic s).updCell c fun x => x.refill e.id (some e.ver))
    else
      match readBack (spillBy c e s) e.id e.d e.coord (granulesOf e.d)
          (updEntry c e.id (fun e => { e with st := .producing }) (seatEntry c e.id way sway vic s)) with
      | (.ok _, s) => take c 1 s
      | (.error r, s) => engineFault c o 4 r (updEntry c e.id (fun _ => e) s)
  | _ => s

/-! ## Publication at the home (R240 to R246) -/

/-- The home of a tile: the physical address of its first byte (R240). -/
def homePa (q : Requester) (t : TileKey) (d : Desc) (kind : Nat) (s : State) : Except (Nat × Nat × Word) Nat × State :=
  let va := tileHome d t.coord
  match translateEngine q va kind s with
  | (.hit tr, s) => (.ok (tr.phys va), s)
  | (.bad cause l, s) => (.error (cause, l, va), s)
  | (.wait, s) => (.error (0, 0, va), s)

/-- Whether the version store of a stack has room for a tile's record (R293). -/
def storeRoom (s : State) (t : TileKey) (stack : Nat) : Bool :=
  let x := s.ctxOf t.ctx
  x.vers.any (fun v => v.tile == t) || decide ((x.vers.filter fun v => v.stack == stack).length < 4096 * x.vsrec)

/-- Publish a version at the home, with the notices of a group tensor (R241, R246). DEDUCED, log entry 18. -/
def publish (t : TileKey) (d : Desc) (stack v : Nat) (s : State) : State :=
  let s1 := updVer t stack (fun r => { r with pub := v, src := s.selfIdx, draining := false }) s
  if d.vscope = 3 then
    let x := s.ctxOf t.ctx
    let to' := (setBits 64 x.gmask).filter fun m => m != s.selfIdx && memberPresent s t.ctx m
    to'.foldl (fun u m => postPacket (.notice m ⟨x.groupId, t.tid, t.coord, v, s.selfIdx, tileHome d t.coord⟩) u) s1
  else s1

/-- The directory entry of a tile. -/
def dirOf (s : State) (t : TileKey) : Option DirEnt := s.dirs.find? fun v => v.tile == t

/-- The channel directory that an address belongs to: its stack's die and the channel (R240, R245). -/
def dirAt (pa : Nat) : Nat × Nat := (homeDie pa, Config.channel pa)

/-- Whether the directory of the channel of `pa` is full (R245). DESIGN CHOICE, log entry 5. -/
def dirFull (s : State) (pa : Nat) : Bool :=
  decide (8192 ≤ s.dirs.length) && decide (8192 ≤ (s.dirs.filter fun v => dirAt v.pa == dirAt pa).length)

/-- A tile's directory entry is the latest served. -/
def serveDir (t : TileKey) (f : DirEnt → DirEnt) (s : State) : State :=
  match dirOf s t with
  | some v => { s with dirs := s.dirs.filter (fun w => w.tile != t) ++ [f v] }
  | none => s

/-- An entry of a Lens of the package is not a holder, or no longer. -/
def DirEnt.without (v : DirEnt) (c eid : Nat) : DirEnt := { v with holders := v.holders.filter fun h => !(h.cell == c && h.eid == eid) }

/-- Note an entry as a holder of version `ver` in the directory of its tile's channel (R245): at most 8, the oldest dropped; a full
directory gives the new tile the entry of the least recently served. -/
def addHolder (t : TileKey) (pa c eid ver : Nat) (s : State) : State :=
  let h : Holder := ⟨s.selfIdx, c, eid, ver⟩
  match dirOf s t with
  | some _ => serveDir t (fun v =>
      let l := (v.without c eid).holders
      { v with holders := l.drop (l.length - 7) ++ [h] }) s
  | none =>
    let l := if dirFull s pa then
        (match s.dirs.find? fun v => dirAt v.pa == dirAt pa with
          | some v => s.dirs.filter fun w => w.tile != v.tile
          | none => s.dirs)
      else s.dirs
    { s with dirs := l ++ [⟨t, pa, [h]⟩] }

/-- The holder that R244 asks for a version that is wanted, in die `die` before another; a requester of another package is in none.
DEDUCED, log entry 19. -/
def holderFor (s : State) (t : TileKey) (scope : Nat) (want : Option Nat) (die : Option Nat) (not' : Nat × Nat) : Option Holder :=
  let ok : List Holder := (match dirOf s t with | some v => v.holders | none => []).filter fun h =>
    (h.cell, h.eid) != not' && verMeets want (verRec s t).pub h.ver
  if scope = 0 then none
  else
    match ok.find? fun h => die == some (h.cell / 16) with
    | some h => some h
    | none => if 2 ≤ scope then ok.head? else none

/-- The entry of a holder that still holds what its directory says: CLEAN, with its bytes, of that version (R244, R245). -/
def Holder.holds (h : Holder) (s : State) : Option Entry :=
  ((s.cell h.cell).entry h.eid).filter fun e => e.st == .clean && e.here && e.ver == h.ver

/-- Serve a tile request of another package at its home here by steps 2 and 3 of R244, a stale holder answering absent (R245): from memory one
whole version in one step, so that no drain comes between (R242). None while a drain of the tile is under way. -/
def serveTile (ctx tid : Nat) (coord : Word) (d : Desc) (want : Option Nat) : Nat → State → Option (PeerRes × State)
  | 0, s => some (.absent, s)
  | n + 1, s =>
    let t : TileKey := ⟨ctx, tid, coord⟩
    let r := verRec s t
    match holderFor s t d.vscope want none (128, 0) with
    | some h =>
      match h.holds s with
      | some e => some (.tile ⟨e.ver, Memory.readL e.data 0 d.tileBytes, Memory.readL e.scale 0 d.scaleBytes⟩, serveDir t (fun v => v) s)
      | none => serveTile ctx tid coord d want n (serveDir t (fun v => v.without h.cell h.eid) s)
    | none =>
      if r.src ≠ s.selfIdx ∨ verMeets want r.pub r.pub = false then some (.absent, s)
      else if r.draining then none
      else
        let (data, s) := readGranulesHub ctx d coord (List.range (d.tileBytes / 16)) s
        let (scale, s) := readGranulesHub ctx d coord ((List.range (d.scaleBytes / 16)).map (scaleG + ·)) s
        some (match data, scale with
          | .ok a, .ok b => (.tile ⟨r.pub, a, b⟩, s)
          | .error (c, l, _), _ => (if c = badData then .failed 4 0 else .failed 3 (causeWord c l 0), s)
          | _, .error (c, l, _) => (if c = badData then .failed 4 0 else .failed 3 (causeWord c l 0), s))

/-- A command moves rows of TGTH or TSCT: plain class-0 accesses (R194). -/
def LensCmd.rows : LensCmd → Bool
  | .tgth _ _ => true
  | .tsct _ _ => true
  | _ => false

/-- Every earlier address-based access of a command's strand has performed, the rows of its TGTHs and TSCTs included: a publication is a
release (R186, R187, R194). -/
def earlierDone (s : State) (c : Nat) (o : LensOp) : Bool :=
  let a : Agent := .strand c o.slot o.k
  s.accs.all (fun q => q.orphan || q.agent != a || decide (o.seq ≤ q.id))
    && (s.cell c).copyq.all (fun q => q.orphan || q.agent != a || decide (o.seq ≤ q.id))
    && (s.cell c).ops.all fun q => q.slot != o.slot || q.k != o.k || decide (o.seq ≤ q.seq) || !q.cmd.rows

/-- The tile of an entry. -/
def Entry.key (e : Entry) : TileKey := ⟨e.ctx, e.tid, e.coord⟩

/-- A fill whose last granule has landed: the entry is CLEAN, a holder of its version where every granule is still full, and the fill is an
acquire at the tensor's scope (R180, R232, R245, R263). -/
def completeFill (c eid : Nat) (s : State) : State :=
  match (s.cell c).entry eid with
  | none => s
  | some e =>
    if e.st == .filling && e.landed == e.allMask then
      let s1 := updEntry c eid (fun e => { e with st := .clean, src := .notFill, landed := 0 }) s
      let s2 := if e.allFull then addHolder e.key e.home c eid e.ver s1 else s1
      let s3 := { s2 with fillReads := s2.fillReads.filter fun r => !(r.cell == c && r.eid == eid) }
      if 2 ≤ e.d.vscope then rdcBump e.ctx (c / 16) s3 else s3
    else s

/-- The cell that holds a command of a kind, by its number. -/
def findOp (s : State) (q : Nat) (p : LensCmd → Bool) : Option (Nat × LensOp) :=
  (s.cells.filterMap fun (c, x) => (x.opBy q p).map fun o => (c, o)).head?

/-- A command that ends with nothing published (R241). DEDUCED, log entry 18. -/
def refusePublication (c : Nat) (o : LensOp) (aux : Nat) (va : Word) (s : State) : State :=
  engineReport c o aux 0 va (dropOp c o s)

end Sys2Proof.Machine
end

