-- ==== Sys2Proof/Machine/PeerInstr.lean ====
section
/-! DEFINITION. Peer accesses, multicast stores and the Prism region at their issue (R135 to R142, R346, R408). -/

namespace Sys2Proof.Machine

open Sys2Proof

/-- What the checks of a peer instruction come to: a local access, or an access of member `m`. -/
inductive PeerTo where
  | here
  | member (m : Nat)
deriving DecidableEq, Repr

/-- Checks 2 to 6 of R408 for a peer instruction at `ea` with access kind `kind` and width `w` (R135). -/
def peerChecks (x : FmtP) (ea : Word) (kind : Nat) (s : State) : Except State PeerTo :=
  let m := s.peer x.peer
  let w := sizeBytes x.size
  let ctx := s.ctxNum s.cur.agent
  if m = s.selfIdx then
    if !canonical ea then .error (raiseNonCanonical ea kind s)
    else if ea.toNat % w ≠ 0 then .error (raise fMisaligned 0 ea 0 0 s)
    else .ok .here
  else if x.scope ≠ 3 then .error (illegal 7 s)
  else if !canonical ea then .error (raiseNonCanonical ea kind s)
  else if !inHeap s ctx ea w then .error (raise fPeerRange 0 ea 0 0 s)
  else if ea.toNat % w ≠ 0 then .error (raise fMisaligned 0 ea 0 0 s)
  else if !memberPresent s ctx m then .error (raise fPeerRemote 0 ea 1 0 s)
  else .ok (.member m)

/-- Park the issuing task at the issue of a load from a peer (R49, R136); a conductor waits for its source as for any load. -/
def parkTask (s : State) : State :=
  match s.cur.agent with
  | .strand c k _ => s.updSlot c k fun sl => 
      { sl with st := if sl.st = .run then .parked else sl.st, parkSeq := some s.cur.seq }
  | .cond _ => s

/-- A peer access: local at the own index (translated with kind `kind`), otherwise sent to its member; a load parks. -/
def peerAccess (x : FmtP) (ea : Word) (kind : Nat) (parks : Bool) (pre : State → Option State) (mk : State → Acc)
    (s : State) : Out :=
  match peerChecks x ea kind s with
  | .error s => .next s
  | .ok dest =>
    match pre s with
    | some s => .next s
    | none =>
      match dest with
      | .here => ofPlaced (place s.dStream kind ea s) fun l s => issueAcc ((mk s).one l ea x.size (s.rs x.d).toNat) s
      | .member m =>
        let a := (mk s).one (.peer m ea) ea x.size (s.rs x.d).toNat
        .next (if parks then parkTask (issueAcc a s) else issueAcc a s)

def execPld (x : FmtP) (s : State) : Out :=
  peerAccess x (eaP x s) 0 true (fun _ => none)
    (fun s => { (s.newAcc .load x.cls x.scope).loadQual (x.sub / 8) with dst := dstS s s.cur.agent x.d }) s

def execPst (x : FmtP) (s : State) : Out :=
  peerAccess x (eaP x s) 1 false (fun _ => none)
    (fun s => { (s.newAcc .store x.cls x.scope).storeQual (x.sub / 8) with d := s.rs x.d }) s

def execPamo (x : FmtP) (s : State) : Out :=
  let ar := bit x.sub 4
  peerAccess x (s.rs x.base) 2 true (fun _ => none)
    (fun s => { s.newAcc (.amo (x.sub % 16)) x.cls x.scope with
      acq := ar, rel := ar, x := s.rs x.x, dst := dstS s s.cur.agent x.d }) s

def execPcas (x : FmtP) (s : State) : Out :=
  let ar := bit x.sub 4
  peerAccess x (s.rs x.base) 2 true (fun _ => none)
    (fun s => { s.newAcc .cas x.cls x.scope with
      acq := ar, rel := ar, x := s.rs x.x, d := s.rs x.d, dst := dstS s s.cur.agent x.d }) s

def execPstat (x : FmtP) (s : State) : Out :=
  let ea := eaP x s
  let t := s.rs x.x
  peerAccess x ea 1 false (fun s => statRefused (scopeOf s.cur.agent x.scope) t ea s)
    (fun s => { (s.newAcc (.stat t) x.cls x.scope).storeQual (x.sub / 8) with d := s.rs x.d }) s

def execPldnb (x : FmtP) (s : State) : Out :=
  let ea := eaP x s
  peerAccess x ea 0 true (fun s => ldnbRefused (scopeOf s.cur.agent x.scope) ea s)
    (fun s => { (s.newAcc (.ldnb (s.rs x.x)) x.cls x.scope).loadQual (x.sub / 8) with
      byp := true, dst := dstS s s.cur.agent x.d }) s

/-! ## Multicast stores (R138, R346) -/

/-- The member set of entry `j` of the context's multicast group table: empty where the entry is not valid or not well
formed. -/
def mcastSet (s : State) (ctx j : Nat) : Nat :=
  let e := s.memRead ((s.ctxOf ctx).mctab + 16 * j) 16 0
  if e / 2 ^ 64 = 1 then e % 2 ^ 64 else 0

/-- The members of a set that a packet goes to: the others that are present. -/
def mcstPeers (s : State) (ctx g : Nat) : List Nat := (setBits 64 g).filter fun m => m != s.selfIdx && memberPresent s ctx m

/-- MCST (R138, R346): its members are taken from the table at issue, by a bypass load, and each store is performed on its own; with no
member it performs at once. The fault of an entry that cannot be corrected names its physical address, as the entry has no other.
DEDUCED, log entry 31. -/
def execMcst (x : FmtP) (s : State) : Out :=
  let ea := eaP x s
  let j := s.rs x.x
  let ctx := s.ctxNum s.cur.agent
  let w := sizeBytes x.size
  if 256 ≤ j.toNat then .next (illegal 7 s)
  else if !canonical ea then .next (raiseNonCanonical ea 1 s)
  else if !inHeap s ctx ea w then .next (raise fPeerRange 0 ea 0 0 s)
  else if ea.toNat % w ≠ 0 then .next (raise fMisaligned 0 ea 0 0 s)
  else
    let g := mcastSet s ctx j.toNat
    let d := s.rs x.d
    let pa := (s.ctxOf ctx).mctab + 16 * j.toNat
    match s.badAt pa 16 with
    | some code => .next (raise fUncorrectable 0 (BitVec.ofNat 64 pa) (BitVec.ofNat 64 code) 0 s)
    | none =>
      let go (own : List Elem) (s : State) : State :=
        issueAcc { (s.newAcc (.mcst g 0) x.cls x.scope).storeQual (x.sub / 8) with
          size := x.size, d := d, dst := dstS s s.cur.agent x.x
          elems := { loc := .peer s.selfIdx ea, va := ea, lane := 0, data := d.toNat } :: own } s
      if g = 0 then .next (retireNow (putAsync (dstS s s.cur.agent x.x) 0 s.cur.seq s))
      else if bit g s.selfIdx then
        ofPlaced (place s.dStream 1 ea s) fun l s => go [{ loc := l, va := ea, lane := 0, data := d.toNat }] s
      else .next (go [] s)

/-! ## The Prism region (R139 to R142) -/

/-- The checks of R139 and R408 on an offset; the fault where one is refused. -/
def prismChecks (off : Word) (size : Nat) (s : State) : Option State :=
  if 0x100000 ≤ off.toNat then some (illegal 7 s)
  else if off.toNat % sizeBytes size ≠ 0 then some (raise fMisaligned 0 off 0 0 s)
  else if !prismMember s (s.ctxNum s.cur.agent) then some (raise fPrismExit 0 off 0 0 s)
  else none

def execBst (x : FmtP) (s : State) : Out :=
  let off := eaP x s
  let m := (s.rs x.x).toNat
  if 2 ^ 16 ≤ m then .next (illegal 7 s)
  else
    match prismChecks off x.size s with
    | some s => .next s
    | none =>
      .next (issueAcc { ((s.newAcc (.bst ((2 ^ x.cls) ||| m)) x.cls x.scope).one (.prism off.toNat) off x.size
        (s.rs x.d).toNat) with rel := bit (x.sub / 8) 0, d := s.rs x.d } s)

def execBamo (x : FmtP) (s : State) : Out :=
  let off := s.rs x.base
  let ar := bit x.sub 4
  match prismChecks off x.size s with
  | some s => .next s
  | none =>
    .next (issueAcc { (s.newAcc (.bamo (x.sub % 16)) x.cls x.scope).one (.prism off.toNat) off x.size 0 with
      acq := ar, rel := ar, x := s.rs x.x, dst := dstS s s.cur.agent x.d } s)

def execBld (x : FmtP) (s : State) : Out :=
  let off := eaP x s
  match prismChecks off x.size s with
  | some s => .next s
  | none =>
    .next (issueAcc { (s.newAcc .bld x.cls x.scope).one (.prism off.toNat) off x.size 0 with
      acq := bit (x.sub / 8) 0, dst := dstS s s.cur.agent x.d } s)

end Sys2Proof.Machine
end

