-- ==== Sys2Proof/Machine/AccessEvents.lean ====
section
/-! DEFINITION. What happens to accesses and results after issue: landing of fixed-latency results (R44, R151, R224), the
performing of accesses (R116), time-tagged stores (R131 to R133), peer requests and replies (R136, R345), multicast (R138),
the copy engine (R145, R333), and the reporting of faults (R117, R220, R226, R227). -/

namespace Sys2Proof.Machine

open Sys2Proof

/-- Insert a result write in the order of R44: engine results by issue, then strand writes by slot and strand. R44 does not say which
results are an engine's: those of loads, copies and the vector unit are; those of scalar instructions are the strand's, two of one
strand in issue order. DEDUCED, log entry 46. -/
def wrBefore (a b : RegWrite) : Bool :=
  if a.engine != b.engine then a.engine
  else if a.engine then decide (a.seq < b.seq)
  else if a.slot ≠ b.slot then decide (a.slot < b.slot)
  else if a.k ≠ b.k then decide (kindNo a.k < kindNo b.k)
  else decide (a.seq < b.seq)

def insertWr (a : RegWrite) : List RegWrite → List RegWrite
  | [] => [a]
  | b :: t => if wrBefore a b then a :: b :: t else b :: insertWr a t

/-- RESULT_WRITEBACK (R44, R93, R151): the results of a cell that are due in this clk land. -/
def execResultWriteback (cell : Nat) (s : State) : Out :=
  if !s.landing then .next s
  else
    let go (w : RegWrite) : Bool := decide (w.due ≤ s.clk) && !w.resumed
    let due := ((s.cell cell).wr.filter go).foldl (fun l w => insertWr w l) []
    .next (due.foldl (fun t w => landWrite cell w t)
      (s.updCell cell fun x => { x with wr := x.wr.filter fun w => !go w }))

/-- SLATE_LANDING (R224): the slate entries of resumed tasks that are due land with this clk's results. -/
def execSlateLanding (cell : Nat) (s : State) : Out :=
  if !s.landing then .next s
  else .next (s.updCell cell fun x =>
    { x with wr := x.wr.map fun w => if w.resumed && decide (w.due ≤ s.clk) then { w with resumed := false } else w })

/-! ## Accesses perform (R116) -/

/-- The die whose RDCs CINV and FENCE name for an agent: its own, or all for a conductor (R121, R249). -/
def rdcDies (a : Agent) : List Nat := match agentDie a with | some d => [d] | none => List.range 8

/-- CINV performs. -/
def performCinv (a : Acc) (extent : Nat) (s : State) : State :=
  match extent, a.elems with
  | 0, e :: _ =>
    match e.loc with
    | .mem pa _ => finishAcc a { s with rdc := s.rdc.filter fun r =>
        !((rdcDies a.agent).contains r.die && r.ctx == a.ctx && r.pa / 256 == pa / 256) }
    | _ => finishAcc a s
  | 1, _ => finishAcc a ((rdcDies a.agent).foldl (fun t d => rdcBump a.ctx d t) s)
  | _, _ => finishAcc a (rdcBumpAll a.ctx s)

/-- FENCE performs: a full or acquire fence of package or group scope bumps the die's RDC generation (R124). -/
def performFence (a : Acc) (kind : Nat) (s : State) : State :=
  finishAcc a (if kind ≤ 1 then acquireBump a.agent a.ctx a.scope s else s)

/-- MCST is sent to the members of its set: the own store performs, unless it would leave part of a bad word (R384); absent members
answer with a failure at once (R138, R346). -/
def sendMcst (a : Acc) (members : Nat) (s : State) : State :=
  let self := s.selfIdx
  let own := a.elems.drop 1
  let ea := match a.elems with | e :: _ => e.va | [] => 0
  let others := (setBits 64 members).filter (· != self)
  let here := others.filter (memberPresent s a.ctx)
  let qual := if a.rel then 1 else 0
  let bad := (accBadPart s { a with elems := own }).isSome
  let s1 := if bad || own.isEmpty then s else spoilSrc a (storeElems a own s)
  let ownDone := if bit members self && !bad then 2 ^ self else 0
  let answered := (if bit members self then 2 ^ self else 0) + ofBits (others.filter fun m => !memberPresent s a.ctx m)
  { s1 with
    outbox := s1.outbox ++ here.map fun m =>
      .request m ⟨self, a.id, (s.ctxOf a.ctx).groupId, ea, .mcst, a.size, a.cls, qual, a.x, a.d⟩
    accs := s1.accs.map fun q => if q.id = a.id then
      { q with sent := true, kind := .mcst members ownDone, x := BitVec.ofNat 64 answered
               ports := here.map fun m => (m, facetRoute s m a.cls) } else q }

/-- A record's bytes, as its bypass load returns them, word by word (R173). -/
def recordBits (s : State) (a : Acc) : Nat :=
  a.elems.foldr (fun e v => e.got.getD (locRead s e.loc 8) + 2 ^ 64 * v) 0

/-- THND.LD performs: the descriptor is read and checked; every fault of it is precise (R173). -/
def performThnd (a : Acc) (h : Nat) (s : State) : State :=
  match accBad s a with
  | some (code, va) => preciseLate a fUncorrectable va (BitVec.ofNat 64 code) s
  | none =>
    let d : Desc := BitVec.ofNat 512 (recordBits s a)
    if !Desc.valid d then preciseLate a fTileDescriptor a.x 0 s
    else match a.agent with
      | .strand c k _ => finishAcc a (if a.orphan then s else s.updSlot c k fun y => { y with h := Tab.set h d y.h })
      | .cond _ => finishAcc a s

/-- QPUSH performs when its record stands in the queue (R206, R300, R303); its record is read by a bypass load, whose bad data fault
precisely (R117, R384). -/
def performQpush (a : Acc) (sel : Nat) (s : State) : State :=
  let die := sel / 8 % 8
  let q := sel % 8
  match accBad s a with
  | some (code, va) => preciseLate a fUncorrectable va (BitVec.ofNat 64 code) s
  | none =>
    if bit s.err.fencedDies die then refuseAcc a (lateFault a 1 fLaunchRefused a.x 0x000C 0 s)
    else if !bit ((s.ctxOf a.ctx).qbind / 256 ^ die % 256) q then refuseAcc a (lateFault a 1 fLaunchRefused a.x 0x0108 0 s)
    else
      let dq := s.dieq die q
      if 32 ≤ dq.count then s
      else
        let r := recordBits s a
        let r := r - bits r 39 32 * 2 ^ 32 + a.ctx * 2 ^ 32
        let s1 := s.updDieq die q fun y => { y with tail := y.tail + 1, recs := y.recs ++ [⟨BitVec.ofNat 512 r, (agentDie a.agent).isSome⟩] }
        finishAcc a (deliver a.dst (BitVec.ofNat 64 (dq.tail.toNat % 32)) a.id s1)

/-- An arrival of a cell at a barrier (R208): the generation it is recorded in goes to ARRG and to sD. DEDUCED, log entry 15. -/
def performBara (a : Acc) (n : Nat) (s : State) : State :=
  match a.agent with
  | .strand c k _ =>
    let g := ((s.ctxOf a.ctx).barrier n).g
    let s1 := s.updCtx a.ctx fun x =>
      let b := x.barrier n
      { x with barriers := Tab.set n { b with arr := Tab.set c (Tab.get 0 c b.arr + 1) b.arr } x.barriers }
    let s2 := if a.orphan then s1 else s1.updSlot c k fun y => { y with arrg := Tab.set n g y.arrg }
    finishAcc a (deliver a.dst (BitVec.ofNat 64 g.toNat) a.id s2)
  | .cond _ => finishAcc a s

/-- BARM is recorded at the hub: at once where the generation has no arrival, otherwise when it completes (R209). -/
def performBarm (a : Acc) (n mask quota : Nat) (s : State) : State :=
  finishAcc a (s.updCtx a.ctx fun x =>
    let b := x.barrier n
    let b := if b.arr.all fun (_, v) => v = 0 then { b with members := mask, quota := quota, pending := none }
      else { b with pending := some (mask, quota) }
    { x with barriers := Tab.set n b x.barriers })

/-- A collective ends with a status, one of the 256 that the engine keeps (R210, R364). -/
def endColl (ctx ticket st : Nat) (s : State) : State :=
  s.updCtx ctx fun x =>
    { x with colls := x.colls.filter fun c => c.ticket != ticket, statuses := ((ticket, st) :: x.statuses).take 256 }

/-! ## Descriptors (R363) -/

/-- `n` bytes at an offset of a collective descriptor. -/
def collField (d : BitVec 512) (o n : Nat) : Nat := d.toNat / 256 ^ o % 256 ^ n

def collOp (d : BitVec 512) : Nat := collField d 0 1
def collType (d : BitVec 512) : Nat := collField d 1 1
def collRed (d : BitVec 512) : Nat := collField d 2 1
def collMembers (d : BitVec 512) : Nat := collField d 8 8
def collSrc (d : BitVec 512) : Word := BitVec.ofNat 64 (collField d 0x10 8)
def collDst (d : BitVec 512) : Word := BitVec.ofNat 64 (collField d 0x18 8)
def collCount (d : BitVec 512) : Nat := collField d 0x20 8
def collTag (d : BitVec 512) : Nat := collField d 0x28 4

/-- Bytes of an element. -/
def collWidth (d : BitVec 512) : Nat := (ETy.ofCode (collType d)).width / 8

/-- The members of a collective but one. -/
def collOthers (d : BitVec 512) (self : Nat) : List Nat := (setBits 64 (collMembers d)).filter fun m => m != self

/-- Number of members. -/
def collSize (d : BitVec 512) : Nat := popCount 64 (collMembers d)

/-- Rank of a member: its place among MEMBERS. -/
def collRank (d : BitVec 512) (m : Nat) : Nat := popCount m (collMembers d % 2 ^ m)

/-- Elements that SRC holds and that DST receives. -/
def collSrcLen (d : BitVec 512) : Nat := if collOp d = 3 then collSize d * collCount d else collCount d
def collDstLen (d : BitVec 512) : Nat := if collOp d = 2 then collSize d * collCount d else collCount d

/-- The descriptor obeys R363 in a context of member `self`. -/
def collValid (s : State) (ctx : Nat) (d : BitVec 512) : Bool :=
  let x := s.ctxOf ctx
  let w := collWidth d
  let sb := w * collSrcLen d
  let db := w * collDstLen d
  let sa := (collSrc d).toNat
  let da := (collDst d).toNat
  (collOp d == 1 || collOp d == 2 || collOp d == 3)
    && (if collOp d = 2 then collType d == 13 && collRed d == 0
        else [0, 1, 2, 7, 11].contains (collType d) && decide (collRed d ≤ 2))
    && collField d 3 5 == 0 && collField d 0x2C 20 == 0
    && collMembers d &&& x.gmask == collMembers d && bit (collMembers d) x.self
    && decide (1 ≤ collCount d) && decide (collCount d ≤ 2 ^ 32)
    && sa % w == 0 && da % w == 0 && inHeap s ctx (collSrc d) sb && inHeap s ctx (collDst d) db
    && ((collOp d == 1 && sa == da) || decide (sa + sb ≤ da) || decide (da + db ≤ sa))

/-- COLL is accepted by the collective engine (R210), and announced to the other members (R364). -/
def performColl (a : Acc) (s : State) : State :=
  let x := s.ctxOf a.ctx
  if 16 ≤ x.openColls then s
  else
    let t := x.tickets % 2 ^ 32
    let d : BitVec 512 := BitVec.ofNat 512 (recordBits s a)
    let c : Coll := { ticket := t, desc := d, agent := a.agent }
    let s1 := s.updCtx a.ctx fun x => { x with tickets := x.tickets + 1, colls := x.colls ++ [c] }
    let s2 := if (accBad s a).isSome then endColl a.ctx t 3 s1
      else if collValid s a.ctx d then
        (collOthers d x.self).foldl (fun u m => postPacket (.collAnnounce m a.ctx d) u) (s1.updCtx a.ctx fun x =>
          { x with unsettled := x.unsettled ++ [(t, (collSrc d, collWidth d * collSrcLen d), (collDst d, collWidth d * collDstLen d))] })
      else s1
    finishAcc a (deliver a.dst (BitVec.ofNat 64 t) a.id s2)

/-- The status of a ticket, if COLLW may return it (R210). -/
def ticketStatus (x : Ctx) (t : Nat) : Option Nat :=
  match x.colls.find? fun c => c.ticket == t with
  | some _ => none
  | none => match x.statuses.find? fun q => q.1 == t with
    | some (_, v) => some v
    | none => some 0xFFFF

/-- COLLW returns when its collective has completed. DEDUCED, log entry 37. -/
def performCollw (a : Acc) (t : Nat) (s : State) : State :=
  match ticketStatus (s.ctxOf a.ctx) t with
  | none => s
  | some v => finishAcc a (deliver a.dst (BitVec.ofNat 64 v) a.id (acquireBump a.agent a.ctx 3 (s.updCtx a.ctx fun x =>
      { x with unsettled := x.unsettled.filter fun q => q.1 != t })))

/-- IFLUSH performs: a cell's later fetches see every store performed so far (R75, R219). A conductor has no prefetched words to discard.
DESIGN CHOICE, log entry 58. -/
def performIflush (a : Acc) (s : State) : State :=
  match a.agent with
  | .strand c _ _ => finishAcc a (s.updCell c fun x => { x with flushedOwn := s.oldWords.length })
  | .cond _ => finishAcc a s

/-- An operation of a context that has left the Prism takes PRISM_EXIT and does not perform (R28, R357). -/
def leftPrism (a : Acc) (s : State) : State :=
  let ea := match a.elems with | e :: _ => e.va | [] => 0
  refuseAcc a (lateFault a 1 fPrismExit ea 0 0 s)

/-- BLD reads the own replica, unless it is being copied (R142, R351). -/
def performBld (a : Acc) (s : State) : State :=
  if !prismMember s a.ctx then leftPrism a s
  else if s.prism.copying then s
  else
    let v := match a.elems with | e :: _ => extendTo 64 a.size (locRead s e.loc (sizeBytes a.size)) | [] => 0
    finishAcc a (deliver a.dst (BitVec.ofNat 64 v) a.id (if a.acq then acquireBump a.agent a.ctx 3 s else s))

/-- Operations in the λ0 send queue, which holds 64 beside the control frames (R354). -/
def queuedOps (s : State) : Nat := (s.prism.sendq.filter fun q => q.1 != 0).length

/-- Whether an access is a BST or a BAMO that has not entered the send queue. -/
def Acc.toPrism (a : Acc) : Bool := !a.sent && match a.kind with | .bst _ => true | .bamo _ => true | _ => false

/-- BST and BAMO enter the λ0 send queue in issue order, but for those whose order or release condition does not hold yet (R354). -/
def enterPrism (a : Acc) (s : State) : State :=
  if !prismMember s a.ctx then leftPrism a s
  else if 64 ≤ queuedOps s || s.accs.any (fun b => b.toPrism && decide (b.id < a.id) && mayPerform s b) then s
  else
  let frame (op : Nat) (v : Word) : Frame :=
    let off := match a.elems with | e :: _ => (match e.loc with | .prism o => o | _ => 0) | [] => 0
    { place := 0, kind := if op = 0xFF then 1 else 2, sender := s.prism.self, epoch := s.prism.epoch, op := if op = 0xFF then 0 else op
      size := a.size, offset := off, data := v, time := 0 }
  let f := match a.kind with | .bamo op => frame op a.x | _ => frame 0xFF a.d
  { s with
    prism := { s.prism with sendq := s.prism.sendq ++ [(a.id, f)] }
    accs := s.accs.map fun q => if q.id = a.id then { q with sent := true } else q }

/-- The reply of a load returns the parked slot to RUN, its ready ages starting from 0 (R49). -/
def unpark (a : Acc) (s : State) : State :=
  match a.agent with
  | .strand c k _ => s.updSlot c k fun y =>
      if y.parkSeq = some a.id then
        { y with parkSeq := none, st := if y.st = .parked then .run else y.st
                 s := { y.s with age := 0 }, a := { y.a with age := 0 }, x := { y.x with age := 0 }, w := { y.w with age := 0 } }
      else y
  | .cond _ => s

/-- A peer access that has failed, at the peer or on its way: PEER_REMOTE with a cause; a parked slot runs again, and the access does not
perform (R28, R136, R345). -/
def peerFailed (a : Acc) (ea : Word) (cause : Nat) (w : Word) (s : State) : State :=
  refuseAcc a (unpark a (lateFault a 1 fPeerRemote ea (BitVec.ofNat 64 cause) w s))

/-- A peer access that may go is sent, unless a Mirror PREPARE or a suspend holds the package (R345, R347, R392) or its route has just been
replaced (R342); a member that is absent answers at once, and so does a package with no port in service. -/
def goPeer (a : Acc) (m : Nat) (ea : Word) (s : State) : State :=
  if a.sent || s.mirHold || !sending s then s
  else if !memberPresent s a.ctx m then peerFailed a ea 1 0 s
  else if m == s.selfIdx then sendPeer a m ea s
  else if !portUp s (facetRoute s m a.cls) then peerFailed a ea 2 0 s
  else if !routeClear s m a.cls then s
  else sendPeer a m ea s

/-- Whether an MCST may be sent: neither a Mirror PREPARE nor a suspend holds the package, and no route to one of its members has just been
replaced (R342, R347, R392). -/
def mcstMay (s : State) (a : Acc) (members : Nat) : Bool :=
  (mcstPeers s a.ctx members).isEmpty
    || (!s.mirHold && sending s && (mcstPeers s a.ctx members).all fun m => routeClear s m a.cls)

/-- ACCESS_PERFORM (R116, R258): an access whose earlier accesses allow it performs, at its home or as it is served.
DESIGN CHOICE, log entry 40. -/
def execAccessPerform (id : Nat) (src : Src) (s : State) : Out :=
  if s.landing then .next s
  else
    match s.acc id with
    | none => .next s
    | some a =>
      if !mayPerform s a || !travelled s a src then .next s
      else
        match a.kind, a.peerOf with
        | .mcst members _, _ => .next (if a.sent || !mcstMay s a members then s else sendMcst a members s)
        | .ldnb _, none => .next (if a.sent then performLoad a .home s else s)
        | .ldnb _, some _ => .next s
        | .stat _, none => .next s
        | _, some (m, ea) => .next (goPeer a m ea s)
        | .load, none => .next (performLoad a src s)
        | .vload, none => .next (performLoad a src s)
        | .store, none => .next (performStore a s)
        | .vstore, none => .next (performStore a s)
        | .amo _, none => .next (performRmw a s)
        | .cas, none => .next (performRmw a s)
        | .fence kind _, none => .next (performFence a kind s)
        | .cinv extent, none => .next (performCinv a extent s)
        | .bst _, none => .next (if a.sent then s else enterPrism a s)
        | .bamo _, none => .next (if a.sent then s else enterPrism a s)
        | .bld, none => .next (performBld a s)
        | .qpush sel, none => .next (performQpush a sel s)
        | .coll, none => .next (performColl a s)
        | .collw t, none => .next (performCollw a t s)
        | .thnd h, none => .next (performThnd a h s)
        | .bara n, none => .next (performBara a n s)
        | .barm n mask quota, none => .next (performBarm a n mask quota s)
        | .iflush, none => .next (performIflush a s)
        | .semw _, none => .next s
        | .launch, none => .next s
        | .tlbi _ _ _, none => .next s

/-! ## Peers (R136, R345) -/

/-- The status bitmap of an MCST after the answer of member `m` (R138). -/
def mcstAnswer (a : Acc) (members acked : Nat) (m : Nat) (ok : Bool) (s : State) : State :=
  { s with accs := s.accs.map fun q => if q.id = a.id then
      { q with kind := .mcst members (if ok then acked ||| 2 ^ m else acked), x := BitVec.ofNat 64 (q.x.toNat ||| 2 ^ m) } else q }

/-- A time-tagged store that came late, as its home reports it (R133). -/
def Acc.lateAt (a : Acc) (va : Word) : LateStore := ⟨a.id, a.agent, a.ctx, a.fpc, va, a.orphan⟩

/-- Whether an access awaits an answer of member `m` (R136, R138). -/
def Acc.awaits (a : Acc) (m : Nat) : Bool :=
  a.sent && match a.kind with
    | .mcst members _ => bit members m
    | _ => a.peerOf.all fun q => q.1 == m

/-- REMOTE_REPLY (R136, R138): the answer of member `m` arrives. DESIGN CHOICE, log entry 36. -/
def execRemoteReply (id : Nat) (q : MemberRes) (s : State) : Out :=
  let m := q.member
  let r := q.res
  if s.landing then .next s
  else
    match s.acc id with
    | none => .next s
    | some a =>
      if !a.awaits m then .next s
      else
        match a.kind, a.peerOf, r with
        | .mcst members acked, _, r => .next (mcstAnswer a members acked m (match r with | .done _ _ => true | _ => false) s)
        | .stat t, some (_, ea), .done _ late =>
          let s1 := if late then { s with late := s.late ++ [a.lateAt ea] } else s
          .next (finishAcc a (let _ := t; s1))
        | .store, some _, .done _ _ => .next (finishAcc a s)
        | _, some _, .done old _ =>
          let s1 := if a.acq then acquireBump a.agent a.ctx a.scope s else s
          .next (finishAcc a (unpark a (deliver a.dst (BitVec.ofNat 64 (extendTo 64 a.size old.toNat)) a.id s1)))
        | _, some (_, ea), .failed cause w => .next (peerFailed a ea cause w s)
        | _, _, _ => .next s

/-- MCST_COMPLETE (R138): every member has answered. -/
def execMcstComplete (id : Nat) (s : State) : Out :=
  if s.landing then .next s
  else
    match s.acc id with
    | none => .next s
    | some a =>
      match a.kind with
      | .mcst members acked =>
        if !a.sent || a.x.toNat ||| members != a.x.toNat then .next s
        else
          let ea := match a.elems with | e :: _ => e.va | [] => 0
          let s1 := finishAcc a (putAsync a.dst (BitVec.ofNat 64 acked) a.id s)
          .next (if acked = members then s1
            else lateFault a 2 fMulticastPartial ea (BitVec.ofNat 64 acked) (BitVec.ofNat 64 members) s1)
      | _ => .next s

/-- Answer a peer. -/
def reply (m num : Nat) (r : PeerRes) (s : State) : State := postPacket (.reply m num r) s

/-- The access kind by which a peer's access translates (R321). -/
def peerTransKind : PeerOp → Nat
  | .load => 0 | .store => 1 | .amo _ => 2 | .cas => 2 | .stat _ => 1 | .mcst => 1 | .tile _ _ _ _ => 0

/-- A home that holds a time-tagged store recalls the line from every L1 (R131). -/
def recallHeld (l : List Elem) (s : State) : State :=
  l.foldl (fun t e => match e.loc with | .mem pa _ => t.recallL1 (pa / 256 * 256) 256 | _ => t) s

/-- PEER_ACCESS_ARRIVE (R244, R345): translated under the resident context with the GROUPID, the access performs at its home; a tile is
served by its home once no drain of it is under way. DESIGN CHOICE, log entry 36. -/
def execPeerAccessArrive (m : PeerReq) (s : State) : Out :=
  if s.landing then .next s
  else
    match s.ctxs.find? fun (_, x) => x.st == .live && x.gmask != 0 && x.groupId == m.groupId with
    | none => .next (reply m.src m.num (.failed 5 0) s)
    | some (n, x) =>
      if !bit x.gmask m.src then .next (reply m.src m.num (.failed 1 0) s)
      else match m.op with
      | .tile tid coord desc want =>
        match serveTile n tid coord desc want 8 s with
        | some (r, s) => .next (reply m.src m.num r s)
        | none => .next s
      | _ =>
        let kind := peerTransKind m.op
        let w := sizeBytes m.size
        match translateHub n m.ea kind true s with
        | (.bad c l, s) => .next (reply m.src m.num (.failed 3 (causeWord c l kind)) s)
        | (.wait, s) => .next s
        | (.hit t, s) =>
          let pa := t.phys m.ea
          let l : Loc := .mem pa t.key
          let answer (old : Nat) (late : Bool) (s : State) : State := reply m.src m.num (.done (BitVec.ofNat 64 old) late) s
          let bad := match m.op with | .store => s.badPart pa w | .mcst => s.badPart pa w | .stat _ => s.badPart pa w | _ => s.badAt pa w
          if bad.isSome then .next (reply m.src m.num (.failed 4 0) s)
          else
            match m.op with
            | .load => .next (answer (locRead s l w) false s)
            | .store => .next (answer 0 false (s.memWrite 0 pa w m.d.toNat t.key))
            | .mcst => .next (answer 0 false (s.memWrite 0 pa w m.d.toNat t.key))
            | .tile _ _ _ _ => .next s
            | .amo op =>
              let old := locRead s l w
              .next (answer old false (s.memWrite 0 pa w (amoNew op w old (m.x.toNat % 2 ^ (8 * w))) t.key))
            | .cas =>
              let old := locRead s l w
              .next (answer old false (if old = m.x.toNat % 2 ^ (8 * w) then s.memWrite 0 pa w m.d.toNat t.key else s))
            | .stat v =>
              if v.toNat < (s.dieRt (homeDie pa)).toNat then .next (answer 0 true (s.memWrite 0 pa w m.d.toNat t.key))
              else
                let el : List Elem := [{ loc := l, va := m.ea, lane := 0, data := m.d.toNat }]
                .next (answer 0 false (recallHeld el { s with
                  seq := s.seq + 1
                  held := s.held ++ [{ id := s.seq, agent := none, ctx := n, size := m.size, t := v, die := homeDie pa, elems := el }] }))

/-! ## Time-tagged accesses (R131 to R133) -/

/-- Home die of an access's first element. -/
def Acc.home (a : Acc) : Nat :=
  match a.elems with
  | e :: _ => match e.loc with | .mem pa _ => homeDie pa | _ => 8
  | [] => 8

/-- The Reticle reading at a home: a die's, or the hub's for a conductor's own memory. -/
def State.homeRt (s : State) (d : Nat) : Word := if d < 8 then s.dieRt d else s.rt

/-- TIME_TAGGED_STORE_ACCEPT (R131): the home holds the store, or performs it at once when it is late. -/
def execTimeTaggedStoreAccept (id : Nat) (s : State) : Out :=
  if s.landing then .next s
  else
    match s.acc id with
    | none => .next s
    | some a =>
      match a.kind, a.peerOf with
      | .stat t, none =>
        if !mayPerform s a || !travelled s a .home then .next s
        else
          match accBadPart s a with
          | some (code, va) => .next (refuseAcc a (lateFault a 1 fUncorrectable va (BitVec.ofNat 64 code) 0 s))
          | none =>
            if t.toNat < (s.homeRt a.home).toNat then
              let va := match a.elems with | e :: _ => e.va | [] => 0
              let s1 := (storeElems a a.elems s).healSpans a.spans
              .next (finishAcc a { s1 with late := s1.late ++ [a.lateAt va] })
            else
              .next (finishAcc a (recallHeld a.elems { s with
                held := s.held ++ [{ id := a.id, agent := some a.agent, ctx := a.ctx, elems := a.elems
                                     size := a.size, t := t, die := a.home }] }))
      | _, _ => .next s

/-- A held store as an access of its agent. -/
def Held.asAcc (h : Held) : Acc :=
  { id := h.id, agent := match h.agent with | some a => a | none => .cond 0, ctx := h.ctx, kind := .store, cls := 0, scope := 2
    size := h.size, elems := h.elems }

/-- HELD_STORE_PERFORM (R131): the store performs when the home's Reticle reads T, in the order of arrival for one T.
DEDUCED, log entry 30. -/
def execHeldStorePerform (id : Nat) (s : State) : Out :=
  if s.landing then .next s
  else
    match s.held.find? fun h => h.id == id with
    | none => .next s
    | some h =>
      let before := s.held.takeWhile fun g => g.id != id
      if (s.homeRt h.die).toNat < h.t.toNat || before.any (fun g => g.die == h.die && g.t == h.t)
          || s.held.any (fun g => g.die == h.die && decide (g.t.toNat < h.t.toNat)) then .next s
      else
        let s1 := { s with held := s.held.filter fun g => g.id != id }
        let a := h.asAcc
        .next (match h.agent with
          | some _ => (storeElems a h.elems s1).healSpans a.spans
          | none => h.elems.foldl (fun t e => match e.loc with
            | .mem pa key => t.memWrite 0 pa (sizeBytes h.size) e.data key
            | _ => t) s1)

/-- LATE_STORE_REPORT (R133): the lateness reaches the issuing package; the record of MISSED_DEADLINE names the store (R226). -/
def execLateStoreReport (id : Nat) (s : State) : Out :=
  if s.landing then .next s
  else
    match s.late.find? fun q => q.id == id with
    | none => .next s
    | some q =>
      let s1 := { s with late := s.late.filter fun r => r.id != id }
      if bit (s.ctxOf q.ctx).latectl.toNat 0 then
        .next (if q.orphan then s1
          else report { agent := q.agent, kind := 2, code := fMissedDeadline, fpc := q.fpc, addr := q.va, aux := 0, aux2 := 0 } s1)
      else
        .next (s1.updCtx q.ctx fun x =>
          { x with latectl := x.latectl ||| 2, latecnt := if x.latecnt.toNat = 2 ^ 32 - 1 then x.latecnt else x.latecnt + 1 })

/-- LDNB_RELEASE (R132): RT has reached x, and the load goes on to its home or to its peer. -/
def execLdnbRelease (id : Nat) (s : State) : Out :=
  if s.landing then .next s
  else
    match s.acc id with
    | none => .next s
    | some a =>
      match a.kind with
      | .ldnb x =>
        if a.sent || (s.rtOf a.agent).toNat < x.toNat || !mayPerform s a then .next s
        else
          match a.peerOf with
          | some (m, ea) => .next (goPeer a m ea s)
          | none => .next { s with accs := s.accs.map fun q => if q.id = id then { q with sent := true } else q }
      | _ => .next s

/-- SEMAPHORE_WAKE (R207): a waiting SEMW reads a value that meets its target. DEDUCED, log entry 37. -/
def execSemaphoreWake (id : Nat) (s : State) : Out :=
  if s.landing then .next s
  else
    match s.acc id with
    | none => .next s
    | some a =>
      match a.kind, a.elems with
      | .semw target, e :: _ =>
        if !mayPerform s a || !travelled s a .home then .next s
        else
          match accBad s a with
          | some (code, va) => .next (preciseLate a fUncorrectable va (BitVec.ofNat 64 code) s)
          | none =>
            let v : Word := BitVec.ofNat 64 (locRead s e.loc 8)
            if (v - target).toInt < 0 then .next s
            else .next (finishAcc a (deliver a.dst v a.id (acquireBump a.agent a.ctx 2 s)))
      | _, _ => .next s

/-- BARRIER_GENERATION_COMPLETE (R208, R209, R285): every member cell has made its quota of arrivals. -/
def execBarrierGenerationComplete (ctx n : Nat) (s : State) : Out :=
  if s.landing then .next s
  else
    let b := (s.ctxOf ctx).barrier n
    let members := setBits 128 (b.members &&& (2 ^ 128 - 1 - s.err.fencedCells % 2 ^ 128))
    if members.isEmpty || members.any (fun c => decide (Tab.get 0 c b.arr < b.quota)) then .next s
    else
      let arr := b.arr.map fun (c, v) => (c, if bit b.members c then v - b.quota else v)
      let b1 : Barrier := { b with g := b.g + 1, arr := arr.filter fun q => q.2 != 0 }
      let b2 := match b.pending with
        | some (m, q) => { b1 with members := m, quota := q, pending := none }
        | none => b1
      .next (s.updCtx ctx fun x => { x with barriers := Tab.set n b2 x.barriers })

/-! ## The copy engine (R143 to R145, R333) -/

/-- The queue of a copy site: a cell, or conductor `site - 128`. -/
def siteQueue (s : State) (site : Nat) : List CopyCmd :=
  if site < 128 then (s.cell site).copyq else (s.condOf (site - 128)).copyq

/-- Two agents act for one task, or are one conductor. -/
def sameTask (a b : Agent) : Bool :=
  match a, b with
  | .strand c k _, .strand c' k' _ => c == c' && k == k'
  | a, b => a == b

/-- The agent that the copy engine acts for; a command of a removed task has no slot. -/
def CopyCmd.mover (q : CopyCmd) : Agent :=
  match q.agent with
  | .strand c k x => .strand c (if q.orphan then 8 else k) x
  | .cond n => .cond n

/-- The places of [va, va + n) for an agent's copy command, page by page; or the refusal and its address. -/
def copyPlaces (a : Agent) (ctx kind : Nat) : List (Word × Nat) → State →
    Except (Nat × Nat × Word) (List (Loc × Nat)) × State
  | [], s => (.ok [], s)
  | (v, n) :: rs, s =>
    let own := match a with | .cond m => (condMem v).map fun o => Loc.cond m o | _ => none
    match own with
    | some l =>
      match copyPlaces a ctx kind rs s with
      | (.ok ls, s) => (.ok ((l, n) :: ls), s)
      | e => e
    | none =>
      let r := match a with
        | .strand c k _ => translateEngine { cell := c, slot := k, ctx := ctx, stream := if kind = 7 then 8 else 7 } v kind s
        | .cond _ => translateHub ctx v kind false s
      match r with
      | (.hit t, s) =>
        match copyPlaces a ctx kind rs s with
        | (.ok ls, s) => (.ok ((.mem (t.phys v) t.key, n) :: ls), s)
        | e => e
      | (.bad c l, s) => (.error (c, l, v), s)
      | (.wait, s) => (.error (0, 0, v), s)

/-- Bytes at places. -/
def readPlaces (s : State) (l : List (Loc × Nat)) : List Byte := l.flatMap fun (p, n) => leBytes n (locRead s p n)
/-- Write bytes at places. -/
def writePlaces (a : Agent) : List (Loc × Nat) → List Byte → State → State
  | [], _, s => s
  | (p, n) :: ps, l, s => writePlaces a ps (l.drop n) (locWrite a p n (leNat (l.take n)) s)
/-- Bad data at places, read whole or left in part. -/
def badPlaces (f : Nat → Nat → Option Nat) (l : List (Loc × Nat)) : Option Nat :=
  (l.filterMap fun (p, n) => match p with | .mem pa _ => f pa n | _ => none).head?

/-- The offset of the first difference of two lists. -/
def firstDiff : List Byte → List Byte → Nat → Option Nat
  | a :: as, b :: bs, i => if a = b then firstDiff as bs (i + 1) else some i
  | _, _, _ => none

/-- Replace a copy command. -/
def updCopy (q : CopyCmd) (f : CopyCmd → CopyCmd) (s : State) : State :=
  mapCopy q.agent (List.map fun r => if r.id = q.id then f r else r) s

/-- A copy command leaves its queue. -/
def dropCopy (q : CopyCmd) (s : State) : State := mapCopy q.agent (List.filter fun r => r.id != q.id) s

/-- A copy command reports its fault and stops until its task resumes (R145); one whose task has been killed leaves. -/
def copyFault (q : CopyCmd) (va aux2 : Word) (s : State) : State :=
  if q.orphan then dropCopy q s
  else
    report { agent := q.agent, kind := 1, code := fCopyEngine, fpc := q.fpc, addr := va, aux := BitVec.ofNat 64 q.off, aux2 := aux2 }
      (updCopy q (fun r => { r with stopped := true }) s)

/-- A copy command performs. -/
def copyDone (q : CopyCmd) (v : Word) (s : State) : State := putAsync q.dst v q.id (dropCopy q s)

/-- Bytes of the piece that a command has in progress. -/
def CopyCmd.pieceLen (q : CopyCmd) : Nat := min 256 (q.n - q.off)

/-- The piece in progress is the command's last. -/
def CopyCmd.lastPiece (q : CopyCmd) : Bool := decide (q.off + q.pieceLen = q.n)

/-- The place of byte `i` of a list of places. -/
def placeByte : List (Loc × Nat) → Nat → Option Loc
  | [], _ => none
  | (l, n) :: ps, i =>
    if i < n then some (match l with | .mem pa key => .mem (pa + i) key | .cond m o => .cond m (o + i) | l => l)
    else placeByte ps (i - n)

/-- Write the bytes of a piece at the listed offsets, each on its own (R250). -/
def writeMoved (a : Agent) (b : CopyBuf) (l : List Nat) (s : State) : State :=
  l.foldl (fun t i => match placeByte b.dst i with
    | some p => locWrite a p 1 ((b.bytes[i]?.getD 0).toNat) t
    | none => t) s

/-- Write what has not been written of a piece: one store of each word (R75). -/
def writePiece (a : Agent) (b : CopyBuf) (s : State) : State :=
  (if b.moved.isEmpty then writePlaces a b.dst b.bytes s
   else writeMoved a b ((List.range b.bytes.length).filter fun i => !b.moved.contains i) s).oneStore s.oldWords.length

/-- A piece whose bytes have been read, and for a copy written, is behind the command: the command's result where it was the last. -/
def copyPast (q : CopyCmd) (bs : List Byte) (s : State) : Option Word × State :=
  let sha := if q.lastPiece then shaFinish q.sha bs q.n else shaPiece q.sha bs
  if q.lastPiece then (some (match q.kind with | .cmp => 0 | _ => fingerprint sha), s)
  else (none, updCopy q (fun r => { r with off := q.off + q.pieceLen, sha := sha, buf := none }) s)

/-- The command may read, or write, as an access of its class at its place in its strand's order (R124, R145). -/
def copyMay (s : State) (q : CopyCmd) (write : Bool) : Bool :=
  mayPerform s { id := q.id, agent := q.agent, ctx := q.ctx, kind := if write then .store else .load, cls := q.cls, scope := q.scope }

/-- Read the piece at the command's offset, both sides translated and checked (R145, R333); or its fault. -/
def copyRead (q : CopyCmd) (s : State) : Except State CopyBuf × State :=
  let o : Word := BitVec.ofNat 64 q.off
  let cause (kind : Nat) (e : Nat × Nat × Word) : Word := causeWord e.1 e.2.1 kind
  match copyPlaces q.mover q.ctx 6 (pageRuns (q.b + o) q.pieceLen) s with
  | (.error e, s) => (.error (copyFault q e.2.2 (cause 6 e) s), s)
  | (.ok src, s) =>
    let dk := if q.kind == .cmp then 6 else 7
    match (if q.kind == .hash then (.ok [], s) else copyPlaces q.mover q.ctx dk (pageRuns (q.a + o) q.pieceLen) s) with
    | (.error e, s) => (.error (copyFault q e.2.2 (cause dk e) s), s)
    | (.ok dst, s) =>
      let bad := match badPlaces s.badAt src with
        | some c => some (c, q.b + o)
        | none => (badPlaces (if q.kind == .cmp then s.badAt else s.badPart) dst).map fun c => (c, q.a + o)
      match bad with
      | some (c, va) => (.error (copyFault q va (badWord c) s), s)
      | none => (.ok { bytes := readPlaces s src, dst := dst }, s)

/-- Take a piece whose bytes have been read as far as it may go: a comparison or a fingerprint is done with it, a copy writes it where
its class order lets it write, and else keeps it. -/
def copyMove (q : CopyCmd) (b : CopyBuf) (s : State) : Option Word × State :=
  match q.kind with
  | .cmp =>
    match firstDiff (readPlaces s b.dst) b.bytes 0 with
    | some i => (some (BitVec.ofNat 64 (1 + q.off + i)), s)
    | none => copyPast q b.bytes s
  | .hash => copyPast q b.bytes s
  | _ =>
    if copyMay s q true then copyPast q b.bytes (writePiece q.agent b s)
    else (none, updCopy q (fun r => { r with buf := some b }) s)

/-- One piece of a command: read if it has not been, then taken on; the command's result where it has come to its end. -/
def copyStep (q : CopyCmd) (s : State) : Option Word × State :=
  match q.out, q.buf with
  | some v, _ => (some v, s)
  | none, some b => copyMove q b s
  | none, none =>
    if !copyMay s q false then (none, s)
    else match copyRead q s with
      | (.error s, _) => (none, s)
      | (.ok b, s) => copyMove q b s

/-- Whether the engine may go on with a command of a site: the first of its task that has not performed, unless a fault has stopped it
or its task froze before it began (R145, R222). -/
def copyGo (s : State) (site : Nat) (q : CopyCmd) : Bool :=
  let first := ((siteQueue s site).takeWhile fun r => r.id != q.id).all fun r => r.orphan || !sameTask r.agent q.agent
  let froze := match q.agent with
    | .strand c k _ => (s.slot c k).st == .frozen && !q.begun
    | .cond _ => false
  !q.stopped && first && (!froze || q.orphan)

/-- COPY_PIECE (R145, R333): one piece of a command. -/
def execCopyPiece (site id : Nat) (s : State) : Out :=
  if s.landing then .next s
  else
    match (siteQueue s site).find? fun q => q.id == id with
    | none => .next s
    | some q =>
      if !copyGo s site q then .next s
      else
        match copyStep q s with
        | (some v, s) => .next (copyDone q v s)
        | (none, s) => .next s

/-! ## Bytes that arrive one by one (R43, R173, R250) -/

/-- Land the chosen bytes of a result of the asynchronous class before its instruction has performed (R43). -/
def landBytes (d : Dst) (off v mask seq : Nat) (s : State) : State :=
  match d with
  | .s c k x o => s.updCell c fun cl => { cl with wr := cl.wr ++ (setBits 8 mask).map fun i =>
      { seq := seq, slot := k, k := x, engine := true, interlock := false, slate := false, due := s.clk, off := o + i
        len := 1, mask := 1, val := v / 256 ^ i % 256 } }
  | .v c k o => s.updCell c fun cl => { cl with wr := cl.wr ++ (setBits 4 mask).map fun i =>
      { seq := seq, slot := k, k := .X, engine := true, interlock := false, slate := false, due := s.clk, off := o + off + i
        len := 1, mask := 1, val := v / 256 ^ i % 256 } }
  | .cond n r =>
    let old := (Tab.get 0 r (s.condOf n).regs).toNat
    let new := (List.range 8).foldr (fun i acc => (if bit mask i then v else old) / 256 ^ i % 256 + 256 * acc) 0
    s.updCond n fun y => { y with wr := y.wr ++ [(seq, r, BitVec.ofNat 64 new, s.clk)] }
  | .none => s

/-- Read one element of an access, which keeps the bytes it was read with. -/
def bindElem (a : Acc) (lane : Nat) (s : State) : State :=
  { s with accs := s.accs.map fun q => if q.id = a.id then
      { q with elems := q.elems.map fun e => if e.lane = lane && e.got.isNone then
          { e with got := some (locRead s e.loc (elemBytes a e)) } else e } else q }

/-- Bytes of an access arrive before it performs: of a vector load, whose elements are bound by then, the chosen bytes of a lane land
(R43); of a record read, a word is taken (R173); of an MCST all of whose members have answered, the chosen bytes of its bitmap land. -/
def landAcc (a : Acc) (lane mask : Nat) (s : State) : State :=
  if a.orphan || !mayPerform s a || !travelled s a .home || (accBad s a).isSome then s
  else
    match a.kind with
    | .vload =>
      match a.elems.find? fun e => e.lane == lane, a.dst with
      | some e, .v c k off =>
        landBytes (.v c k off) (4 * lane) (loadElem s a .home e 32) mask a.id (a.elems.foldl (fun t e => bindElem a e.lane t) s)
      | _, _ => s
    | .thnd _ => bindElem a lane s
    | .launch => bindElem a lane s
    | .qpush _ => bindElem a lane s
    | .coll => bindElem a lane s
    | .mcst members acked => if a.sent && a.x.toNat ||| members == a.x.toNat then landBytes a.dst 0 acked mask a.id s else s
    | _ => s

/-- Bytes of a copy command arrive one by one: of its piece in memory (`lane` 0, R250), or of its result once it has come to its end
(R43). -/
def landCopy (site : Nat) (q : CopyCmd) (lane mask : Nat) (s : State) : State :=
  if !copyGo s site q then s
  else if lane = 0 then
    match q.kind, q.buf with
    | .copy, some b => moved q b s
    | .copyFp, some b => moved q b s
    | _, some _ => s
    | .copy, none => fresh q s
    | .copyFp, none => fresh q s
    | _, none => s
  else if q.lastPiece || q.out.isSome then
    match copyStep q s with
    | (some v, s) => landBytes q.dst 0 v.toNat mask q.id (updCopy q (fun r => { r with out := some v }) s)
    | (none, s) => s
  else s
where
  /-- write the chosen bytes of a piece that has been read -/
  moved (q : CopyCmd) (b : CopyBuf) (s : State) : State :=
    if !copyMay s q true then s
    else
      let l := (setBits b.bytes.length mask).filter fun i => !b.moved.contains i
      updCopy q (fun r => { r with buf := some { b with moved := b.moved ++ l } }) ((writeMoved q.agent b l s).oneStore s.oldWords.length)
  /-- read the piece first -/
  fresh (q : CopyCmd) (s : State) : State :=
    if q.out.isSome || !copyMay s q false then s
    else match copyRead q s with
      | (.error s, _) => s
      | (.ok b, s) => moved q b s

/-! ## Faults after issue, and their records (R220, R226, R227) -/

/-- Whether an agent still exists to take a report: a conductor always does (R217). -/
def agentLive (s : State) (a : Agent) : Bool :=
  match a with
  | .strand c k _ => (s.slot c k).st != .free
  | .cond _ => true

/-- A report becomes a fault of its agent. -/
def takeReport (r : Report) (s : State) : State :=
  if agentLive s r.agent then
    takeFault r.agent { kind := r.kind, code := r.code, fpc := r.fpc, rpc := s.pcOf r.agent, addr := r.addr, aux := r.aux
                        aux2 := r.aux2, killOnly := r.killOnly } s
  else s

/-- FAULT_REPORT_AFTER_ISSUE (R220): the `k`-th report, of an engine, becomes a fault. -/
def execFaultReportAfterIssue (k : Nat) (s : State) : Out :=
  if s.landing then .next s
  else
    match s.reports[k]? with
    | some r =>
      if r.kind = 1 then .next (takeReport r { s with reports := s.reports.take k ++ s.reports.drop (k + 1) }) else .next s
    | none => .next s

/-- ASYNC_FAULT_RAISE (R117): the oldest asynchronous report of an agent is raised between two of its instructions. -/
def execAsyncFaultRaise (a : Agent) (s : State) : Out :=
  if s.landing then .next s
  else
    match s.reports.find? fun r => r.agent == a && r.kind == 2 with
    | some r =>
      let before := s.reports.takeWhile fun q => !(q.agent == a && q.kind == 2)
      .next (takeReport r { s with reports := before ++ s.reports.drop (before.length + 1) })
    | none => .next s

/-- The 64 bytes of a fault record (R226). -/
def FaultRec.toBits (f : FaultRec) : Nat :=
  f.code % 2 ^ 16 + f.sub % 2 ^ 8 * 2 ^ 16 + (if f.lock then 2 ^ 27 else 0) + f.cell % 128 * 2 ^ 28 + f.slot % 8 * 2 ^ 35
    + f.strand % 4 * 2 ^ 38 + f.kind % 4 * 2 ^ 40 + f.ctx % 64 * 2 ^ 42 + f.asid % 2 ^ 16 * 2 ^ 48
    + f.time.toNat * 2 ^ 64 + f.fpc.toNat * 2 ^ 128 + f.rpc.toNat * 2 ^ 192 + f.addr.toNat * 2 ^ 256
    + f.aux.toNat * 2 ^ 320 + f.aux2.toNat * 2 ^ 384 + f.seq % 2 ^ 64 * 2 ^ 448

/-- Write `n` bytes for the hub at a virtual address of a context (R227, R407): the state, or the failure's cause word. -/
def hubStore (ctx : Nat) (va : Word) (n v : Nat) (s : State) : Except (Nat × Word) State × State :=
  match translateHub ctx va 1 false s with
  | (.hit t, s) =>
    let pa := t.phys va
    match s.badPart pa n with
    | some c => (.error (fUncorrectable, badWord c), s)
    | none => (.ok (s.memWrite 0 pa n v t.key), s)
  | (.bad c l, s) => (.error (causeCode c, causeWord c l 1), s)
  | (.wait, s) => (.error (0, 0), s)

/-- FAULT_RECORD_WRITE (R226, R227). -/
def execFaultRecordWrite (ctx : Nat) (s : State) : Out :=
  if s.landing then .next s
  else
    let x := s.ctxOf ctx
    match x.held with
    | [] => .next s
    | f :: rest =>
      if x.st == .absent || x.blocked || 512 ≤ (x.fqtail - x.fqhead).toNat then .next s
      else
        match hubStore ctx (x.fqbase + BitVec.ofNat 64 (64 * (x.fqtail.toNat % 512))) 64 f.toBits s with
        | (.ok s, _) => .next (s.updCtx ctx fun x => { x with held := rest, fqtail := x.fqtail + 1 })
        | (.error (_, w), s) =>
          .next (hostEvent 0 0x24 0 (BitVec.ofNat 64 ctx) w (BitVec.ofNat 64 f.seq) 0 (s.updCtx ctx fun x => { x with blocked := true }))

/-! ## The end of a task (R16) -/

/-- Whether an operation of a task is outstanding. -/
def taskBusy (s : State) (c k : Nat) : Bool :=
  let x := s.cell c
  s.accs.any (fun a => !a.orphan && match a.agent with | .strand c' k' _ => c' == c && k' == k | _ => false)
    || x.copyq.any (fun q => !q.orphan && match q.agent with | .strand c' k' _ => c' == c && k' == k | _ => false)
    || s.late.any (fun q => !q.orphan && match q.agent with | .strand c' k' _ => c' == c && k' == k | _ => false)
    || x.ops.any (fun o => o.slot == k) || x.rows.any (fun o => o.slot == k) || x.wr.any (fun w => w.slot == k)
    || x.lensWr.any (fun w => w.slot == k)
    || s.reports.any fun r => match r.agent with | .strand c' k' _ => c' == c && k' == k | _ => false

/-- ENDING_COMPLETE (R16): the last engine operation of an ended task has performed, and its slot becomes FREE. -/
def execEndingComplete (cell slot : Nat) (s : State) : Out :=
  if s.landing then .next s
  else
    let y := s.slot cell slot
    if y.st ≠ .ending ∨ y.freezing.isSome = true ∨ taskBusy s cell slot = true then .next s
    else
      let s1 := s.updCell cell fun x => x.setSlot slot {}
      .next (countEnded y.recId none s1)

end Sys2Proof.Machine
end

