-- ==== Sys2Proof/Machine/Matrix.lean ====
section
/-! DEFINITION. The arithmetic of the matrix array (R69 to R71, R59), what it reads of its operands (R195), which rows an
operation reads and writes (R197, R198), and the conversion of an accumulator row into a tile row (R201). -/

namespace Sys2Proof.Machine

open Sys2Proof

/-! ## Operands (R69, R196) -/

/-- The two element formats of a TYPES code, as TYPE codes (R69, R79): the suffixes of R85 in code order 0 to 10. -/
def mmaTypes (t : Nat) : Nat × Nat :=
  match t with
  | 0 => (1, 1) | 1 => (2, 2) | 2 => (3, 3) | 3 => (3, 4) | 4 => (4, 3) | 5 => (4, 4) | 6 => (5, 5) | 7 => (6, 6)
  | 8 => (9, 9) | 9 => (10, 10) | _ => (9, 10)

/-- The group size of R69; 32 as the unit of the limits for integer TYPES (R196). -/
def mmaG (t : Nat) : Nat := if t ≤ 1 then 16 else 32

/-- Integer TYPES. -/
def mmaInt (t : Nat) : Bool := decide (8 ≤ t)

/-- Row and column of the tile that hold element `k` of operand row `x` (R196). -/
def mmaPlace (d : Desc) (x k : Nat) : Nat × Nat := if d.skdir = 0 then (x, k) else (k, x)

/-- Extent of a tile along its non-K dimension, and along K. -/
def Desc.nonK (d : Desc) : Nat := if d.skdir = 0 then d.tr else d.tc
def Desc.kExt (d : Desc) : Nat := if d.skdir = 0 then d.tc else d.tr

/-- Bit offset of an element in its tile (R57, R172). -/
def elemBit (d : Desc) (x k : Nat) : Nat := ((mmaPlace d x k).1 * d.tc + (mmaPlace d x k).2) * d.width

/-- Offset of the scale byte of an element's block in the scale tile (R60). -/
def scaleOff (d : Desc) (x k : Nat) : Nat := x * (d.kExt / d.block) + k / d.block

/-- The granules that an operation reads of an operand: those of its elements, and every scale granule of a scaled one. -/
def granulesRead (d : Desc) (n koff klen : Nat) : List Nat :=
  let gs := ((List.range n).flatMap fun x => (List.range klen).flatMap fun i =>
    let b := elemBit d x (koff + i)
    if b % 128 + d.width ≤ 128 then [b / 128] else [b / 128, b / 128 + 1])
  (List.range (d.tileBytes / 16)).filter gs.contains ++ (List.range (d.scaleBytes / 16)).map (scaleG + ·)

/-- A granule as the array reads it: as the write that first filled it left it, if it was empty at the issue (R195). -/
def readGranule (e : Entry) (snap : Tab Nat) (g : Nat) : Nat :=
  match Tab.find g snap with
  | some v => v
  | none => e.granule g

/-- The encoding of an operand element. -/
def elemOf (e : Entry) (snap : Tab Nat) (x k : Nat) : Nat :=
  let b := elemBit e.d x k
  let w := e.d.width
  let lo := readGranule e snap (b / 128)
  let v := if b % 128 + w ≤ 128 then lo else lo + 2 ^ 128 * readGranule e snap (b / 128 + 1)
  v / 2 ^ (b % 128) % 2 ^ w

/-- The scale byte of an operand element's block. -/
def scaleOf (e : Entry) (snap : Tab Nat) (x k : Nat) : Nat :=
  let o := scaleOff e.d x k
  readGranule e snap (scaleG + o / 16) / 256 ^ (o % 16) % 256

/-- A number of `w`-bit places from a function of the place. -/
def packBits (w n : Nat) (f : Nat → Nat) : Nat := (List.range n).foldr (fun i v => f i % 2 ^ w + 2 ^ w * v) 0

/-- The operands of an operation as the array reads them, captured at its acceptance. -/
def mmaCapture (m : MmaOp) (ea eb : Entry) : MmaData :=
  let el (e : Entry) (snap : Tab Nat) (n : Nat) : Nat :=
    packBits 16 (n * m.klen) fun p => elemOf e snap (p / m.klen) (m.koff + p % m.klen)
  let sc (e : Entry) (snap : Tab Nat) (n : Nat) : Nat :=
    if e.d.smode = 0 then 0 else packBits 8 (n * m.klen) fun p => scaleOf e snap (p / m.klen) (m.koff + p % m.klen)
  { ta := ea.d.etype, tb := eb.d.etype, sa := ea.d.smode, sb := eb.d.smode, ea := ea.d.texp, eb := eb.d.texp
    a := el ea m.snapA m.m, b := el eb m.snapB m.n, asc := sc ea m.snapA m.m, bsc := sc eb m.snapB m.n }

/-! ## The sums (R70, R71) -/

/-- The value of a scale byte: E8M0 under MX32, UE6M2 under FB16, 1 without scales (R59). -/
def scaleVal (smode v : Nat) : XR :=
  match smode with
  | 0 => .fin (Q.ofInt 1)
  | 1 => decodeF .e8m0 v
  | _ => decodeUE6M2 v

/-- Field `p` of `w` bits. -/
def fieldOf (v w p : Nat) : Nat := v / 2 ^ (w * p) % 2 ^ w

/-- val(A, i, k) and val(B, k, j) of R70. -/
def MmaData.av (d : MmaData) (klen i k : Nat) : XR :=
  mulX (decodeF (ETy.ofCode d.ta) (fieldOf d.a 16 (i * klen + k))) (scaleVal d.sa (fieldOf d.asc 8 (i * klen + k)))
def MmaData.bv (d : MmaData) (klen j k : Nat) : XR :=
  mulX (decodeF (ETy.ofCode d.tb) (fieldOf d.b 16 (j * klen + k))) (scaleVal d.sb (fieldOf d.bsc 8 (j * klen + k)))

/-- TA × TB of R70: the tensor factors under FB16. -/
def MmaData.factor (d : MmaData) : XR :=
  .fin (Q.pow2 1 ((if d.sa = 2 then d.ea else 0) + (if d.sb = 2 then d.eb else 0)))

/-- One element of C_out of a floating-point operation (R70). -/
def mmaFloat (m : MmaOp) (d : MmaData) (i j cin : Nat) : Nat :=
  let g := mmaG m.types
  (List.range (m.klen / g)).foldl (fun acc b =>
    let s := sumX ((List.range g).map fun q => mulX (d.av m.klen i (b * g + q)) (d.bv m.klen j (b * g + q)))
    roundFmt .f32 0 (addX 0 (decodeF .f32 acc) (mulX d.factor s))) cin

/-- One element of C_out of an integer operation (R71). -/
def mmaInteger (m : MmaOp) (d : MmaData) (i j cin : Nat) : Nat :=
  let dot := (List.range m.klen).foldl (fun (a : Int) k =>
    a + decodeI (ETy.ofCode d.ta) (fieldOf d.a 16 (i * m.klen + k)) * decodeI (ETy.ofCode d.tb) (fieldOf d.b 16 (j * m.klen + k))) 0
  wrap 32 ((cin : Int) + dot)

/-- One element of C_out, from the element of C_in; +0 stands for it under zero-init. -/
def mmaElem (m : MmaOp) (d : MmaData) (i j cin : Nat) : Nat :=
  let c := if m.mode = 1 then 0 else cin
  if mmaInt m.types then mmaInteger m d i j c else mmaFloat m d i j c

/-- How many rows an operation writes, and how many accumulator rows it reads (R197). -/
def MmaOp.rowsOut (m : MmaOp) : Nat := if m.mode = 2 then 128 else m.m
def MmaOp.rowsIn (m : MmaOp) : Nat := if m.mode = 1 then 0 else m.rowsOut
/-- The accumulator that it reads. -/
def MmaOp.accIn (m : MmaOp) : Nat := if m.mode = 2 then m.accB else m.accD
/-- D of R197. -/
def MmaOp.d (m : MmaOp) : Nat := mmaD m.types m.klen
/-- Whether it names a physical accumulator (R45). -/
def MmaOp.names (m : MmaOp) (acc : Nat) : Bool := m.accD == acc || (m.mode == 2 && m.accB == acc)

/-- The last clk in which a row of an accepted operation lands (R197, R199, R201). -/
def RowOp.lastRow (o : RowOp) : Nat :=
  match o.kind with
  | .mma m _ => o.start + 39 + m.d + m.rowsOut
  | .aclr _ => o.start + 129
  | .amov _ _ => o.start + 129
  | .adrn _ _ m _ _ _ _ => o.start + 5 + m

/-- The first clk in which every row of the accepted operations of a slot has landed: its task issues no earlier after a freeze (R222). -/
def Cell.rowsLanded (x : Cell) (k : Nat) : Nat :=
  let m1 := (x.rows.filter fun o => o.slot == k).foldl (fun n o => max n (o.lastRow + 1)) 0
  let m2 := (x.wr.filter fun w => w.slot == k && w.len == 512).foldl (fun n w => max n (w.due + 1)) m1
  (x.lensWr.filter fun w => w.slot == k).foldl (fun n w => max n (w.due + 1)) m2

/-- The clk in which a task that resumes now restarts (R222, R224). -/
def restartClk (s : State) (c k : Nat) : Nat := max (s.clk + 1) ((s.cell c).rowsLanded k)

/-- Row `i` of the result and the lanes written, from row `i` of C_in (R197, R198). -/
def mmaRow (m : MmaOp) (d : MmaData) (i cin : Nat) : Nat × Nat :=
  let inside (j : Nat) : Bool := decide (i < m.m) && decide (j < m.n)
  let v := ofLanes ((List.range 128).map fun j => if inside j then mmaElem m d i j (laneOf cin j) else laneOf cin j)
  (if m.mode = 2 then 2 ^ 128 - 1 else 2 ^ m.n - 1, v)

/-! ## ADRN (R201) -/

/-- The quotient of an exact value and a positive rational. -/
def divQ (x : XR) (q : Q) : XR := divX x (.fin q)

/-- emax of an element format (R201). -/
def emaxOf (t : ETy) : Int := match t with | .e4m3 => 8 | .e5m2 => 15 | .e3m2 => 4 | _ => 2

/-- The largest |x| over the finite values of a block; 0 if there are none. -/
def blockMax (l : List XR) : Q :=
  l.foldl (fun a x => match x with | .fin q => if a.lt q.abs then q.abs else a | _ => a) (Q.ofInt 0)

/-- A block of a row: its scale byte and its elements (R201). -/
def adrnBlock (d : Desc) (rnd : Nat) (nan : Bool) (l : List XR) : Nat × List Nat :=
  let t := d.ety
  let a := blockMax l
  if l.any XR.isNan then (0xFF, l.map fun _ => 0)
  else if d.smode = 1 then
    let s0 : Int := if a.num = 0 then -127 else a.ilog2 - emaxOf t
    let s := clampI (-127) 127 s0
    ((s + 127).toNat, l.map fun x => roundFmt t rnd (divQ x (Q.pow2 1 s)) nan)
  else
    let eps := Q.pow2 1 d.texp
    let beta := roundUE6M2 (XR.ofQ (a.div ((decodeF t (maxOf t)).q.mul eps)))
    (beta, l.map fun x => if beta = 0 then 0 else roundFmt t rnd (divQ x ((decodeUE6M2 beta).q.mul eps)) nan)

/-- A list in pieces of `n`. -/
def chunks {α : Type} (n : Nat) (l : List α) : List (List α) :=
  (List.range (ceilDiv l.length n)).map fun i => (l.drop (i * n)).take n

/-- The elements and the scale bytes of a tile row from an accumulator row (R201); a partial last block takes its scale from the elements
that are there. DESIGN CHOICE, log entry 63. -/
def adrnRow (d : Desc) (n rnd : Nat) (nan asInt : Bool) (row : Nat) : List Nat × List Nat :=
  let src : ETy := if asInt then .i32 else .f32
  let xs := (List.range n).map (laneOf row)
  if d.smode = 0 then (xs.map (convert d.ety src rnd nan), [])
  else
    let bs := (chunks d.block (xs.map (valueOf src))).map (adrnBlock d rnd nan)
    (bs.flatMap (·.2), bs.map (·.1))

/-- The writes of row `i` into an entry: the bytes of its elements, whose last byte keeps the bits beyond them, in pieces
of one granule each, and its scale bytes. -/
def adrnParts (e : Entry) (n rnd : Nat) (nan asInt : Bool) (i row : Nat) : List (Nat × Nat × Nat) :=
  let d := e.d
  let (es, ss) := adrnRow d n rnd nan asInt row
  let w := d.width
  let bitsN := n * w
  let o := i * d.rowBytes
  let old := Memory.readN e.data o (ceilDiv bitsN 8)
  let v := packBits w n (fun j => es.getD j 0) + old / 2 ^ bitsN * 2 ^ bitsN
  let nb := ceilDiv bitsN 8
  ((List.range (ceilDiv nb 16)).map fun g => (o + 16 * g, min 16 (nb - 16 * g), v / 256 ^ (16 * g) % 256 ^ (min 16 (nb - 16 * g)))) ++
    (ss.zip (List.range ss.length)).map fun (b, q) => (16 * scaleG + i * (d.tc / d.block) + q, 1, b)

end Sys2Proof.Machine
end

