-- ==== Sys2Proof/Machine/MatrixInstr.lean ====
section
/-! DEFINITION. The matrix and accumulator instructions, TFILLM, KSET and KGET at their issue (R182, R195 to R202). What
the array does with them afterwards is in Machine/ArrayEvents.lean. -/

namespace Sys2Proof.Machine

open Sys2Proof

/-! ## MMA and MMAS (R196, R197) -/

/-- What a matrix operation binds: descriptors and coordinates of its operands, physical accumulators, shape. -/
structure MmaBind where
  da : Desc
  ca : Word
  db : Desc
  cb : Word
  accD : Nat
  accB : Nat
  m : Nat
  n : Nat
  klen : Nat
  koff : Nat
deriving DecidableEq, Repr

/-- The shape is within its limits for the operands (R196). -/
def mmaShapeOk (t : Nat) (da db : Desc) (m n klen koff : Nat) : Bool :=
  1 ≤ m && m ≤ 128 && 1 ≤ n && n ≤ 128 && klen != 0 && klen % mmaG t == 0 && koff % mmaG t == 0
    && m ≤ da.nonK && n ≤ db.nonK && koff + klen ≤ da.kExt && koff + klen ≤ db.kExt

/-- The checks of R196 with the shape register `k`: what the operation binds, or the fault code and sub-code. -/
def mmaCheck (sl : Slot) (x : FmtX) (mmas : Bool) (k : Word) : Except (Nat × Nat) MmaBind :=
  match Tab.find x.ha sl.h, Tab.find x.hb sl.h with
  | some da, some db =>
    let da : Desc := da
    let db : Desc := db
    let ca := sl.creg x.ca
    let cb := sl.creg x.cb
    if !coordOk da ca || !coordOk db cb then .error (fTileRange, 0)
    else
      match accOff sl x.ad, accOff sl (if x.mode = 2 then x.ab else x.ad) with
      | some d, some b =>
        let scales := if mmas then da.smode != 0 && db.smode != 0 else da.smode == 0 && db.smode == 0
        if !mmaShapeOk x.types da db (fld k 0) (fld k 1) (fld k 2) (fld k 3) || mmaTypes x.types != (da.etype, db.etype)
            || !scales then .error (fIllegal, 7)
        else .ok ⟨da, ca, db, cb, d, b, fld k 0, fld k 1, fld k 2, fld k 3⟩
      | _, _ => .error (fIllegal, 7)
  | _, _ => .error (fTileDescriptor, 0)

/-- Whether a command of the replay queue is a matrix operation that names a physical accumulator (R45). -/
def LensOp.mmaNames (o : LensOp) (acc : Nat) : Bool :=
  match o.cmd with
  | .mma m => m.names acc
  | _ => false

/-- Whether R45 holds an instruction that names accumulators back in clk `t`: a parked matrix operation names one, or one
that the array accepts in this clk. -/
def accBusy (x : Cell) (t : Nat) (accs : List (Option Nat)) : Bool :=
  let hit (f : Nat → Bool) : Bool := accs.any fun a => match a with | some p => f p | none => false
  x.ops.any (fun o => hit o.mmaNames)
    || x.rows.any fun o => match o.kind with | .mma m _ => decide (t ≤ o.start) && hit m.names | _ => false

/-- The current entry that an operand or a TLD binds (R176, R233). -/
def operandEntry (s : State) (c : Nat) (t : TileKey) : Option Entry := ((s.cell c).current t).filter (·.bindable)

/-- Bind an operand of the matrix operation numbered `seq`: its current entry, or a fill as TFILL.ANY starts it (R176). -/
def bindOperand (c k : Nat) (st : Kind) (seq eid : Nat) (t : TileKey) (d : Desc) (s : State) : Nat × State :=
  match operandEntry s c t with
  | some e => (e.id, touch c e.id s)
  | none => (eid, allocate c k st seq eid t d false none 0 s)

/-- The granules of an entry that are full, data from bit 0 and scales from bit 4,096. -/
def fullMask (s : State) (c eid : Nat) : Nat :=
  match (s.cell c).entry eid with
  | some e => e.full + 2 ^ scaleG * e.sfull
  | none => 0

/-- Bind the operands of a matrix operation and park it, numbered `seq`; what it has bound besides is `m` (R176, R195, R197). -/
def bindMma (c k : Nat) (st : Kind) (seq : Nat) (da : Desc) (ca : Word) (db : Desc) (cb : Word) (m : MmaOp) (s : State) : State :=
  let sl := s.slot c k
  let (ea, s1) := bindOperand c k st seq (4 * s.cur.seq + 1) (tileKeyOf sl da ca) da s
  let (eb, s2) := bindOperand c k st seq (4 * s.cur.seq + 2) (tileKeyOf sl db cb) db s1
  let m1 := { m with eidA := ea, eidB := eb, fullA := fullMask s2 c ea, fullB := fullMask s2 c eb, snapA := [], snapB := [] }
  addOp c { newOp s k st (.mma m1) .parked with seq := seq } s2

/-- The same for an operation that issues, with its shape and its accumulators. -/
def parkMma (c k : Nat) (st : Kind) (seq : Nat) (after : Option Nat) (x : FmtX) (mmas : Bool) (b : MmaBind) (s : State) : State :=
  bindMma c k st seq b.da b.ca b.db b.cb
    { eidA := 0, eidB := 0, accD := b.accD, accB := b.accB, types := x.types, mode := x.mode, mmas := mmas
      m := b.m, n := b.n, klen := b.klen, koff := b.koff, fullA := 0, fullB := 0, snapA := [], snapB := [], after := after } s

/-- MMA and MMAS (R196, R197). DEDUCED, log entry 53. -/
def mmaInstr (mmas : Bool) (x : FmtX) (s : State) : Out :=
  onStrand s fun c k st =>
    let sl := s.slot c k
    if accBusy (s.cell c) s.clk [accOff sl x.ad, if x.mode = 2 then accOff sl x.ab else none] || !replayRoom s c 1 then .next s
    else
      match mmaCheck sl x mmas ((s.strand c k st).kAfter x.sw x.k) with
      | .error (code, sub) => .next (raise code sub 0 0 0 s)
      | .ok b => .next (retireRead (parkMma c k st s.cur.seq none x mmas b (swapIf x.sw s)))

def execMma (x : FmtX) (s : State) : Out := mmaInstr false x s
def execMmas (x : FmtX) (s : State) : Out := mmaInstr true x s

/-! ## TFILLM (R182) -/

/-- Push room for both signal bytes of a TFILLM. -/
def roomForBoth (sl : Slot) (a b : Nat) (x : Kind) : Bool :=
  kinds4.all fun y =>
    let n (sb : Nat) : Nat := if (named sb x).contains y then tokens sb else 0
    n a + n b = 0 || (sl.queue x y).cnt + (sl.queue x y).push + (sl.queue x y).res + n a + n b ≤ 63

/-- Whether the push room of its two signal bytes holds a TFILLM back (R27, R46). -/
def tfillmWaits (s : State) (sb : Nat) : Bool :=
  match s.cur.agent with
  | .strand c k st => !roomForBoth (s.slot c k) s.cur.hdr.sb sb st
  | .cond _ => false

/-- TFILLM (R182): the fill, and the matrix operation of the literal. The faults of the follow-on's operands are those of an MMA (R173,
R174, R196). DEDUCED, log entry 53. -/
def execTfillm (x : FmtT) (lit : TfLit) (s : State) : Out :=
  if tfillmWaits s lit.sb then .next s else
  withTileRoom x s fun c k st d co =>
    let sl := s.slot c k
    let t := tileKeyOf sl d co
    let want := wantOf x s
    if pinFull sl x.hint ((fillMatch s c t want).map (·.id)) then .next (illegal 7 s)
    else
      match mmaCheck sl lit.x lit.mmas ((s.strand c k st).kAfter x.sw lit.x.k) with
      | .error (code, sub) => .next (raise code sub 0 0 0 s)
      | .ok b =>
        let q := s.cur.seq
        let (eid, s1) := bindOrFill c k st (4 * q) t d want (swapIf x.sw s)
        let s2 := awaitFull c k st eid (itinStep c k x.h (4 * q + 3) (applyHint c k eid x.hint s1))
        let s3 := parkMma c k st (q + 1) (some eid) lit.x lit.mmas b s2
        .next ((retireAccess s3).updSlot c k
          (reserve lit.sb st (q + 1) (signalAt lit.sb (.perform (q + 1)) (.consumed (q + 1)))))

/-! ## Accumulator instructions (R199 to R201) -/

/-- Add a row operation of the current instruction, which starts in this clk. -/
def addRows (c k : Nat) (st : Kind) (kind : RowKind) (s : State) : State :=
  s.updCell c fun x => { x with rows := x.rows ++ [{ seq := s.cur.seq, slot := k, k := st, start := s.clk, kind := kind, fpc := s.cur.pc }] }

def execAclr (x : FmtX) (s : State) : Out :=
  onStrand s fun c k st =>
    match accOff (s.slot c k) x.ad with
    | none => .next (illegal 7 s)
    | some d =>
      if accBusy (s.cell c) s.clk [some d] then .next s
      else .next (retire (.perform s.cur.seq) (.clk (s.clk + 1)) (addRows c k st (.aclr d) s))

/-- Exchange AMAP fields `a` and `b` of AVIEW (R36, R199). -/
def swapAmap (v : Word) (a b : Nat) : Word :=
  let f (n : Nat) : Nat := bits v.toNat (3 * n + 42) (3 * n + 40)
  let n' (n : Nat) : Nat := if n = a then f b else if n = b then f a else f n
  BitVec.ofNat 64 (v.toNat % 2 ^ 40 + ((List.range 8).map fun n => n' n * 2 ^ (3 * n + 40)).sum)

/-- ACOMMIT (R199): the fields are exchanged at the end of its clk, so that instructions from the next clk on name by the new AMAP. -/
def execAcommit (x : FmtX) (s : State) : Out :=
  onStrand s fun c k _ =>
    let sl := s.slot c k
    if accBusy (s.cell c) s.clk [accOff sl x.ad, accOff sl x.ab] then .next s else
    match accOff sl x.ad, accOff sl x.ab with
    | some _, some _ => .next (retireNow (s.updSlot c k fun y => { y with swaps := y.swaps ++ [(x.ab, x.ad)] }))
    | _, _ => .next (illegal 7 s)

/-- Whether a command is a speculative matrix operation into a physical accumulator. -/
def LensOp.specInto (o : LensOp) (acc : Nat) : Bool :=
  match o.cmd with
  | .mma m => m.mode == 2 && m.accD == acc
  | _ => false

/-- ADISCARD (R200): the parked speculative operations into the accumulator leave the replay queue, and their pushes
fall due in clk t + 1. -/
def execAdiscard (x : FmtX) (s : State) : Out :=
  onStrand s fun c k _ =>
    match accOff (s.slot c k) x.ad with
    | none => .next (illegal 7 s)
    | some d =>
      let gone := ((s.cell c).ops.filter (·.specInto d)).map (·.seq)
      let due (sl : Slot) : Slot :=
        { sl with pushes := sl.pushes.map fun p => if gone.contains p.seq then { p with due := .clk (s.clk + 1) } else p }
      .next (retireNow (s.updCell c fun cl =>
        { cl with ops := cl.ops.filter (fun o => !o.specInto d), slots := cl.slots.map fun (j, y) => (j, due y) }))

def execAmov (x : FmtX) (s : State) : Out :=
  onStrand s fun c k st =>
    let sl := s.slot c k
    if accBusy (s.cell c) s.clk [accOff sl x.ad, accOff sl x.ab] then .next s else
    match accOff sl x.ad, accOff sl x.ab with
    | some d, some b => .next (retire (.perform s.cur.seq) (.clk (s.clk + 128)) (addRows c k st (.amov d b) s))
    | _, _ => .next (illegal 7 s)

/-- ADRN (R201). -/
def execAdrn (x : FmtX) (s : State) : Out :=
  onStrand s fun c k st =>
    let sl := s.slot c k
    if !replayRoom s c 1 || accBusy (s.cell c) s.clk [accOff sl x.ab] then .next s else
    match Tab.find x.ha sl.h with
    | none => .next (raise fTileDescriptor 0 0 0 0 s)
    | some d =>
      let d : Desc := d
      let co := sl.creg x.ca
      let w := (s.strand c k st).kAfter x.sw x.k
      let m := fld w 0
      let n := fld w 1
      let nan := bit x.sub 2
      if nan && d.etype != 3 then .next (illegal 5 s)
      else if !coordOk d co then .next (raise fTileRange 0 0 0 0 s)
      else
        match accOff sl x.ab with
        | none => .next (illegal 7 s)
        | some src =>
          if !(1 ≤ m && m ≤ 128 && 1 ≤ n && n ≤ 128 && m ≤ d.tr && n ≤ d.tc) || (d.smode != 0 && d.skdir == 1) then
            .next (illegal 7 s)
          else
            match ((s.cell c).current (tileKeyOf sl d co)).filter (·.open) with
            | none => .next (raise fTileState 0 0 0 0 s)
            | some e =>
              let s1 := touch c e.id (swapIf x.sw s)
              if e.here then
                .next (retire (.perform s.cur.seq) (.clk (s.clk + m))
                  (addRows c k st (.adrn src e.id m n (x.sub % 4) nan (bit x.sub 3)) s1))
              else .next (retireRead (addOp c (newOp s k st (.adrn e.id src m n (x.sub % 4) nan (bit x.sub 3)) .parked) s1))

/-! ## Shape registers (R42, R202) -/

/-- The operand IDX of KSET and KGET (R86, R202): the strand in IDX[5:4], 01 A, 10 X, 11 W; the register in IDX[3:2]; the field in
IDX[1:0]. The strand here. -/
def idxKind (i : Nat) : Kind := match i / 16 % 4 with | 1 => .A | 2 => .X | _ => .W

/-- KSET (R86, R202): the field that IDX names is written at the end of the issue clk, where its effect is complete. -/
def execKset (x : FmtQ) (s : State) : Out :=
  onStrand s fun c k _ =>
    let w : KsetWrite := ⟨idxKind x.idx, x.idx / 4 % 4, x.idx % 4, (s.rs x.a).toNat % 2 ^ 16⟩
    .next (retireNow (s.updSlot c k fun y => { y with ksets := y.ksets ++ [w] }))

/-- A shape register as it stood at the start of the clk, before a swap in it. -/
def Strand.kStart (y : Strand) (clk : Nat) (cur : Bool) (n : Nat) : Word :=
  let swapped := y.swapClk == some clk
  Tab.get 0 n (if cur != swapped then y.k else y.ks)

/-- KGET (R86, R202): IDX as for KSET, and F[0] selects k rather than ks. -/
def execKget (x : FmtQ) (s : State) : Out :=
  onStrand s fun c k _ =>
    let w := (s.strand c k (idxKind x.idx)).kStart s.clk (bit x.f 0) (x.idx / 4 % 4)
    .next (retireIn 2 (writeS x.d (BitVec.ofNat 64 (fld w (x.idx % 4))) 2 s))

end Sys2Proof.Machine
end

