-- ==== Sys2Proof/Machine/LensEvents.lean ====
section
/-! DEFINITION. The steps of the Lens engines: allocation, frame scan, spills, fills, drains and publications, and the replay
queue (R177, R235 to R247). -/

namespace Sys2Proof.Machine

open Sys2Proof

/-! ## Allocation (R235, R236, R238) -/

/-- A parked allocation of a cell that is not held back. -/
def LensOp.isAlloc (o : LensOp) : Bool := match o.cmd with | .alloc _ _ _ _ _ _ _ => true | _ => false

/-- Try a parked allocation: it takes a way and frames, has a victim spilled, or starts the scan for frames. -/
def tryAlloc (c : Nat) (o : LensOp) (s : State) : State :=
  match o.cmd with
  | .alloc eid t d produce _ _ _ =>
    match allocTry s c t d with
    | .ok way sway vic => take c 0 (dropOp c o (placeEntry c eid way sway vic produce s))
    | .spill e =>
      match (s.cell c).entry e with
      | some v => take c 0 (spillEntry c v s)
      | none => s
    | _ => s
  | _ => s

/-- Whether a parked allocation can go on. -/
def allocReady (s : State) (c : Nat) (o : LensOp) : Bool :=
  match o.cmd with
  | .alloc _ t d _ _ _ _ => o.st == .parked && !o.reported && !heldBack s c o.slot && match allocTry s c t d with
    | .ok _ _ _ => true | .spill _ => true | _ => false
  | _ => false

/-- LENS_ALLOCATE (R235, R239): the earliest allocation that can go on is the one `id` names. -/
def execLensAllocate (cell id : Nat) (s : State) : Out :=
  if took s cell 0 then .next s
  else
    match firstOp (allocReady s cell) (s.cell cell).ops with
    | some o => match o.cmd with
      | .alloc eid _ _ _ _ _ _ => .next (if eid = id then tryAlloc cell o s else s)
      | _ => .next s
    | none => .next s

/-- Whether something in a cell waits for frames. -/
def framesWanted (s : State) (c : Nat) : Bool :=
  let x := s.cell c
  (x.ops.any fun o => match o.cmd, o.st with
    | .alloc _ t d _ _ _ _, .parked => match allocTry s c t d with | .noFrames _ => true | _ => false
    | _, _ => false)
  || x.lens.any fun e => e.away && (readBackFor s c e.id).isSome && (match seatTry s c e with | .noFrames _ => true | _ => false)

/-- Free the eligible CLEAN entry at a tag place. -/
def scanTag (c t : Nat) (s : State) : State :=
  match (s.cell c).occupant t with
  | some e => if e.st == .clean && (s.cell c).eligible e then dropEntry c e.id s else s
  | none => s

/-- Examine up to `n` tag entries: the pointer stops where the frames are there, or where it has gone round once (R236). -/
def scanTags (c : Nat) : Nat → State → State
  | 0, s => s
  | n + 1, s =>
    let x := s.cell c
    if x.scanLeft = 0 || !framesWanted s c then s
    else
      let left := x.scanLeft - 1
      scanTags c n ((scanTag c x.scanPtr s).updCell c fun y => { y with scanPtr := (x.scanPtr + 1) % 4096, scanLeft := left })

/-- FRAME_SCAN (R236): four tag entries in this clk, until the frames are there or the pointer has gone round once. -/
def execFrameScan (cell : Nat) (s : State) : Out :=
  .next (if s.landing then scanTags cell 4 s else s)

/-- PIN_EXHAUSTION (R203, R238): an asynchronous fault. -/
def execPinExhaustion (cell id : Nat) (s : State) : Out :=
  match (s.cell cell).ops.find? fun o => match o.cmd with | .alloc e _ _ _ _ _ _ => e == id | _ => false with
  | some o =>
    match o.cmd with
    | .alloc _ t d _ _ _ _ =>
      let aux : Option Nat := match allocTry s cell t d with
        | .noWay set => some set
        | .noFrames set => some (set + 256)
        | _ => none
      match aux with
      | some v =>
        if o.pinnedFor < 10000 || o.reported || o.st != .parked then .next s
        else
          .next (report { agent := .strand cell o.slot o.k, kind := 2, code := fPinExhaustion, fpc := o.fpc, addr := 0
                          aux := BitVec.ofNat 64 v, aux2 := 0 }
            (s.updCell cell fun x => { x with ops := x.ops.map fun p => if p == o then { p with reported := true, pinnedFor := 0 } else p }))
      | none => .next s
    | _ => .next s
  | none => .next s

/-- SPILL (R237, R239): the earliest allocation that can go on has picked the entry. -/
def execSpill (cell id : Nat) (s : State) : Out :=
  if took s cell 0 then .next s
  else
    match firstOp (allocReady s cell) (s.cell cell).ops with
    | some o => match o.cmd with
      | .alloc _ t d _ _ _ _ => .next (if allocTry s cell t d == .spill id then tryAlloc cell o s else s)
      | _ => .next s
    | none => .next s

/-- Bytes `mask` of granule `g` of an entry that is being spilled are written before the rest (R237, R250).
DEDUCED, log entry 18. -/
def spillPart (c eid g mask : Nat) (s : State) : State :=
  match (s.cell c).entry eid with
  | some e =>
    if s.landing || (spillFor s c eid).isNone || !(granulesOf e.d).contains g then s
    else
      let skip := ((List.range 16).filter fun i => !bit mask i).map (16 * g + ·)
      match placeBits (spillBy c e s) (granuleBits e skip g) s with
      | (.ok l, s) => if bitsBad s l then s else writeBits (.strand c e.slot .S) l s
      | (.error _, _) => s
  | none => s

/-- The drain engine has taken a TDRAIN of an entry. -/
def drainBegun (s : State) (c eid : Nat) : Bool :=
  (s.cell c).ops.any fun o => o.st != .parked && match o.cmd with | .drain e _ => e == eid | _ => false

/-- Whether the slot's previous version has been released, for a stage queue (R247). -/
def released24 (s : State) (e : Entry) : Bool := !e.d.sq || verGe (verRec s e.key).rel ((e.ver + 2 ^ 24 - 1) % 2 ^ 24)

/-- Whether the drain engine may take a command: a TDRAIN whose granules are full and whose slot is released, a TSCT whose rows are full. -/
def drainReady (s : State) (c : Nat) (o : LensOp) : Bool :=
  o.st == .parked && !heldBack s c o.slot && match o.cmd with
  | .drain eid _ => match (s.cell c).entry eid with
    | some e => e.allFull && e.st != .waiting && released24 s e
    | none => true
  | .tsct eid rows => match (s.cell c).entry eid with
    | some e => e.here && rows.all fun (r, _) => (List.range (e.d.rowBytes / 16)).all fun i => e.isFull (r * e.d.rowBytes / 16 + i)
    | none => true
  | _ => false

/-- The entry that a parked command needs read back, where a way and the frames are there (R237). -/
def readBackOf (s : State) (c : Nat) (o : LensOp) : Option Entry :=
  if o.reported || heldBack s c o.slot || o.st != .parked then none
  else (s.cell c).lens.find? fun e => e.away && o.needsBytes e.id && !drainBegun s c e.id && match seatTry s c e with
    | .ok _ _ _ => true | .spill _ => true | _ => false

/-- The command that the drain engine takes next (R239): of the TDRAINs, the TSCTs and the read-backs whose condition holds, the earliest. -/
def drainNext (s : State) (c : Nat) : Option LensOp := firstOp (fun o => drainReady s c o || (readBackOf s c o).isSome) (s.cell c).ops

/-- SPILL_READBACK (R237, R239). -/
def execSpillReadback (cell id : Nat) (s : State) : Out :=
  if took s cell 1 then .next s
  else
    match drainNext s cell with
    | some o =>
      if drainReady s cell o then .next s
      else match (readBackOf s cell o).filter fun e => e.id == id with
        | some e => .next (readBackEntry cell e o s)
        | none => .next s
    | none => .next s

/-! ## Fills (R179 to R181, R244, R245) -/

/-- A fill stands still while its fault waits for its task to resume (R181). -/
def fillStopped (x : Cell) (eid : Nat) : Bool := x.ops.any fun o => o.reported && o.cmd.binds.contains eid

/-- A fill that the home serves from memory, of a version of its own package (R242). -/
def fillMemory (c : Nat) (e : Entry) (ver : Nat) (s : State) : State :=
  let s1 := updEntry c e.id (fun e => { e with src := .memory, ver := ver, resolved := true }) s
  { s1 with fillReads := s1.fillReads ++ [⟨e.key, c, e.id⟩] }

/-- Ask the home in member SRC for a version of an entry's tile (R244 step 4), unless a Mirror PREPARE or a suspend holds the package
(R347, R392). -/
def askMember (c : Nat) (e : Entry) (src : Nat) (s : State) : State :=
  if s.mirHold || !sending s then s
  else
    let req : PeerReq :=
      { src := s.selfIdx, num := e.id, groupId := (s.ctxOf e.ctx).groupId, ea := tileHome e.d e.coord
        op := .tile e.tid e.coord e.desc e.want, size := 0, cls := 0, qual := 0, x := 0, d := 0 }
    postPacket (.request src req) (updEntry c e.id (fun e => { e with src := .member }) s)

/-- The answer of the home in member SRC: a version that is wanted is delivered; after any other answer the fill asks again (R244, R245). -/
def memberAnswers (c : Nat) (e : Entry) (remote : Option RemoteTile) (s : State) : State :=
  updEntry c e.id (fun e => match remote with
    | some t =>
      if verMeets e.want (verRec s e.key).pub t.ver then
        { e with src := .remote (Memory.writeL [] 0 t.data) (Memory.writeL [] 0 t.scale), ver := t.ver % 2 ^ 24, resolved := true }
      else { e with src := .waiting }
    | none => { e with src := .waiting }) s

/-- FILL_RESOLVE (R180, R243, R244): the fill asks at its tile's home. DEDUCED, log entry 19. -/
def execFillResolve (cell id : Nat) (remote : Option RemoteTile) (s : State) : Out :=
  match (s.cell cell).entry id with
  | none => .next s
  | some e =>
    let r := verRec s e.key
    let met := match e.want with | some n => verGe r.pub n | none => true
    if e.st == .filling && e.src == .member then .next (memberAnswers cell e remote s)
    else if e.st != .filling || e.src != .waiting || !met || fillStopped (s.cell cell) id then .next s
    else
      match homePa (fillBy cell e s) e.key e.d 4 s with
      | (.error f, s) => .next (match fillFor (s.cell cell) id with | some o => engineFault cell o 4 f s | none => dropEntry cell id s)
      | (.ok pa, s) =>
        let s := updEntry cell id (fun e => { e with home := pa }) s
        -- a kept entry that is refilled: its own version, from memory (R313)
        if e.resolved then .next (if r.draining then s else fillMemory cell e e.ver s)
        else
        match holderFor s e.key e.d.vscope e.want (some (cell / 16)) (cell, e.id) with
        | some h => .next (serveDir e.key (fun v => v) (updEntry cell id (fun e => { e with src := .asked h.cell h.eid, ver := h.ver }) s))
        | none =>
          if r.src = s.selfIdx || e.d.vscope ≠ 3 then .next (if r.draining then s else fillMemory cell e r.pub s)
          else .next (askMember cell e r.src s)

/-- LENS_TRANSFER_SERVE (R244, R245): the holder serves its version, or answers absent. -/
def execLensTransferServe (cell id : Nat) (s : State) : Out :=
  match (s.cell cell).entry id with
  | none => .next s
  | some e =>
    match e.src with
    | .asked c' e' =>
      match (Holder.mk s.selfIdx c' e' e.ver).holds s with
      | some h => .next (updEntry cell id (fun e => { e with src := .lens h.data h.scale, resolved := true }) s)
      | none => .next (serveDir e.key (fun v => v.without c' e') (updEntry cell id (fun e => { e with src := .waiting }) s))
    | _ => .next s

/-- The 16 bytes of granule `g` from the stores of another Lens or member. -/
def sentGranule (data scale : Memory) (g : Nat) : Nat :=
  if g < scaleG then Memory.readN data (16 * g) 16 else Memory.readN scale (16 * (g - scaleG)) 16

/-- Offset at which granule `g` is written. -/
def granuleOff (g : Nat) : Nat := if g < scaleG then 16 * g else 16 * scaleG + 16 * (g - scaleG)

/-- Send granules of a fill towards the Lens, where they land at the end of the clk. -/
def sendGranules (c : Nat) (e : Entry) : List Nat → State → State
  | [], s => s
  | g :: gs, s =>
    let seq := e.id / 4
    match e.src with
    | .lens data scale =>
      sendGranules c e gs (putLens c e.slot .S seq e.id s.clk [(granuleOff g, 16, sentGranule data scale g)] s)
    | .remote data scale =>
      sendGranules c e gs (putLens c e.slot .S seq e.id s.clk [(granuleOff g, 16, sentGranule data scale g)] s)
    | .memory =>
      match readGranuleMem (fillBy c e s) e.d e.coord g s with
      | (.ok v, s) => sendGranules c e gs (putLens c e.slot .S seq e.id s.clk [(granuleOff g, 16, v)] s)
      | (.error r, s) =>
        match fillFor (s.cell c) e.id with
        | some o => engineFault c o 4 r s
        | none => dropEntry c e.id s
    | _ => s

/-- FILL_GRANULE_LAND (R180, R181): up to 8 granules of a resolved fill that it has not landed land at the end of this clk.
DEDUCED, log entry 18. -/
def execFillGranuleLand (cell id : Nat) (gs : List Nat) (s : State) : Out :=
  if s.landing || took s cell 3 then .next s
  else
    match (s.cell cell).entry id with
    | none => .next s
    | some e =>
      let todo := ((granulesOf e.d).filter fun g => gs.contains g && !e.hasLanded g
        && !(s.cell cell).lensWr.any fun w => w.eid == id && !w.empties && w.parts.any fun p => p.1 == granuleOff g).take 8
      if e.st != .filling || !e.resolved || fillStopped (s.cell cell) id || todo.isEmpty then .next s
      else .next (sendGranules cell e todo (take cell 3 s))

/-! ## Drains (R186, R242, R247) -/

/-- A command is a drain. -/
def isDrain (m : LensCmd) : Bool := match m with | .drain _ _ => true | _ => false

/-- DRAIN_GRANT (R241, R242): the home grants a drain, or the version is refused. DEDUCED, log entry 19. -/
def execDrainGrant (cell id : Nat) (s : State) : Out :=
  match (s.cell cell).opBy id isDrain with
  | none => .next s
  | some o =>
    match o.cmd with
    | .drain eid _ =>
      match (s.cell cell).entry eid with
      | none => .next (dropOp cell o s)
      | some e =>
        let r := verRec s e.key
        if o.st != .active || o.reported || r.draining || !released24 s e then .next s
        else if !verNewer e.ver r.pub then .next (refusePublication cell o 4 0 s)
        else if s.fillReads.any fun q => q.tile == e.key then .next s
        else
          match homePa (drainFor cell (.strand cell o.slot o.k) e.ctx) e.key e.d 5 s with
          | (.error f, s) => .next (engineFault cell o 5 f s)
          | (.ok pa, s) =>
            if !storeRoom s e.key (homeDie pa) then .next (refusePublication cell o 5 0 s)
            else
              let s1 := updVer e.key (homeDie pa) (fun r => { r with draining := true }) s
              let s2 := updEntry cell eid (fun e => { e with home := pa, st := if e.st == .spilled then .spilled else .draining }) s1
              .next (updOp cell id (fun p => if p == o then { p with st := .granted } else p) s2)
    | _ => .next s

/-- The entry after its publication; the bytes of one that was SPILLED stay in memory (R237). -/
def Entry.publishedNow (e : Entry) : Entry := { e with st := .clean, published := true, frameless := e.st == .spilled }

/-- The last read of a source tile by an instruction has been made in this clk: its operands are consumed in the next (R25). -/
def consumedNext (c k q u : Nat) (s : State) : State :=
  s.updSlot c k fun y => { y with pushes := y.pushes.map fun p => if p.due == .consumed q then { p with due := .clk (u + 1) } else p }

/-- A command whose engine has read its source tile to the end leaves. -/
def endRead (c : Nat) (o : LensOp) (s : State) : State :=
  dropOp c o (if 8 ≤ o.slot then s else consumedNext c o.slot o.seq s.clk s)

/-- DRAIN_PUBLISH (R186, R242): the bytes are written and the version published. -/
def execDrainPublish (cell id : Nat) (s : State) : Out :=
  match (s.cell cell).opBy id isDrain with
  | none => .next s
  | some o =>
    match o.cmd with
    | .drain eid hint =>
      match (s.cell cell).entry eid with
      | none => .next (dropOp cell o s)
      | some e =>
        if o.st != .granted || o.reported || !earlierDone s cell o then .next s
        else
          let w := if e.st == .spilled then (.ok s, s) else writeEntry cell (.strand cell o.slot o.k) e o.done s
          match w with
          | (.error r, s) => .next (engineFault cell o 5 r s)
          | (.ok s, _) =>
            let s1 := publish e.key e.d (verRec s e.key).stack e.ver s
            let s2 := updEntry cell eid (·.publishedNow) s1
            let s3 := if e.st != .spilled && e.allFull then addHolder e.key e.home cell eid e.ver s2 else s2
            let s4 := if hint = 2 ∨ hint = 3 ∨ hint = 4 then applyHint cell o.slot eid hint s3 else s3
            .next (endRead cell o s4)
    | _ => .next s

/-! ## Publications and releases at the home (R187, R188, R241, R246, R247) -/

/-- VERSION_NOTICE (R246): it reaches the tile's home, where a tile that has no record is given one in the home stack's store (R240).
DEDUCED, log entry 19. A full store takes it too, and a notice whose address does not translate is dropped. DESIGN CHOICE, log entry 66. -/
def execVersionNotice (n : VerNotice) (s : State) : Out :=
  match s.ctxs.find? fun (_, x) => x.st == .live && x.gmask != 0 && x.groupId == n.groupId with
  | none => .next s
  | some (c, _) =>
    let t : TileKey := ⟨c, n.tid, n.coord⟩
    let note (stack : Nat) (s : State) : State := updVer t stack (fun r => { r with pub := n.ver % 2 ^ 24, src := n.sender }) s
    if !verNewer n.ver (verRec s t).pub then .next s
    else if (s.ctxOf c).vers.any fun v => v.tile == t then .next (note (verRec s t).stack s)
    else
      match translateHub c n.va 0 true s with
      | (.hit tr, s) => .next (note (homeDie (tr.phys n.va)) s)
      | (_, s) => .next s

/-- TQREL_RECORD (R188, R247). DEDUCED, log entry 18. -/
def execTqrelRecord (id : Nat) (s : State) : Out :=
  match findOp s id (fun m => match m with | .tqrel _ _ _ => true | _ => false) with
  | none => .next s
  | some (c, o) =>
    match o.cmd with
    | .tqrel t d v =>
      if o.reported then .next s
      else
        match homePa { (drainFor c (.strand c o.slot o.k) t.ctx) with stream := dataStream o.k } t d 4 s with
        | (.error r, s) => .next (engineFault c o 4 r s)
        | (.ok pa, s) =>
          let s1 := if verNewer v (verRec s t).rel then updVer t (homeDie pa) (fun r => { r with rel := v }) s else s
          .next (dropOp c o s1)
    | _ => .next s

/-- TPOST_PUBLICATION (R187, R241, R243). -/
def execTpostPublication (id : Nat) (s : State) : Out :=
  match findOp s id (fun m => match m with | .tpost _ _ _ => true | _ => false) with
  | none => .next s
  | some (c, o) =>
    match o.cmd with
    | .tpost t d v =>
      if o.reported || !earlierDone s c o then .next s
      else if !verNewer v (verRec s t).pub then .next (refusePublication c o 4 0 s)
      else
        match homePa { (drainFor c (.strand c o.slot o.k) t.ctx) with stream := dataStream o.k } t d 5 s with
        | (.error r, s) => .next (engineFault c o 5 r s)
        | (.ok pa, s) =>
          if !storeRoom s t (homeDie pa) then .next (refusePublication c o 5 0 s)
          else
            let was := (verRec s t).draining
            .next (updVer t (homeDie pa) (fun r => { r with draining := was }) (publish t d (homeDie pa) v (dropOp c o s)))
    | _ => .next s

/-! ## The replay queue (R177, R192 to R194, R239) -/

/-- Hand one command to the drain engine (R239): of the TDRAINs, the TSCTs and the read-backs whose condition holds, the earliest. -/
def handDrain (c : Nat) (s : State) : State :=
  if took s c 1 then s
  else
    match drainNext s c with
    | none => s
    | some o =>
      if drainReady s c o then
        take c 1 (s.updCell c fun x => { x with ops := x.ops.map fun p => if p == o then { p with st := .active } else p })
      else
        match readBackOf s c o with
        | some e => readBackEntry c e o s
        | none => s

/-- A row operation as a plain class-0 access of its strand, for the local order (R194). -/
def rowAcc (s : State) (c : Nat) (o : LensOp) (kind : AccKind) : Acc :=
  { id := o.seq, agent := .strand c o.slot o.k, ctx := (s.slot c o.slot).ctx, kind := kind, cls := 0, scope := 2 }

/-- The writes of tile row `r` into an entry: its bytes granule by granule, or none, which leaves it zero (R194, R233). -/
def rowParts (d : Desc) (r : Nat) (bytes : Option Nat) : List (Nat × Nat × Nat) :=
  (List.range (d.rowBytes / 16)).map fun i =>
    match bytes with
    | some v => (r * d.rowBytes + 16 * i, 16, v / 256 ^ (16 * i) % 256 ^ 16)
    | none => (r * d.rowBytes + 16 * i, 0, 0)

/-- Where a row lies in memory, translated as it moves (R335): stream DA of TGTH, DW of TSCT (R324). -/
def rowRuns (c : Nat) (o : LensOp) (e : Entry) (va : Word) (s : State) : Except (Nat × Nat × Word) (List (Nat × Nat × Nat)) × State :=
  match o.cmd with
  | .tgth _ _ => engineRuns { cell := c, slot := o.slot, ctx := e.ctx, stream := 5 } 4 (pageRuns va e.d.rowBytes) s
  | _ => engineRuns { cell := c, slot := o.slot, ctx := e.ctx, stream := 6 } 5 (pageRuns va e.d.rowBytes) s

/-- A row of a TGTH has been read: its bytes go to the entry, and the rest of the rows remain. -/
def gatherRow (c : Nat) (o : LensOp) (e : Entry) (r : Nat) (v : Option Nat) (rest : List (Nat × Option Word)) (s : State) : State :=
  let s1 := putLens c o.slot o.k o.seq e.id s.clk (rowParts e.d r v) s
  if rest.isEmpty then dropOp c o s1
  else s1.updCell c fun x => { x with ops := x.ops.map fun p => if p == o then { p with cmd := .tgth e.id rest } else p }

/-- Move one row of a TGTH; one without an address is left zero. -/
def gatherMove (c : Nat) (o : LensOp) (e : Entry) (r : Nat) (va : Option Word) (rest : List (Nat × Option Word)) (s : State) : State :=
  match va with
  | none => gatherRow c o e r none rest s
  | some va =>
    match rowRuns c o e va s with
    | (.error f, s) => engineFault c o 4 f s
    | (.ok runs, s) =>
      match badRuns s runs with
      | some code => engineFault c o 4 (badData, code, va) s
      | none => gatherRow c o e r (some (leNat (readRuns s runs))) rest s

/-- Write the bytes of a row where they go, but for those at the offsets `skip`, which have been written (R194, R250). -/
def rowBytesTo (a : Agent) (runs : List (Nat × Nat × Nat)) (bytes : List Byte) (skip : List Nat) (s : State) : State :=
  let places : List (Loc × Nat) := runs.map fun (pa, n, key) => (.mem pa key, n)
  writePiece a { bytes := bytes, dst := places, moved := skip } s

/-- The structure code of bad data that a row does not cover whole, if any (R384). -/
def badRow (s : State) (runs : List (Nat × Nat × Nat)) : Option Nat := (runs.filterMap fun (pa, n, _) => s.badPart pa n).head?

/-- Move one row of a TSCT. -/
def scatterMove (c : Nat) (o : LensOp) (e : Entry) (r : Nat) (va : Word) (rest : List (Nat × Option Word)) (s : State) : State :=
  match rowRuns c o e va s with
  | (.error f, s) => engineFault c o 5 f s
  | (.ok runs, s) =>
    match badRow s runs with
    | some code => engineFault c o 5 (badData, code, va) s
    | none =>
      let bytes := Memory.readL e.data (r * e.d.rowBytes) e.d.rowBytes
      let s1 := rowBytesTo (.strand c o.slot o.k) runs bytes o.done s
      if rest.isEmpty then endRead c o s1
      else s1.updCell c fun x => { x with ops := x.ops.map fun p => if p == o then { p with cmd := .tsct e.id rest, done := [] } else p }

/-- Move a row of a gather or scatter that is under way. -/
def moveRow (c : Nat) (o : LensOp) (s : State) : State :=
  if o.st != .active || o.reported then s
  else
    match o.cmd with
    | .tgth eid rows =>
      match (s.cell c).entry eid, rows with
      | some e, (r, va) :: rest => if mayPerform s (rowAcc s c o .load) then gatherMove c o e r va rest s else s
      | _, _ => dropOp c o s
    | .tsct eid rows =>
      match (s.cell c).entry eid, rows with
      | some e, (r, some va) :: rest => if mayPerform s (rowAcc s c o .store) then scatterMove c o e r va rest s else s
      | _, _ => endRead c o s
    | _ => s

/-- Bytes that an engine writes to memory arrive one by one (R250): of a granted drain the bytes `mask` of granule `lane`, of the row that
a TSCT moves the bytes `mask`. -/
def landOp (c : Nat) (o : LensOp) (lane mask : Nat) (s : State) : State :=
  let a : Agent := .strand c o.slot o.k
  if o.reported then s
  else
    match o.cmd, o.st with
    | .drain eid _, .granted =>
      match (s.cell c).entry eid with
      | some e =>
        let skip := o.done ++ ((List.range 16).filter fun i => !bit mask i).map (16 * lane + ·)
        if !e.here || !earlierDone s c o then s
        else match placeBits (drainFor c a e.ctx) (granuleBits e skip lane) s with
          | (.ok l, s) =>
            if bitsBad s l then s
            else (writeBits a l s).updCell c fun x => { x with ops := x.ops.map fun p =>
              if p == o then { p with done := p.done ++ (setBits 16 mask).map (16 * lane + ·) } else p }
          | (.error _, _) => s
      | none => s
    | .tsct eid ((r, some va) :: _), .active =>
      match (s.cell c).entry eid with
      | some e =>
        if !mayPerform s (rowAcc s c o .store) then s
        else match rowRuns c o e va s with
          | (.error _, _) => s
          | (.ok runs, s) =>
            if (badRow s runs).isSome then s
            else
              let n := e.d.rowBytes
              let skip := o.done ++ (List.range n).filter fun i => !bit mask i
              (rowBytesTo a runs (Memory.readL e.data (r * n) n) skip s).updCell c fun x => { x with ops := x.ops.map fun p =>
                if p == o then { p with done := p.done ++ setBits n mask } else p }
      | none => s
    | _, _ => s

/-- A TLD that waited as an access of its strand, for the return of its issue. -/
def tldAcc (s : State) (c : Nat) (o : LensOp) : Acc := { rowAcc s c o .load with fpc := o.fpc, word := o.word, repst := o.repst }

/-- A command that waits for an entry's bytes goes on once they are there (R192, R193, R201, R237). A TLD that waited reads in the clk
after, r, at whose end .c empties its granules: of two such TLDs of one granule the later waits for a refill. -/
def resumeOp (c : Nat) (o : LensOp) (s : State) : State :=
  let held := o.st == .parked && heldBack s c o.slot
  match o.cmd with
  | .fill eid => match (s.cell c).entry eid with
    | some e => if e.fillDone then dropOp c o s else s
    | none => dropOp c o s
  | .tinv eid => if (s.cell c).bound eid then s else dropOp c o (dropEntry c eid s)
  | .tld eid off dst consume => match (s.cell c).entry eid with
    | some e =>
      if o.st == .granted then dropOp c o s
      else if held || !e.here || !e.full16 off || (consume && (s.cell c).emptying eid off) then s
      else if s.err.badLens.contains (c, eid) then
        preciseLate (tldAcc s c o) fUncorrectable (BitVec.ofNat 64 off) 5 (dropOp c o s)
      else
        let s1 := s.updCell c fun x => { x with ops := x.ops.map fun p => if p == o then { p with st := .granted } else p }
        let s2 := tldRead c o.slot o.k o.seq e off dst (s.clk + 1) s.seq (consumedNext c o.slot o.seq (s.clk + 1) s1)
        let s3 := if consume then emptyGranules c o.slot o.k o.seq eid (s.clk + 1) off s2 else s2
        releaseAgent (.strand c o.slot o.k) o.seq { s3 with seq := s3.seq + 1 }
    | none => releaseAgent (.strand c o.slot o.k) o.seq (dropOp c o s)
  | .tst eid off v => match (s.cell c).entry eid with
    | some e => if held || !e.here then s else putLens c o.slot o.k o.seq eid (s.clk + 3) (tstParts off v) (dropOp c o s)
    | none => dropOp c o s
  | .adrn eid src m n rnd nan asInt => match (s.cell c).entry eid with
    | some e =>
      if held || !e.here then s
      else (dropOp c o s).updCell c fun x =>
        { x with rows := x.rows ++ [{ seq := o.seq, slot := o.slot, k := o.k, start := s.clk + 1, fpc := o.fpc
                                      kind := .adrn src eid m n rnd nan asInt }] }
    | none => dropOp c o s
  | .tgth eid _ => match (s.cell c).entry eid with
    | some e => if held || o.st != .parked || !e.here then s
      else s.updCell c fun x => { x with ops := x.ops.map fun p => if p == o then { p with st := .active } else p }
    | none => dropOp c o s
  | _ => s

/-- REPLAY_HANDOFF (R177, R239): the gathers and scatters that are under way move a row; at most one command goes to each receiver for the
next clk, and what has its bytes goes on. -/
def execReplayHandoff (cell : Nat) (s : State) : Out :=
  if !s.landing then .next s
  else
    let s1 := (s.cell cell).ops.foldl (fun t o => moveRow cell o t) s
    let s2 := if took s1 cell 0 then s1 else
      match firstOp (allocReady s1 cell) (s1.cell cell).ops with | some o => tryAlloc cell o s1 | none => s1
    let s3 := handDrain cell s2
    .next ((s3.cell cell).ops.foldl (fun t o => resumeOp cell o t) s3)

end Sys2Proof.Machine
end

