-- ==== Sys2Proof/Machine/ArrayEvents.lean ====
section
/-! DEFINITION. The matrix array: which operation it accepts (R197), the rows it reads and writes (R197, R198), and the rows of
ACLR, AMOV and ADRN (R199, R201). -/

namespace Sys2Proof.Machine

open Sys2Proof

/-- Register-space offset of row `i` of a physical accumulator (R37). -/
def accRow (acc i : Nat) : Nat := acc + 512 * i

/-- A row of an accumulator. -/
def readRow (s : State) (c acc i : Nat) : Nat := Memory.readN (s.cell c).regs (accRow acc i) 512

/-- Whether an accumulator row holds data that cannot be corrected (R384). -/
def rowBad (s : State) (c acc i : Nat) : Bool :=
  s.err.badRegs.any fun (c', w) => c' == c && overlap (8 * w) 8 (accRow acc i) 512

/-- Put the write of an accumulator row in flight (R197, R199): exposed, on the engines' side of R44. -/
def putRow (c : Nat) (o : RowOp) (acc i due mask val : Nat) (s : State) : State :=
  s.updCell c fun x =>
    { x with wr := x.wr ++ [{ seq := o.seq, slot := o.slot, k := o.k, engine := true, interlock := false, slate := false
                              due := due, off := accRow acc i, len := 512, mask := mask, val := val }] }

/-! ## Acceptance (R197) -/

/-- The last clk in which an operation writes row `i` of an accumulator, if that lies after clk `t`. -/
def RowOp.pendingRow (o : RowOp) (acc i t : Nat) : Option Nat :=
  let w : Option Nat := match o.kind with
    | .mma m _ => if m.accD = acc ∧ i < m.rowsOut then some (o.start + 40 + m.d + i) else none
    | .aclr a => if a = acc then some (o.start + 2 + i) else none
    | .amov d _ => if d = acc then some (o.start + 2 + i) else none
    | .adrn _ _ _ _ _ _ _ => none
  w.filter fun v => decide (t < v)

/-- Condition 3 of R197 for an operation that would start in clk `start`: writes of earlier accepted operations, and of an
ACLR or AMOV that issued earlier, lie before its row reads. -/
def rowsClear (x : Cell) (q : Nat) (m : MmaOp) (start t : Nat) : Bool :=
  (List.range m.rowsIn).all fun i =>
    let rd := start + 39 + m.d + i
    (x.rows.all fun o => match o.kind, o.pendingRow m.accIn i t with
      | .mma _ _, some w => decide (w < rd)
      | _, some w => decide (q < o.seq) || decide (w < rd)
      | _, none => true)
    && x.wr.all fun w => w.len != 512 || w.off != accRow m.accIn i || decide (w.due < rd)

/-- The granules that an operation reads of an operand are full. -/
def operandReady (x : Cell) (eid n koff klen : Nat) : Bool :=
  match x.entry eid with
  | some e => e.here && (granulesRead e.d n koff klen).all e.isFull
  | none => false

/-- Whether the array may accept a parked operation with clk `start` (R182, R197). -/
def mmaReady (s : State) (c start : Nat) (o : LensOp) : Bool :=
  let x := s.cell c
  match o.cmd with
  | .mma m =>
    o.st == .parked && !heldBack s c o.slot && !o.reported
      && (match m.after with | some e => (match x.entry e with | some e => e.fillDone | none => true) | none => true)
      && operandReady x m.eidA m.m m.koff m.klen && operandReady x m.eidB m.n m.koff m.klen
      && (match x.lastAccept with | some (st, d) => decide (st + d ≤ start) | none => true)
      && rowsClear x o.seq m start s.clk
      && x.ops.all fun p => decide (o.seq ≤ p.seq) || match p.cmd with
        | .mma n => !(m.names n.accD || (n.mode == 2 && m.names n.accB))
        | _ => true
  | _ => false

/-- The operands' or C_in's data cannot be corrected: the structure code (R384). DEDUCED, log entry 18. -/
def mmaBad (s : State) (c : Nat) (m : MmaOp) : Option Nat :=
  if s.err.badLens.contains (c, m.eidA) || s.err.badLens.contains (c, m.eidB) then some 5
  else if (List.range m.rowsIn).any (rowBad s c m.accIn) then some 6
  else none

/-- Accept an operation: its operands are what the array reads from here on; one whose data are bad writes no row, and its
fault is reported after issue. -/
def acceptMma (c start : Nat) (o : LensOp) (m : MmaOp) (s : State) : State :=
  let s1 := dropOp c o s
  let s2 := s1.updCell c fun x => { x with lastAccept := some (start, m.d) }
  match mmaBad s c m, (s.cell c).entry m.eidA, (s.cell c).entry m.eidB with
  | some code, _, _ =>
    report { agent := .strand c o.slot o.k, kind := 1, code := fUncorrectable, fpc := o.fpc, addr := 0
             aux := BitVec.ofNat 64 code, aux2 := 0 } s2
  | none, some ea, some eb =>
    s2.updCell c fun x =>
      { x with rows := x.rows ++ [{ seq := o.seq, slot := o.slot, k := o.k, start := start, kind := .mma m (mmaCapture m ea eb), fpc := o.fpc }] }
  | none, _, _ => s2

/-- MMA_ACCEPT (R197): at the end of clk t the array picks the operation that starts in clk t + 1. -/
def execMmaAccept (cell : Nat) (s : State) : Out :=
  if !s.landing then .next s
  else
    match firstOp (mmaReady s cell (s.clk + 1)) (s.cell cell).ops with
    | some o => match o.cmd with
      | .mma m => .next (acceptMma cell (s.clk + 1) o m s)
      | _ => .next s
    | none => .next s

/-! ## Rows (R197 to R201) -/

/-- Replace or remove a row operation. -/
def setRowOp (c : Nat) (o : RowOp) (o' : Option RowOp) (s : State) : State :=
  s.updCell c fun x => { x with rows := x.rows.filterMap fun p => if p == o then o' else some p }

/-- The row of an accepted matrix operation in this clk. -/
def mmaStep (c : Nat) (o : RowOp) (s : State) : State :=
  match o.kind with
  | .mma m d =>
    let o1 := { o with consumed := o.consumed || decide (o.start + m.d ≤ s.clk) }
    if s.clk = o.start + 39 + m.d + o.row then
      let i := o.row
      let (mask, v) := mmaRow m d i (if m.rowsIn = 0 then 0 else readRow s c m.accIn i)
      let s1 := putRow c o m.accD i (s.clk + 1) mask v s
      setRowOp c o (if i + 1 = m.rowsOut then none else some { o1 with row := i + 1 }) s1
    else setRowOp c o (some o1) s
  | _ => s

/-- ARRAY_ROW_WRITE (R197, R198): each accepted operation reads a row in this clk and writes it in the next. -/
def execArrayRowWrite (cell : Nat) (s : State) : Out :=
  if !s.landing then .next s
  else .next ((s.cell cell).rows.foldl (fun t o => mmaStep cell o t) s)

/-- The accumulator rows that an AMOV or an ADRN reads: the accumulator and how many. -/
def RowOp.source (o : RowOp) : Option (Nat × Nat) :=
  match o.kind with
  | .amov _ src => some (src, 128)
  | .adrn src _ m _ _ _ _ => some (src, m)
  | _ => none

/-- An AMOV or ADRN meets a row that cannot be corrected: of all its rows before it reads the first, then of the one that it comes to
(R383, R384). -/
def sourceBad (s : State) (c : Nat) (o : RowOp) : Bool :=
  match o.source with
  | some (acc, n) => if o.row = 0 then (List.range n).any (rowBad s c acc) else rowBad s c acc o.row
  | none => false

/-- The row of an ACLR, AMOV or ADRN in this clk. One that would read a bad row ends with a fault reported after issue, as a matrix
operation whose C_in is bad does (R384). DEDUCED, log entry 18. -/
def accumStep (c : Nat) (o : RowOp) (s : State) : State :=
  if s.clk < o.start + o.row then s
  else if sourceBad s c o then
    report { agent := .strand c o.slot o.k, kind := 1, code := fUncorrectable, fpc := o.fpc, addr := 0, aux := 6, aux2 := 0 } (setRowOp c o none s)
  else
    let i := o.row
    let next (n : Nat) : Option RowOp := if i + 1 = n then none else some { o with row := i + 1 }
    match o.kind with
    | .aclr acc => setRowOp c o (next 128) (putRow c o acc i (o.start + 2 + i) (2 ^ 128 - 1) 0 s)
    | .amov dst src => setRowOp c o (next 128) (putRow c o dst i (o.start + 2 + i) (2 ^ 128 - 1) (readRow s c src i) s)
    | .adrn src eid m n rnd nan asInt =>
      match (s.cell c).entry eid with
      | some e =>
        setRowOp c o (next m) (putLens c o.slot o.k o.seq eid (o.start + 6 + i) (adrnParts e n rnd nan asInt i (readRow s c src i)) s)
      | none => setRowOp c o none s
    | .mma _ _ => s

/-- ACCUM_ROW_WRITE (R199, R201): each ACLR, AMOV and ADRN moves one row in this clk. -/
def execAccumRowWrite (cell : Nat) (s : State) : Out :=
  if !s.landing then .next s
  else .next ((s.cell cell).rows.foldl (fun t o => accumStep cell o t) s)

end Sys2Proof.Machine
end

