-- ==== Sys2Proof/Machine/HubOps.lean ====
section
/-! DEFINITION. Operations of the hub that several steps share: its reads and increments (R207, R407), the end of a die-queue
command (R300, R303), teardown of a context (R291), fencing and the failed state (R385, R388), and the handling of errors
that an array cannot correct (R383). -/

namespace Sys2Proof.Machine

open Sys2Proof

/-! ## Hub accesses -/

/-- Read `n` bytes at a virtual address of a context for the hub, page by page; or the fault code and cause word. `task`
says whether it is a task access (R321). -/
def hubReadRuns (ctx : Nat) (task : Bool) : List (Word × Nat) → State → Except (Nat × Word) (List Byte) × State
  | [], s => (.ok [], s)
  | (v, n) :: rs, s =>
    match translateHub ctx v 0 task s with
    | (.hit t, s) =>
      let pa := t.phys v
      match s.badAt pa n with
      | some c => (.error (fUncorrectable, badWord c), s)
      | none =>
        let l := s.memBytes pa n t.key
        match hubReadRuns ctx task rs s with
        | (.ok ls, s) => (.ok (l ++ ls), s)
        | r => r
    | (.bad c l, s) => (.error (causeCode c, causeWord c l 0), s)
    | (.wait, s) => (.error (0, 0), s)

/-- The same as a number. -/
def hubRead (ctx : Nat) (task : Bool) (va : Word) (n : Nat) (s : State) : Except (Nat × Word) Nat × State :=
  match hubReadRuns ctx task (pageRuns va n) s with
  | (.ok l, s) => (.ok (leNat l), s)
  | (.error e, s) => (.error e, s)

/-- Read `n` bytes of a record, as `hubReadRuns` does but through the launch translation cache (R298). -/
def launchReadRuns (ctx : Nat) (task : Bool) : List (Word × Nat) → State → Except (Nat × Word) (List Byte) × State
  | [], s => (.ok [], s)
  | (v, n) :: rs, s =>
    match translateLaunch ctx v 0 task s with
    | (.hit t, s) =>
      let pa := t.phys v
      match s.badAt pa n with
      | some c => (.error (fUncorrectable, badWord c), s)
      | none =>
        let l := s.memBytes pa n t.key
        match launchReadRuns ctx task rs s with
        | (.ok ls, s) => (.ok (l ++ ls), s)
        | r => r
    | (.bad c l, s) => (.error (causeCode c, causeWord c l 0), s)
    | (.wait, s) => (.error (0, 0), s)

/-- A record of 256 bytes as a number. -/
def launchRead (ctx : Nat) (task : Bool) (va : Word) (s : State) : Except (Nat × Word) Nat × State :=
  match launchReadRuns ctx task (pageRuns va 256) s with
  | (.ok l, s) => (.ok (leNat l), s)
  | (.error e, s) => (.error e, s)

/-- Write bytes at virtual addresses of a context for the hub, page by page. -/
def hubWriteRuns (ctx : Nat) (task : Bool) : List (Word × Nat) → List Byte → State → Except (Nat × Word) State × State
  | [], _, s => (.ok s, s)
  | (v, n) :: rs, l, s =>
    match translateHub ctx v 1 task s with
    | (.hit t, s) =>
      let pa := t.phys v
      match s.badPart pa n with
      | some c => (.error (fUncorrectable, badWord c), s)
      | none => hubWriteRuns ctx task rs (l.drop n) (s.memWriteL 0 pa t.key (l.take n))
    | (.bad c l, s) => (.error (causeCode c, causeWord c l 1), s)
    | (.wait, s) => (.error (0, 0), s)

/-- Add to the 8-byte word at a virtual address of a context, as SEMADD does (R207, R407). `task` says that a CO page refuses. -/
def hubAdd (ctx : Nat) (va : Word) (n : Word) (task : Bool) (s : State) : Except (Nat × Word) State × State :=
  match translateHub ctx va 2 task s with
  | (.hit t, s) =>
    let pa := t.phys va
    match s.badAt pa 8 with
    | some c => (.error (fUncorrectable, badWord c), s)
    | none => (.ok (s.memWrite 0 pa 8 ((s.memRead pa 8 t.key + n.toNat) % 2 ^ 64) t.key), s)
  | (.bad c l, s) => (.error (causeCode c, causeWord c l 2), s)
  | (.wait, s) => (.error (0, 0), s)

/-- A fault record of KIND 11 that names no strand (R303, R357, R407). -/
def hubRecord (ctx code : Nat) (addr aux aux2 : Word) (s : State) : State :=
  holdRecord ctx 0 0 .S false { kind := 3, code := code, fpc := 0, rpc := 0, addr := addr, aux := aux, aux2 := aux2 } s

/-! ## The end of a die-queue command (R300, R303) -/

/-- Fields of a command record (R301). -/
def cmdOpc (r : DieCmd) : Nat := bits r.raw.toNat 7 0
def cmdHold (r : DieCmd) : Bool := bit r.raw.toNat 8
def cmdSig (r : DieCmd) : Bool := bit r.raw.toNat 9
def cmdCtx (r : DieCmd) : Nat := bits r.raw.toNat 39 32
def cmdAddr (r : DieCmd) : Word := BitVec.ofNat 64 (bits r.raw.toNat 127 64)
def cmdMask (r : DieCmd) : Nat := bits r.raw.toNat 191 128
def cmdArg (r : DieCmd) : Word := BitVec.ofNat 64 (bits r.raw.toNat 255 192)
def cmdSaddr (r : DieCmd) : Word := BitVec.ofNat 64 (bits r.raw.toNat 319 256)
def cmdSval (r : DieCmd) : Word := BitVec.ofNat 64 (bits r.raw.toNat 383 320)

/-- Take the head of a queue off it. -/
def popQueue (die q : Nat) (s : State) : State :=
  s.updDieq die q fun y => { y with head := y.head + 1, recs := y.recs.drop 1, started := false, len := 0x1000, toffs := [], coffs := [], cells := [], back := [], run := none }

/-- Record the failure of the command at entry `idx` of a queue (R303). -/
def queueRecord (die q idx ctx cause : Nat) (s : State) : State :=
  hubRecord ctx fLaunchRefused 0 (BitVec.ofNat 64 cause) (BitVec.ofNat 64 (idx % 32 + q * 2 ^ 5 + die * 2 ^ 8)) s

/-- The command at the head fails: a record, no increment, and the queue goes on. DEDUCED, log entry 23. -/
def failHead (die q cause : Nat) (s : State) : State :=
  match (s.dieq die q).recs with
  | r :: _ => popQueue die q (queueRecord die q (s.dieq die q).head.toNat (cmdCtx r) cause s)
  | [] => s

/-- The increment of a command that completes with SIG = 1; the code where its address is refused. -/
def signalDone (r : DieCmd) (s : State) : Except Nat State × State :=
  if cmdSig r then
    match hubAdd (cmdCtx r) (cmdSaddr r) (cmdSval r) r.task s with
    | (.ok t, _) => (.ok t, t)
    | (.error _, s) => (.error 0x0107, s)
  else (.ok s, s)

/-- The command at the head completes (R300). -/
def completeHead (die q : Nat) (s : State) : State :=
  match (s.dieq die q).recs with
  | r :: _ => match signalDone r s with
    | (.ok t, _) => popQueue die q t
    | (.error c, t) => failHead die q c t
  | [] => s

/-- A RUN with HOLD = 0 whose chain has been accepted releases its queue (R300). -/
def releaseRun (die q : Nat) (s : State) : State :=
  let y := s.dieq die q
  match y.recs, y.run with
  | r :: _, some l =>
    if cmdHold r then s
    else (popQueue die q s).updDieq die q fun z => { z with running := z.running ++ [(l, y.head.toNat, r)] }
  | _, _ => s

/-! ## Teardown (R225, R291, R351) -/

/-- The resident tasks of a context: cell and slot. -/
def tasksOf (s : State) (ctx : Nat) : List (Nat × Nat) :=
  s.cells.flatMap fun (c, x) => x.slots.filterMap fun (k, y) => if y.st != .free && y.ctx == ctx then some (c, k) else none

/-- A frame of λ0 that the hub itself sends (R353). -/
def controlFrame (s : State) (kind : Nat) (data time : Word) : Frame :=
  { place := 0, kind := kind, sender := s.prism.self, epoch := s.prism.epoch, op := 0, size := 0, offset := 0, data := data, time := time }

/-- The nonce of a frame (R406): its wavelength, 8 bits, the EPOCH, 16 bits, and the wavelength's frame count within it, 72 bits. -/
def frameNonce (wave epoch count : Nat) : Nat := wave % 2 ^ 8 * 2 ^ 88 + epoch % 2 ^ 16 * 2 ^ 72 + count % 2 ^ 72

/-- The first 48 of a λ0 frame's 64 bytes (R353). -/
def frameBody (f : Frame) : Nat :=
  layout [ (8, f.place), (1, f.kind), (1, f.sender), (2, f.epoch), (1, f.op), (1, f.size), (2, 0), (4, f.offset), (4, 0)
         , (8, f.data.toNat), (8, f.time.toNat), (8, 0) ]

/-- The 64 bytes of a λ0 frame, the first the least significant (R353). -/
def frameBits (f : Frame) : Nat := layout [(48, frameBody f), (16, f.tag.toNat)]

/-- The tag of a frame under a group key (R353, R406). -/
def frameTag (f : Frame) (key : BitVec 256) : BitVec 128 := Config.gcmTag key (frameNonce f.wave f.epoch f.count) (frameBody f)

/-- A frame that is transmitted: it takes the next of the wavelength's frame counts, and its tag. -/
def Prism.seal (p : Prism) (f : Frame) : Frame :=
  let g := { f with count := Tab.get 0 f.wave p.counts }
  { g with tag := frameTag g p.key }

/-- The group key of an epoch of λ0, if the package holds it (R406). -/
def Prism.keyFor (p : Prism) (e : Nat) : Option (BitVec 256) :=
  if p.keyEpoch = e then some p.key else if p.prevEpoch = e then some p.prevKey else none

/-- The tag of a frame is good: the package holds the key of its epoch, and the tag is the one under it (R356, R406). -/
def tagGood (s : State) (f : Frame) : Bool := (s.prism.keyFor f.epoch).any fun k => f.tag == frameTag f k

/-- The epoch of a wavelength. -/
def waveEpoch (p : Prism) (w : Nat) : Nat := if w = 0 then p.epoch else Tab.get 0 w p.epochs

/-- Whether epoch `a` lies before epoch `b`, in the 16 bits of EPOCH (R353, R358). -/
def epochBefore (a b : Nat) : Bool :=
  let d := (b + 2 ^ 16 - a % 2 ^ 16) % 2 ^ 16
  decide (0 < d) && decide (d < 2 ^ 15)

/-- The tag of a data frame (R350, R406). The manual gives no layout of one. DESIGN CHOICE, log entry 69. -/
def dataTag (f : DataFrame) (key : BitVec 256) : BitVec 128 :=
  Config.gcmTag key (frameNonce f.wave f.epoch f.count) (layout [(1, f.sender), (8, f.offset)] + 2 ^ 72 * leNat f.bytes)

/-- The tag of a data frame is good under the group key or the one before it. -/
def dataTagGood (s : State) (f : DataFrame) : Bool := f.tag == dataTag f s.prism.key || f.tag == dataTag f s.prism.prevKey

/-- A frame of a wavelength has been counted (R406). -/
def countFrame (w n : Nat) (s : State) : State :=
  { s with prism := { s.prism with counts := Tab.set w (max (n + 1) (Tab.get 0 w s.prism.counts)) s.prism.counts } }

/-- Put a control frame in the λ0 send queue. -/
def sendFrame (f : Frame) (s : State) : State := { s with prism := { s.prism with sendq := s.prism.sendq ++ [(0, f)] } }

/-- A context that is destroyed leaves the Prism: the operations of its killed tasks are removed, and LEAVE goes out (R351). -/
def leavePrism (ctx : Nat) (s : State) : State :=
  if prismMember s ctx then
    let gone (id : Nat) : Bool := s.accs.any fun a => a.id == id && a.orphan && a.ctx == ctx
    let s1 := { s with
      prism := { s.prism with sendq := s.prism.sendq.filter fun q => !gone q.1 }
      accs := s.accs.filter fun a => !(a.orphan && a.ctx == ctx && s.prism.sendq.any fun q => q.1 == a.id) }
    sendFrame (controlFrame s1 0x31 0 0) (s1.updCtx ctx fun x => { x with prismLive := false })
  else s

/-- A context enters DYING: its tasks are killed (R291). -/
def beginDying (ctx : Nat) (s : State) : State :=
  if (s.ctxOf ctx).st = .live then
    let s1 := s.updCtx ctx fun x => { x with st := .dying }
    leavePrism ctx ((tasksOf s1 ctx).foldl (fun t (c, k) => killTask c k t) s1)
  else s

/-! ## Fencing and failure (R340, R385, R388) -/

/-- Reticle ticks in one second (R5). -/
def second : Nat := 4000000000

/-- Kill a task of a cell that is fenced: it counts as failed with FIRST = 0x08 (R388). -/
def fenceKill (c k : Nat) (s : State) : State :=
  countEnded (s.slot c k).recId (some fUncorrectable) (clearTask c k s)

/-- Positions of a record that can no longer be handed count as failed. DEDUCED, log entry 24. -/
def failPositions (rid n : Nat) (s : State) : State :=
  { s with recs := updFirst (fun r => r.id == rid) (fun r =>
      { r with handed := r.handed + n, failed := r.failed + n
               first := if r.first = 0 ∧ n ≠ 0 then fUncorrectable else r.first }) s.recs }

/-- A cell is fenced: its tasks are killed, and what it held of records counts as failed (R388). -/
def dropCell (c : Nat) (s : State) : State :=
  if bit s.err.fencedCells c then s
  else
    let s1 := { s with err := { s.err with fencedCells := s.err.fencedCells ||| 2 ^ c } }
    let s2 := (s1.cell c).slots.foldl (fun t (k, y) => if y.st = .free then t else fenceKill c k t) s1
    let s3 := (s2.cell c).iterqs.foldl (fun t q => failPositions q.rid q.ents.length t) s2
    -- a position that a steal has been answered with is on its way to the cell (R281, R288)
    let s3 := match (s3.cell c).steal with
      | some st => if st.got.isSome then failPositions st.rid 1 s3 else s3
      | none => s3
    s3.updCell c fun x => { x with iterqs := [], steal := none }

/-- `n` bytes at offset `o` of a record (R269). -/
def recField (raw o n : Nat) : Nat := raw / 256 ^ o % 256 ^ n
/-- CTRL of a record, its BLK and its LOCK (R271). -/
def recCtrl (raw : Nat) : Nat := recField raw 0xC8 8
def recBlk (raw : Nat) : Nat := bits (recCtrl raw) 63 52
def recLock (raw : Nat) : Bool := bit (recCtrl raw) 44

/-- The cells of a mask that are not fenced. -/
def cellsLeft (s : State) (mask : Nat) : Nat := mask &&& (2 ^ 128 - 1 - s.err.fencedCells % 2 ^ 128)

/-- Every position of a record has been dealt, or of a LOCK record handed. -/
def Rec.dealtOut (q : Rec) : Rec :=
  if recLock q.raw then { q with lockNext := max q.total q.lockNext } else { q with nextBlock := max q.nextBlock (ceilDiv q.total (recBlk q.raw)) }

/-- Positions of a record that have not been dealt, or of a LOCK record not handed. -/
def Rec.undealt (q : Rec) : Nat := q.total - (if recLock q.raw then q.lockNext else q.nextBlock * recBlk q.raw)

/-- What a record had left for cells that are there no longer counts as failed (R288): the positions dealt to a die none of whose cells of
its CMASK is left, and where no cell of CMASK is left those not yet dealt, or not yet handed of a LOCK record, too.
DEDUCED, log entry 24. -/
def failStranded (s : State) : State :=
  s.recs.foldl (fun t r =>
    let left := cellsLeft s r.cmask
    let gone := r.dealt.filter fun (d, _) => bits left (16 * d + 15) (16 * d) == 0
    let drop (q : Rec) : Rec :=
      let q1 := { q with dealt := q.dealt.filter fun (d, _) => bits left (16 * d + 15) (16 * d) != 0 }
      if left = 0 then q1.dealtOut else q1
    failPositions r.id ((gone.map fun p => p.2.length).sum + if left = 0 then r.undealt else 0)
      { t with recs := updFirst (fun q => q.id == r.id) drop t.recs }) s

/-- Fence a cell in service (R388); `code` is the structure code of its event (R383, R387). -/
def fenceCell (code c : Nat) (s : State) : State :=
  if bit s.err.fencedCells c then s
  else errorNoted (0x10 + c / 16) 5 code (BitVec.ofNat 64 c) allOnes (failStranded (dropCell c s))

/-- The cells of a set of dies, as bits. -/
def cellsOf (dies : Nat) : Nat := ((setBits 8 dies).map fun d => 0xFFFF * 2 ^ (16 * d)).foldl (· ||| ·) 0

/-- Fence a die in service: its cells, its stack, its queues (R388, R340). Its one event names its stack's first physical address.
DEDUCED, log entry 34. -/
def fenceDie (d : Nat) (s : State) : State :=
  if bit s.err.fencedDies d then s
  else
    let s1 := { s with err := { s.err with fencedDies := s.err.fencedDies ||| 2 ^ d } }
    let s2 := (List.range 16).foldl (fun t i => dropCell (16 * d + i) t) s1
    errorNoted (0x10 + d) 5 0x0E (BitVec.ofNat 64 (d * 2 ^ 36)) allOnes <| failStranded
      { s2 with
        recs := s2.recs.map fun r => { r with asked := r.asked.filter fun p => p.2 != d }
        dieqs := s2.dieqs.filter fun (k, _) => k / 8 != d
        rdc := s2.rdc.filter fun r => r.die != d }

/-- The failed state, by a ninth lost sector at `pa`: every context enters DYING and only a cold reset ends it (R385, R387). -/
def failPackage (code pa : Nat) (s : State) : State :=
  let s1 := { s with err := { s.err with failedState := true } }
  errorNoted 0 5 code (BitVec.ofNat 64 pa) allOnes (s1.ctxs.foldl (fun t (n, _) => beginDying n t) s1)

/-! ## Errors that an array cannot correct (R383, R385) -/

/-- A Lens entry struck by an error: data that can be fetched again are, data that cannot fault their consumers. -/
def strikeLens (c eid : Nat) (s : State) : State :=
  match (s.cell c).entry eid with
  | none => s
  | some e =>
    let d := c / 16
    if e.st = .clean ∨ e.st = .filling then
      let s1 := countCorrected (1 + d) (0x10 + d) 0x05 (BitVec.ofNat 64 c) s
      if (s1.cell c).bound eid then
        { s1.updCell c fun x => x.refill eid (if e.resolved then some e.ver else e.want) with
          fillReads := s1.fillReads.filter fun r => !(r.cell == c && r.eid == eid) }
      else dropEntry c eid s1
    else
      countUncorrected (1 + d) (0x10 + d) 1 0x05 (BitVec.ofNat 64 c) (BitVec.ofNat 64 e.ctx)
        { s with err := { s.err with badLens := (c, eid) :: s.err.badLens } }

/-- State of a strand, a queue or a slate that fails: the task freezes with a KIND 10 record, and the cell is fenced when that
happens twice within a second (R383, R388). DEDUCED, log entry 31. -/
def strikeStrand (c k : Nat) (s : State) : State :=
  let y := s.slot c k
  if y.st = .free then s
  else
    let d := c / 16
    let s1 := countUncorrected (1 + d) (0x10 + d) 1 0x09 (BitVec.ofNat 64 c) (BitVec.ofNat 64 y.ctx) s
    let s2 := taskFault c k .S { kind := 2, code := fUncorrectable, fpc := y.s.pc, rpc := y.s.pc, aux := 0x09, killOnly := true } s1
    let again := (s2.cell c).failTimes.any fun t => decide ((s2.rt - t).toNat ≤ second)
    let s3 := s2.updCell c fun x => { x with failTimes := [s2.rt] }
    if again then fenceCell 0x09 c s3 else s3

/-- A word of a conductor's memory that cannot be corrected halts the conductor as it meets it (R383). -/
def condMemFault (n : Nat) (s : State) : State :=
  let y := s.condOf n
  condFault n { kind := 2, code := fUncorrectable, fpc := y.pc, rpc := y.pc, aux := 0x0A } s

/-- Storage struck by an error that its code cannot correct (R383). R385 gives a lost sector structure 0x02 at every access; the event of an
L1's sector carries 0x03.
DESIGN CHOICE, log entry 5. DESIGN CHOICE, log entry 10. DEDUCED, log entry 31. -/
def strike (u : Upset) (s : State) : State :=
  match u with
  | .hbm pa =>
    let d := homeDie pa
    let w := pa / 32 * 32
    if s.err.badHbm.contains w then s
    else
      let rows := if s.err.repairRows.any fun a => Config.hbmRow a == Config.hbmRow pa then s.err.repairRows else pa :: s.err.repairRows
      countUncorrected (1 + d) (0x10 + d) 1 0x01 (BitVec.ofNat 64 pa) allOnes
        { s with err := { s.err with badHbm := w :: s.err.badHbm, repairRows := rows } }
  | .dirtySector pa inL1 ninth =>
    let d := homeDie pa
    let w := pa / 64 * 64
    let code := if inL1 then 0x03 else 0x02
    if s.err.lost.contains w then s
    else if ninth && decide (8 ≤ (s.err.lost.filter fun q => homeDie q == d).length) then failPackage code w s
    else countUncorrected (1 + d) (0x10 + d) 2 code (BitVec.ofNat 64 w) allOnes { s with err := { s.err with lost := w :: s.err.lost } }
  | .cleanCopy source code at' => countCorrected source (sourceOf source) code (BitVec.ofNat 64 at') s
  | .port source at' =>
    if 9 ≤ source ∧ source ≤ 28 then countUncorrected source (sourceOf source) 1 0 (BitVec.ofNat 64 at') allOnes s else s
  | .rdc die pa =>
    countCorrected (1 + die) (0x10 + die) 0x04 (BitVec.ofNat 64 pa)
      { s with rdc := s.rdc.filter fun r => !(r.die == die && r.pa == pa / 64 * 64) }
  | .lens cell eid => strikeLens cell eid s
  | .reg cell off =>
    countUncorrected (1 + cell / 16) (0x10 + cell / 16) 1 0x06 (BitVec.ofNat 64 cell) allOnes
      { s with err := { s.err with badRegs := (cell, off / 8) :: s.err.badRegs } }
  | .strandState cell slot => strikeStrand cell slot s
  | .condMem n off =>
    let s1 := countUncorrected 0 0 1 0x0A (BitVec.ofNat 64 n) allOnes { s with err := { s.err with badCond := (n, off / 8 * 8) :: s.err.badCond } }
    if (s1.condOf n).st = .running then condMemFault n s1 else s1
  | .replica => countCorrected 28 0x41 0x0B 0
      (if s.ctxs.any fun (_, x) => x.prism && x.prismLive then { s with prism := { s.prism with copying := true } } else s)

end Sys2Proof.Machine
end

