-- ==== Sys2Proof/Machine/CollEvents.lean ====
section
/-! DEFINITION. The collective engine (R210, R350, R358, R363 to R366): descriptors, matching across members, reduction in the
order of member indexes, and completion. -/

namespace Sys2Proof.Machine

open Sys2Proof

/-- What every member must present alike (R364). -/
def collSame (a b : BitVec 512) : Bool :=
  collOp a == collOp b && collType a == collType b && collRed a == collRed b && collMembers a == collMembers b
    && collCount a == collCount b && collTag a == collTag b

/-! ## Reduction (R365) -/

/-- The members' contributions to one element, in ascending member index, reduced. -/
def reduceElem (t : ETy) (red : Nat) (l : List Nat) : Nat :=
  match l with
  | [] => 0
  | x :: xs =>
    if red = 0 then
      if t.isFloat then
        roundFmt t 0 (xs.foldl (fun acc v => decodeF .f32 (roundFmt .f32 0 (addX 0 acc (decodeF t v)))) (decodeF t x))
      else xs.foldl (fun acc v => (acc + v) % 2 ^ t.width) x
    else if t.isFloat then
      roundFmt t 0 (xs.foldl (fun acc v => if red = 1 then minX acc (decodeF t v) else maxX acc (decodeF t v)) (decodeF t x))
    else
      xs.foldl (fun acc v => if red = 1 then (if decodeI t v < decodeI t acc then v else acc)
        else (if decodeI t acc < decodeI t v then v else acc)) x

/-- The elements that a member's DST receives, from every member's contribution in ascending member index. -/
def collResult (d : BitVec 512) (self : Nat) (parts : List (List Nat)) : List Nat :=
  let t := ETy.ofCode (collType d)
  if collOp d = 2 then parts.flatMap fun p => (List.range (collCount d)).map fun i => p.getD i 0
  else
    let o := if collOp d = 3 then collRank d self * collCount d else 0
    (List.range (collCount d)).map fun i => reduceElem t (collRed d) (parts.map fun p => p.getD (o + i) 0)

/-! ## Steps -/

def findColl (s : State) (ctx ticket : Nat) : Option Coll := (s.ctxOf ctx).colls.find? fun c => c.ticket == ticket

def updColl (ctx ticket : Nat) (f : Coll → Coll) (s : State) : State :=
  s.updCtx ctx fun x => { x with colls := x.colls.map fun c => if c.ticket == ticket then f c else c }

/-- The engine acts as an agent of a task or of a conductor (R321). -/
def collTask (c : Coll) : Bool := match c.agent with | .strand _ _ _ => true | .cond _ => false

/-- A collective ends with a status other than success, at this member and, as these are told, at every other (R364).
DEDUCED, log entry 32. -/
def endCollTell (ctx : Nat) (c : Coll) (st : Nat) (s : State) : State :=
  (collOthers c.desc (s.ctxOf ctx).self).foldl (fun t m => postPacket (.collStatus m c.desc st) t) (endColl ctx c.ticket st s)

/-- The collective ends with status 4 or 5: where the engine may write DST, its bytes are unspecified (R364).
DESIGN CHOICE, log entry 4. -/
def endSpoilt (ctx : Nat) (c : Coll) (st : Nat) (s : State) : State :=
  let n := collWidth c.desc * collDstLen c.desc
  let l := (List.range n).map fun i => Config.freeByte s.free i
  let s1 := match hubWriteRuns ctx (collTask c) (pageRuns (collDst c.desc) n) l s with
    | (.ok t, _) => t
    | (.error _, t) => t
  endCollTell ctx c st s1

/-- The collective is one of a member that has issued an earlier one with the same MEMBERS and TAG, still outstanding.
DEDUCED, log entry 32. -/
def collTwice (s : State) (ctx : Nat) (c : Coll) : Bool :=
  (s.ctxOf ctx).colls.any fun q =>
    decide (q.ticket < c.ticket) && collMembers q.desc == collMembers c.desc && collTag q.desc == collTag c.desc

/-- `n` bytes that nothing constrains. DESIGN CHOICE, log entry 4. -/
def freeBytes (s : State) (n : Nat) : List Byte := (List.range n).map (Config.freeByte s.free)

/-- The contribution as data frames, in their order: blocks of 32 bytes, block `i` on λ(1 + i mod 7). DESIGN CHOICE, log entry 69. -/
def dataBlocks (sender : Nat) (l : List Byte) : List DataFrame :=
  (List.range (ceilDiv l.length 32)).map fun i => { sender := sender, wave := 1 + i % 7, offset := 32 * i, bytes := (l.drop (32 * i)).take 32 }

/-- Data frames await the Glint of their wavelengths (R350). -/
def queueData (l : List DataFrame) (s : State) : State :=
  { s with prism := { s.prism with
    dataq := l.foldl (fun t f => Tab.set f.wave (Tab.get [] f.wave t ++ [f]) t) s.prism.dataq } }

/-- COLLECTIVE_MATCH (R364): with every member's COLL issued and alike, the engine reads SRC and broadcasts its contribution (R350).
DEDUCED, log entry 32. -/
def execCollectiveMatch (ctx ticket : Nat) (peers : List CollPeer) (s : State) : Out :=
  match findColl s ctx ticket with
  | none => .next s
  | some c =>
    let d := c.desc
    let others := collOthers d (s.ctxOf ctx).self
    if s.landing || c.matched then .next s
    else if !collValid s ctx d then .next (endColl ctx ticket 3 s)
    else if collTwice s ctx c then .next (endCollTell ctx c 2 s)
    else if others.any fun m => !memberPresent s ctx m then .next (endCollTell ctx c 1 s)
    else if s.mirHold || others.any (fun m => !peers.any fun p => p.member == m) then .next s
    else if others.any (fun m => peers.any fun p => p.member == m && !collSame p.desc d) then .next (endCollTell ctx c 2 s)
    else
      let w := collWidth d
      match hubRead ctx (collTask c) (collSrc d) (w * collSrcLen d) s with
      | (.error _, s) => .next (endSpoilt ctx c 4 s)
      | (.ok v, s) =>
        let n := w * collSrcLen d
        let bytes := if c.spoilt then freeBytes s n else leBytes n v
        let own := (List.range (collSrcLen d)).map fun i => BitVec.ofNat 64 (leNat ((bytes.drop (w * i)).take w))
        let s1 := updColl ctx ticket (fun c => { c with matched := true, own := own }) s
        .next (if others.isEmpty then s1 else queueData (dataBlocks s.prism.self bytes) s1)

/-- A member's contribution: what the facet fabric brought, with what its data frames on λ1 to λ7 brought (R350). -/
def contribution (c : Coll) (p : CollPeer) : List Nat :=
  let w := collWidth c.desc
  let b := p.elems.flatMap fun e => leBytes w e.toNat
  let b1 := (c.frames.filter fun f => f.sender == p.member).foldl (fun l f =>
    l.take f.offset ++ f.bytes.take (l.length - f.offset) ++ l.drop (f.offset + f.bytes.length)) b
  (List.range (collSrcLen c.desc)).map fun i => leNat ((b1.drop (w * i)).take w)

/-- Every member's contribution in ascending member index. DEDUCED, log entry 32. -/
def contributions (s : State) (ctx : Nat) (c : Coll) (peers : List CollPeer) : List (List Nat) :=
  (setBits 64 (collMembers c.desc)).map fun m =>
    if m = (s.ctxOf ctx).self then
      if c.spoilt then (List.range (collSrcLen c.desc)).map fun i => leNat ((freeBytes s (collWidth c.desc * (i + 1))).drop (collWidth c.desc * i))
      else c.own.map fun v => v.toNat
    else match peers.find? fun p => p.member == m with
      | some p => contribution c p
      | none => []

/-- The bytes that go to DST, where every contribution has been read: those kept since the first of them was written, or those of the
contributions that have come. -/
def collBytes (s : State) (ctx : Nat) (c : Coll) (peers : List CollPeer) : Option (List Byte) :=
  let others := (setBits 64 (collMembers c.desc)).filter fun m => m != (s.ctxOf ctx).self
  match c.out with
  | some l => some l
  | none =>
    if !c.missing.isEmpty || others.any (fun m => !peers.any fun p => p.member == m) then none
    else some ((collResult c.desc (s.ctxOf ctx).self (contributions s ctx c peers)).flatMap (leBytes (collWidth c.desc)))

/-- Some bytes of the result of a collective are written to DST before the rest (R250). -/
def collPart (ctx ticket : Nat) (peers : List CollPeer) (mask : Nat) (s : State) : State :=
  match findColl s ctx ticket with
  | none => s
  | some c =>
    match collBytes s ctx c peers with
    | some l =>
      if s.landing || !c.matched then s
      else
        let put (t : State) (i : Nat) : State :=
          match hubWriteRuns ctx (collTask c) [(collDst c.desc + BitVec.ofNat 64 i, 1)] ((l.drop i).take 1) t with
          | (.ok u, _) => u
          | (.error _, u) => u
        (setBits l.length mask).foldl put (updColl ctx ticket (fun c => { c with out := some l }) s)
    | none => s

/-- COLLECTIVE_COMPLETE (R365, R366): every contribution has been read, DST is written, and COLLW may return; or the
collective ends with the status that some member met. -/
def execCollectiveComplete (ctx ticket : Nat) (peers : List CollPeer) (peerStatus : Nat) (s : State) : Out :=
  match findColl s ctx ticket with
  | none => .next s
  | some c =>
    if s.landing || !c.matched then .next s
    else if peerStatus = 4 ∨ peerStatus = 5 then .next (endSpoilt ctx c peerStatus s)
    else if 1 ≤ peerStatus ∧ peerStatus ≤ 3 then .next (if c.out.isNone then endColl ctx ticket peerStatus s else s)
    else
      match collBytes s ctx c peers with
      | none => .next s
      | some l =>
        match hubWriteRuns ctx (collTask c) (pageRuns (collDst c.desc) l.length) l s with
        | (.ok t, _) => .next (endColl ctx ticket 0 t)
        | (.error _, t) => .next (endSpoilt ctx c 4 t)

/-- A data frame is part of its sender's contribution, and no longer missing. -/
def takeData (ctx ticket : Nat) (f : DataFrame) (s : State) : State :=
  updColl ctx ticket (fun c =>
    { c with frames := c.frames ++ [f], missing := c.missing.filter fun q => q != (f.sender, f.wave, f.count) }) s

/-- A data frame is lost: it is fetched from its sender over the facet fabric (R358). -/
def fetchData (ctx ticket sender wave n : Nat) (s : State) : State :=
  postPacket (.frameRequest sender wave n) (updColl ctx ticket (fun c => { c with missing := c.missing ++ [(sender, wave, n)] }) s)

/-- DATA_WAVELENGTH_FRAME (R350, R358): a frame is part of its sender's contribution, and one of an old epoch is discarded. A frame that is
lost, or whose tag fails, is fetched from its sender, and one that cannot be recovered ends the collective. DEDUCED, log entry 32. -/
def execDataWavelengthFrame (ctx ticket : Nat) (ev : DataEv) (s : State) : Out :=
  match findColl s ctx ticket with
  | none => .next s
  | some c =>
    if s.landing then .next s
    else
      match ev with
      | .frame f =>
        if epochBefore f.epoch (waveEpoch s.prism f.wave) then .next s
        else
          let s1 := countFrame f.wave f.count s
          .next (if dataTagGood s f then takeData ctx ticket f s1 else fetchData ctx ticket f.sender f.wave f.count s1)
      | .missing sender w n => .next (fetchData ctx ticket sender w n (countFrame w n s))
      | .fetched f => .next (if c.missing.contains (f.sender, f.wave, f.count) then takeData ctx ticket f s else s)
      | .gone sender w n => .next (if c.missing.contains (sender, w, n) then endSpoilt ctx c 5 s else s)

end Sys2Proof.Machine
end

