-- ==== Sys2Proof/Machine/Walker.lean ====
section
/-! DEFINITION. Loop-nest records and launches: the record's fields (R269 to R271), the checks of a chain (R272), the order of
positions (R273), dealing (R274), the views of a task and its start (R278, R279, R18). -/

namespace Sys2Proof.Machine

open Sys2Proof

/-! ## Fields of a record (R269 to R271) -/

def recStage (raw : Nat) : Nat := bits (recCtrl raw) 51 48
def recPrio (raw : Nat) : Nat := bits (recCtrl raw) 47 46
def recSteal (raw : Nat) : Bool := bit (recCtrl raw) 45
def recAstr (raw : Nat) : Nat := bits (recCtrl raw) 43 38
def recSstr (raw : Nat) : Nat := bits (recCtrl raw) 37 25
def recPerm (raw m : Nat) : Nat := bits (recCtrl raw) (3 * m + 9) (3 * m + 7)
def recOrder (raw : Nat) : Nat := bits (recCtrl raw) 6 5
def recNloop (raw : Nat) : Nat := bits (recCtrl raw) 4 2
def recSweep (raw : Nat) : Bool := bit (recCtrl raw) 1
def recCmask (raw : Nat) : Nat := recField raw 0x80 16
def recWord (raw o : Nat) : Word := BitVec.ofNat 64 (recField raw o 8)
def recCsem (raw : Nat) : Word := recWord raw 0xD0
def recCstat (raw : Nat) : Word := recWord raw 0xD8
def recNext (raw : Nat) : Word := recWord raw 0xE0
/-- Entry PC of a strand. -/
def recPc (raw : Nat) (k : Kind) : Word := recWord raw (0x60 + 8 * kindNo k)
/-- ROTV of a strand, for slot 0, with RB zero (R269); what the record holds at RB is not used. -/
def recRotv (raw : Nat) (k : Kind) : Word :=
  let w := (recWord raw (0xA8 + 8 * kindNo k)).toNat
  BitVec.ofNat 64 (w % 2 ^ 40 + w / 2 ^ 46 * 2 ^ 46)
/-- The bits of loop descriptor `j`, and the loop (R270). -/
def loopBits (raw j : Nat) : Nat := recField raw (16 * j) 16
def loopOf (raw j : Nat) : LoopD :=
  let v := loopBits raw j
  { count := bits v 31 0, start := bits v 63 32, step := bits v 95 64, val := bit v 96 }

/-- Trip counts of the loops that a record declares. -/
def recCounts (raw : Nat) : List Nat := (List.range (min (recNloop raw) 6)).map fun j => (loopOf raw j).count
/-- P of R273. -/
def recTotal (raw : Nat) : Nat := (recCounts raw).foldl (· * ·) 1
/-- B of R273: bits needed for the largest counter value. -/
def recB (raw : Nat) : Nat :=
  let m := (recCounts raw).foldl max 0 - 1
  if m = 0 then 0 else Nat.log2 m + 1

/-! ## The checks of R272 -/

/-- A zero field holds something else, or ORDER is 11. -/
def recZeroBad (raw : Nat) : Bool :=
  recField raw 0xE8 24 != 0 || bit (recCtrl raw) 0 || recOrder raw == 3
    || (List.range 6).any (fun j => loopBits raw j / 2 ^ 97 != 0 || (decide (recNloop raw ≤ j) && loopBits raw j != 0))

/-- PERM names each declared loop once, and nothing after them. -/
def recPermOk (raw : Nat) : Bool :=
  let n := recNloop raw
  (List.range n).all (fun j => (List.range n).any fun m => recPerm raw m == j)
    && (List.range 6).all fun m => decide (m < n) || recPerm raw m == 0

/-- The first check of R272 that record `i` of a chain fails; 0 for none. `die` restricts a RUN's records to its die (R302).
DEDUCED, log entry 24. -/
def recCode (s : State) (x : Ctx) (die : Option Nat) (chain : List Nat) (i raw : Nat) : Nat :=
  let others := (chain.zip (List.range chain.length)).filterMap fun (r, j) => if j = i then none else some r
  let mask := recCmask raw
  let n := recNloop raw
  if recZeroBad raw then 1
  else if n = 0 ∨ n = 7 then 2
  else if !recPermOk raw then 3
  else if kinds4.any fun k => !canonical (recPc raw k) || (recPc raw k).toNat % 8 != 0 then 4
  else if mask == 0 || mask &&& s.err.fencedCells != 0 || others.any (fun r => recCmask r &&& mask != 0)
      || (match die with | some d => (setBits 128 mask).any fun c => c / 16 != d | none => false) then 5
  else if decide (x.prio < recPrio raw) || (recPrio raw == 3 && !recLock raw) || (recLock raw && recSteal raw) then 6
  else if others.any (fun r => recStage r == recStage raw) || decide (16 < chain.length)
      || (recSweep raw && others.any recSweep) then 7
  else if decide (2 ^ 48 ≤ recTotal raw) || (recOrder raw == 2 && decide (48 < n * recB raw)) then 8
  else if recBlk raw = 0 then 9
  else
    let bad (v : Word) (a : Nat) : Bool := v.toNat % a != 0 || !canonical v
    if bad (recCsem raw) 8 || bad (recCstat raw) 8 || bad (recNext raw) 256 then 0xA else 0

/-- The refusal of a chain: the code in [15:0] and the record's index in [19:16]; `cut` is a record that could not be read.
DEDUCED, log entry 23. -/
def chainCode (s : State) (x : Ctx) (die : Option Nat) (chain : List Nat) (cut : Option Nat) : Option Nat :=
  let codes := (chain.zip (List.range chain.length)).map fun (r, i) => (recCode s x die chain i r, i)
  match codes.find? fun q => q.1 != 0 with
  | some (c, i) => some (c + min i 15 * 2 ^ 16)
  | none => cut.map fun i => 0xB + min i 15 * 2 ^ 16

/-- The records after one, read as bypass loads at package scope; the index of one that could not be read (R272). -/
def chainRest (ctx : Nat) (task : Bool) : Nat → Nat → Nat → State → (List (Word × Nat) × Option Nat) × State
  | 0, _, _, s => (([], none), s)
  | fuel + 1, raw, i, s =>
    let nx := recNext raw
    if nx == 0 || nx.toNat % 256 != 0 || !canonical nx then (([], none), s)
    else
      match launchRead ctx task nx s with
      | (.ok v, s) =>
        let ((l, e), s) := chainRest ctx task fuel v (i + 1) s
        (((nx, v) :: l, e), s)
      | (.error _, s) => (([], some i), s)

/-! ## The order of positions (R273) -/

/-- Lexicographic and serpentine digits, innermost level first: counters by level. -/
def digits : List Nat → Nat → List Nat
  | [], _ => []
  | c :: cs, r => (if c = 0 then 0 else r % c) :: digits cs (if c = 0 then 0 else r / c)

/-- Reverse the digits whose preceding digits have an odd sum (serpentine). -/
def serpent : List Nat → List Nat → Nat → List Nat
  | d :: ds, c :: cs, par => (if par % 2 = 1 then c - 1 - d else d) :: serpent ds cs (par + d)
  | _, _, _ => []

/-- How many Morton codes with the bits chosen so far decode within the counts: `v` the values chosen and `u` the number of
bits left open, by level. -/
def mortonCount (cs v u : List Nat) : Nat :=
  ((cs.zip v).zip u).foldl (fun n q => n * min (q.1.1 - q.1.2) (2 ^ q.2)) 1

/-- The p-th Morton code that is not skipped, found bit by bit from the top: values by level. DEDUCED, log entry 24. -/
def mortonGo (cs : List Nat) : List (Nat × Nat) → List Nat → List Nat → Nat → List Nat
  | [], v, _, _ => v
  | (b, m) :: rest, v, u, p =>
    let u' := u.set m b
    let n := mortonCount cs v u'
    if p < n then mortonGo cs rest v u' p else mortonGo cs rest (v.set m (v.getD m 0 + 2 ^ b)) u' (p - n)

/-- The loop counters n_j of position `p` (R273). -/
def counters (raw p : Nat) : List Nat :=
  let l := recNloop raw
  let cnt (j : Nat) : Nat := (loopOf raw j).count
  let cs := (List.range l).map fun m => cnt (recPerm raw m)
  let byLevel : List Nat :=
    if recOrder raw = 2 then
      let b := recB raw
      let places := (List.range b).reverse.flatMap fun i => (List.range l).map fun m => (i, m)
      mortonGo cs places (cs.map fun _ => 0) (cs.map fun _ => b) p
    else
      let ds := (digits cs.reverse p).reverse
      if recOrder raw = 1 then serpent ds cs 0 else ds
  (List.range 6).map fun j =>
    match (List.range l).find? fun m => recPerm raw m == j with
    | some m => if j < l then byLevel.getD m 0 else 0
    | none => 0

/-- The preload of s1 to s6 (R279): undeclared loops give 0 (R34). -/
def preloads (raw p : Nat) : List Nat :=
  let n := counters raw p
  (List.range 6).map fun j =>
    let d := loopOf raw j
    if recNloop raw ≤ j then 0
    else if d.val then wrap 64 (sext d.start 32 + (n.getD j 0 : Int) * sext d.step 32)
    else n.getD j 0

/-! ## Acceptance (R205, R272, R274) -/

/-- The dies that hold a present cell of a record's mask, ascending (R274). -/
def recDies (s : State) (mask : Nat) : List Nat :=
  let left := cellsLeft s mask
  (List.range 8).filter fun d => bits left (16 * d + 15) (16 * d) != 0 && !bit s.err.fencedDies d

/-- Deal the lowest undealt block of a record to a die. -/
def dealBlock (d : Nat) (r : Rec) : Rec :=
  let blk := recBlk r.raw
  let lo := r.nextBlock * blk
  if r.total ≤ lo then r
  else
    let ps := (List.range (min blk (r.total - lo))).map (lo + ·)
    { r with nextBlock := r.nextBlock + 1, dealt := Tab.set d (Tab.get [] d r.dealt ++ ps) r.dealt }

/-- The first round: until each die holds 2 blocks or none is left. -/
def dealFirst (dies : List Nat) (r : Rec) : Rec := (dies ++ dies).foldl (fun r d => dealBlock d r) r

/-- An accepted record. -/
def newRec (s : State) (id ctx launch : Nat) (byQ : Option Nat) (addr : Word) (raw : Nat) : Rec :=
  let r : Rec :=
    { id := id, ctx := ctx, launch := launch, addr := addr, raw := raw, cmask := recCmask raw, total := recTotal raw, byQ := byQ }
  if recLock raw then r else dealFirst (recDies s (recCmask raw)) r

/-- Records of a context that are accepted and not completed. -/
def openRecs (s : State) (ctx : Nat) : List Rec := s.recs.filter fun r => r.ctx == ctx

/-- The four entry PCs of every record of a chain are translated; what a walk refuses is for the first fetch to report (R298, R327). -/
def translateEntries (ctx : Nat) (recs : List (Word × Nat)) (s : State) : State :=
  (recs.flatMap fun r => kinds4.map (recPc r.2)).foldl (fun t v => (translateLaunch ctx v 3 true t).2) s

/-- Accept a chain that has room: its launch number, and the state in which its entry PCs are translated, its first blocks are dealt and
every die's RDC generation of the context has been bumped (R205, R255, R272, R274, R298). DEDUCED, log entry 24. -/
def acceptChain (ctx : Nat) (recs : List (Word × Nat)) (byQ : Option Nat) (s : State) : Nat × State :=
  let n := ((s.ctxOf ctx).launches + 1).toNat
  let new := (recs.zip (List.range recs.length)).map fun ((a, raw), i) => newRec s (s.seq + i) ctx n byQ a raw
  let t := translateEntries ctx recs s
  let s1 := { t with recs := t.recs ++ new, seq := t.seq + 2 * recs.length }
  (n, rdcBumpAll ctx (s1.updCtx ctx fun x => { x with launches := x.launches + 1 }))

/-- A chain of `n` records has room (R272). -/
def chainRoom (s : State) (ctx n : Nat) : Bool := decide ((openRecs s ctx).length + n ≤ 64)

/-! ## Register-space regions (R295) -/

/-- The s, v and a views of a task (R278). -/
structure Views where
  s : Nat
  v : Nat
  a : Nat
deriving DecidableEq, Repr

/-- ROTV of a strand for slot `k`. DEDUCED, log entry 24. -/
def slotRotv (raw k : Nat) (x : Kind) : Word :=
  let r := recRotv raw x
  if rotKind r = 0 then rotvStored r
  else rotvStored (BitVec.ofNat 64 (r.toNat % 2 ^ 3 + r.toNat / 2 ^ 22 * 2 ^ 22 + (rotBase r + k * recSstr raw * 512) % 2 ^ 22 / 8 * 8))

/-- The views of slot `k`. -/
def slotViews (raw k : Nat) : Views :=
  let up := k * recSstr raw * 512
  let av := recField raw 0xA0 8
  { s := bits (recField raw 0x90 8) 21 9 * 512 + up
    v := bits (recField raw 0x98 8) 21 8 * 256 + up
    a := bits av 63 40 * 2 ^ 40 + bits av 27 24 * 2 ^ 24 + (bits av 21 16 * 65536 + k * recAstr raw * 65536) % 2 ^ 22 }

/-- The checks of R37 on a task in slot `k`. DEDUCED, log entry 24. -/
def viewsOk (raw k : Nat) : Bool :=
  let up := k * recSstr raw * 512
  let av := recField raw 0xA0 8
  let acnt := bits av 27 24
  let vw := slotViews raw k
  decide (vw.s + 512 ≤ 0x400000) && decide (vw.v + 8192 ≤ 0x400000) && decide (acnt ≤ 8)
    && decide (bits av 21 16 * 65536 + k * recAstr raw * 65536 + acnt * 65536 ≤ 0x400000)
    && kinds4.all fun x =>
      let r := recRotv raw x
      rotKind r == 0 || (decide (rotBase r + up < 2 ^ 22) && rotvOk (slotRotv raw k x))

/-- The ranges that a task's views touch: offset and length. -/
def viewSpans (raw k : Nat) : List (Nat × Nat) :=
  let vw := slotViews raw k
  let acnt := bits vw.a 27 24
  [(vw.s, 512), (vw.v, 8192), (vw.a % 2 ^ 22, acnt * 65536)] ++ kinds4.filterMap fun x =>
    let r := slotRotv raw k x
    if rotKind r = 0 then none else some (rotBase r, rotSize r * (if rotKind r = 1 then 8 else 256))

/-- The 64 KiB regions that ranges touch. -/
def spanRegions (l : List (Nat × Nat)) : List Nat :=
  (List.range 64).filter fun g => l.any fun (o, n) => overlap o n (65536 * g) 65536

/-- Every region of a task is untagged or of its context, and none is being scrubbed (R295). -/
def regionsFree (x : Cell) (ctx : Nat) (gs : List Nat) : Bool :=
  gs.all fun g => (Tab.get 0 g x.tags == 0 || Tab.get 0 g x.tags == ctx + 1)
    && (match x.scrub with | some k => k / 64 != g | none => true)

/-! ## The start of a task (R18, R208, R278, R279) -/

/-- The lowest FREE slot of a cell. -/
def freeSlot (s : State) (c : Nat) : Option Nat :=
  if bit s.err.fencedCells c then none else (List.range 8).find? fun k => (s.slot c k).st == .free

/-- A strand at the start of a task (R18). -/
def freshStrand (pc rotv : Word) : Strand := { pc := pc, rotv := rotv }

/-- Hand position `p` of a record to slot `k`, which enters PRELOAD (R16, R276, R278). Its peer registers name the package (R41). -/
def startTask (c k p : Nat) (sweep : Bool) (r : Rec) (s : State) : State :=
  let raw := r.raw
  let vw := slotViews raw k
  let bars := (s.ctxOf r.ctx).barriers.filterMap fun (n, b) => if b.g = 0 then none else some (n, b.g)
  let y : Slot :=
    { st := .preload, ctx := r.ctx, pos := p, recId := r.id, recAddr := r.addr, launch := r.launch, prio := recPrio raw
      lock := recLock raw, round := r.round, sweep := sweep, stage := recStage raw
      sview := BitVec.ofNat 64 vw.s, vview := BitVec.ofNat 64 vw.v, aview := BitVec.ofNat 64 vw.a
      s := freshStrand (recPc raw .S) (slotRotv raw k .S), a := freshStrand (recPc raw .A) (slotRotv raw k .A)
      x := freshStrand (recPc raw .X) (slotRotv raw k .X), w := freshStrand (recPc raw .W) (slotRotv raw k .W)
      p := (List.range 16).map fun n => (n, s.selfIdx)
      arrg := bars }
  let s1 := s.updCell c fun x =>
    { x.setSlot k y with tags := (spanRegions (viewSpans raw k)).foldl (fun t g => Tab.set g (r.ctx + 1) t) x.tags }
  { s1 with recs := updFirst (fun q => q.id == r.id) (fun q =>
      { q with handed := if sweep then q.handed else q.handed + 1, live := q.live + 1 }) s1.recs }

/-- A position that the views refuse (R278): a VIEW record, and it counts as failed. -/
def refuseViews (c k p : Nat) (r : Rec) (s : State) : State :=
  let s1 := holdRecord r.ctx c k .S (recLock r.raw)
    { kind := 3, code := fView, fpc := 0, rpc := 0, aux := BitVec.ofNat 64 p } s
  { s1 with recs := updFirst (fun q => q.id == r.id) (fun q =>
      { q with handed := q.handed + 1, failed := q.failed + 1, first := if q.first = 0 then fView else q.first }) s1.recs }

/-- A record by its number. -/
def State.recOf (s : State) (id : Nat) : Option Rec := s.recs.find? fun r => r.id == id
/-- Change a record. -/
def updRec (id : Nat) (f : Rec → Rec) (s : State) : State := { s with recs := updFirst (fun r => r.id == id) f s.recs }

/-- What PRELOAD writes into s1 to s7 (R34, R279, R284). -/
def preloadRegs (raw : Nat) (y : Slot) : List Nat :=
  (if y.sweep then [y.pos, 0, 0, 0, 0, 0] else preloads raw y.pos) ++ [y.taskId]

/-- The writes of PRELOAD into the s view of slot `k`, which land at the end of clk `t` (R44). -/
def preloadWrites (raw : Nat) (y : Slot) (k t seq : Nat) : List RegWrite :=
  let base := bits y.sview.toNat 21 9 * 512
  let vals := preloadRegs raw y
  (vals.zip (List.range vals.length)).map fun (v, j) =>
    { seq := seq, slot := k, k := .S, engine := false, interlock := true, slate := false, due := t, off := base + 8 * (j + 1), len := 8
      mask := 1, val := v }

end Sys2Proof.Machine
end

