-- ==== Sys2Proof/Machine/SchedEvents.lean ====
section
/-! DEFINITION. The steps of the scheduling hardware (R272 to R287, R295, R407): acceptance, dealing, placement, hand-off,
stealing, lockstep rounds, deferral sweeps, completion, and the scrub of register-space regions. -/

namespace Sys2Proof.Machine

open Sys2Proof

/-! ## Acceptance (R205, R272, R298) -/

/-- A chain of the hub's record buffer that holds the record a LAUNCH names (R297). -/
def bufferedFor (s : State) (a : Acc) : Option Chain :=
  s.chains.find? fun q => q.agent.isNone && q.byQ.isNone && q.ctx == a.ctx && q.recs.any fun r => r.1 == a.x

/-- The chain of a LAUNCH is read in the hub already: it waits for room, or the record buffer holds its first record. -/
def chainHeld (s : State) (a : Acc) : Bool := s.chains.any (fun q => q.id == a.id) || (bufferedFor s a).isSome

/-- The rest of a chain of which the first `n` records have been read. -/
def chainOn (a : Acc) (l : List (Word × Nat)) (s : State) : (List (Word × Nat) × Option Nat) × State :=
  match l.getLast? with
  | some (_, raw) =>
    let ((more, e), s) := chainRest a.ctx (agentDie a.agent).isSome (17 - l.length) raw l.length s
    ((l ++ more, e), s)
  | none => (([], none), s)

/-- The chain that a LAUNCH names: read already and waiting for room, held in the hub's record buffer from its first record on, or read
now. A record buffered in another chain stays in it; one read whole leaves the buffer (R272, R297). -/
def launchChain (a : Acc) (s : State) : (List (Word × Nat) × Option Nat) × State :=
  match s.chains.find? fun q => q.id == a.id with
  | some q => ((q.recs, none), s)
  | none =>
    match bufferedFor s a with
    | some q =>
      let s1 : State := if q.addr = a.x then { s with chains := s.chains.filter fun p => p.id != q.id } else s
      chainOn a (q.recs.dropWhile fun r => r.1 != a.x) s1
    | none => chainOn a [(a.x, recordBits s a)] s

/-- A LAUNCH whose chain has been read: refused, waiting for room, or accepted. -/
def settleLaunch (a : Acc) (recs : List (Word × Nat)) (cut : Option Nat) (s : State) : State :=
  let s0 := { s with chains := s.chains.filter fun q => q.id != a.id }
  match chainCode s (s.ctxOf a.ctx) none (recs.map (·.2)) cut with
  | some c => refuseAcc a (lateFault a 1 fLaunchRefused a.x (BitVec.ofNat 64 c) 0 s0)
  | none =>
    if (s.ctxOf a.ctx).st != .live then finishAcc a s0
    else if chainRoom s a.ctx recs.length then
      let (n, s1) := acceptChain a.ctx recs none s0
      finishAcc a (deliver a.dst (BitVec.ofNat 64 n) a.id s1)
    else { s0 with chains := s0.chains ++ [{ id := a.id, ctx := a.ctx, agent := some a.agent, byQ := none, addr := a.x, recs := recs }] }

/-- The chain of a RUN that waits for room is accepted, and the queue engine learns its launch (R300, R302). -/
def settleRun (q : Chain) (n : Nat) (s : State) : State :=
  let s0 := { s with chains := s.chains.filter fun p => p.id != q.id }
  let (l, s1) := acceptChain q.ctx q.recs (some n) s0
  releaseRun (n / 8) (n % 8) (s1.updDieq (n / 8) (n % 8) fun y => { y with run := some l })

/-- LAUNCH_ACCEPT (R272): for a LAUNCH by its access number, or for a RUN by the number of its waiting chain. -/
def execLaunchAccept (id : Nat) (s : State) : Out :=
  if s.landing then .next s
  else
    match s.acc id with
    | some a =>
      match a.kind with
      | .launch =>
        if !mayPerform s a || !travelled s a .home then .next s
        else
          match (if chainHeld s a then none else accBad s a) with
          | some (code, va) => .next (preciseLate a fUncorrectable va (BitVec.ofNat 64 code) s)
          | none =>
            let ((recs, cut), s) := launchChain a s
            .next (settleLaunch a recs cut s)
      | _ => .next s
    | none =>
      match s.chains.find? fun q => q.id == id && q.byQ.isSome with
      | some q => match q.byQ with
        | some n => .next (if chainRoom s q.ctx q.recs.length && (s.ctxOf q.ctx).st == .live then settleRun q n s else s)
        | none => .next s
      | none => .next s

/-! ## Dealing and placement (R274, R275) -/

/-- Blocks with unplaced positions that a die walker holds of a record. -/
def blocksHeld (q : Rec) (die : Nat) : Nat :=
  let ps := Tab.get [] die q.dealt
  let blk := recBlk q.raw
  match ps, ps.getLast? with
  | p :: _, some l => l / blk - p / blk + 1
  | _, _ => 0

/-- A request of a die stands before another: it arrived earlier, or in the same clk from a lower die (R274). -/
def askBefore (p q : Nat × Nat) : Bool := decide (p.1 < q.1) || (p.1 == q.1 && decide (p.2 < q.2))

/-- BLOCK_REQUEST (R274): a die walker that holds fewer than 2 blocks asks for another, and the hub serves what has come in before this clk,
in order of arrival, with the lowest undealt block. -/
def execBlockRequest (r die : Nat) (s : State) : Out :=
  if s.landing then .next s
  else
    match s.recOf r with
    | none => .next s
    | some q =>
      if recLock q.raw || !(recDies s q.cmask).contains die || 2 ≤ blocksHeld q die then .next s
      else
        match q.asked.find? fun p => p.2 == die with
        | none => .next (updRec r (fun q => { q with asked := q.asked ++ [(s.clk, die)] }) s)
        | some p =>
          if s.clk ≤ p.1 || q.asked.any (fun o => askBefore o p) then .next s
          else .next (updRec r (fun q => { dealBlock die q with asked := q.asked.filter fun o => o != p }) s)

/-- Entries that a cell's queue of a record holds; `none` where it has no queue and no free one (R275). -/
def queueFill (x : Cell) (rid : Nat) : Option Nat :=
  match x.iterqs.find? fun q => q.rid == rid with
  | some q => some q.ents.length
  | none => if x.iterqs.length < 8 then some 0 else none

/-- Put a position at the tail of a cell's queue of a record. -/
def pushIter (c rid p clk : Nat) (s : State) : State :=
  s.updCell c fun x =>
    if x.iterqs.any fun q => q.rid == rid then
      { x with iterqs := x.iterqs.map fun q => if q.rid = rid then { q with ents := q.ents ++ [(p, clk)] } else q }
    else { x with iterqs := x.iterqs ++ [{ rid := rid, ents := [(p, clk)] }] }

/-- The cell of a die that a position of a record goes to: the fewest entries below 4, the lowest cell (R275). -/
def placeTarget (s : State) (die : Nat) (r : Rec) : Option Nat :=
  let cells := (List.range 16).filterMap fun i =>
    let c := 16 * die + i
    if bit r.cmask c && !bit s.err.fencedCells c then
      match queueFill (s.cell c) r.id with
      | some n => if n < 4 then some (n, c) else none
      | none => none
    else none
  (cells.foldl (fun b q => match b with
    | none => some q
    | some p => if q.1 < p.1 then some q else some p) none).map (·.2)

/-- The record that a die walker serves: the highest PRIO, then the one accepted first (R275). DEDUCED, log entry 24. -/
def walkerRecord (s : State) (die : Nat) : Option (Rec × Nat) :=
  let cand := s.recs.filterMap fun r =>
    if (Tab.get [] die r.dealt).isEmpty then none else (placeTarget s die r).map fun c => (r, c)
  cand.foldl (fun b q => match b with
    | none => some q
    | some p => if recPrio p.1.raw < recPrio q.1.raw then some q else some p) none

/-! ## Hand-off (R276 to R279, R284, R16) -/

/-- The heads of a cell's queues that may be handed in this clk: record, position and clk of arrival. What is stolen from a queue and what
is placed in it in a clk comes after the hand-offs of that clk (R277). -/
def queueHeads (s : State) (c : Nat) : List (Rec × Nat × Nat) :=
  (s.cell c).iterqs.filterMap fun q => match q.ents with
    | (p, t) :: _ => (s.recOf q.rid).map fun r => (r, p, t)
    | [] => none

/-- A head may be handed to a slot: its context is LIVE, and its views are refused or their regions are free (R276, R278, R291, R295). -/
def headReady (s : State) (c k : Nat) (r : Rec) : Bool :=
  (s.ctxOf r.ctx).st == .live && (!viewsOk r.raw k || regionsFree (s.cell c) r.ctx (spanRegions (viewSpans r.raw k)))

/-- The head that a cell hands: the highest PRIO, then the one that has waited longest. -/
def chooseHead (s : State) (c k : Nat) : Option (Rec × Nat × Nat) :=
  ((queueHeads s c).filter fun q => headReady s c k q.1).foldl (fun b q => match b with
    | none => some q
    | some p =>
      if recPrio p.1.raw < recPrio q.1.raw || (recPrio p.1.raw == recPrio q.1.raw && decide (q.2.2 < p.2.2)) then some q else some p) none

/-- No position of a record is unplaced or queued. -/
def allPlaced (s : State) (r : Rec) : Bool :=
  (if recLock r.raw then decide (r.total ≤ r.lockNext) else decide (r.total ≤ r.nextBlock * recBlk r.raw))
    && r.dealt.all (fun q => q.2.isEmpty)
    && s.cells.all fun (_, x) => x.iterqs.all (fun q => q.rid != r.id || q.ents.isEmpty)
        && match x.steal with | some st => st.rid != r.id || st.got.isNone | none => true

/-- A path of a cell holds entries of a context. -/
def pathHolds (x : Cell) (ctx p : Nat) : Bool :=
  let q := Tab.get {} p x.defq
  q.ctx == ctx && !q.ents.isEmpty

/-- The tasks of a record on a cell that a PREEMPT has saved: they have not reached FREE (R283). -/
def savedOn (s : State) (cell : Nat) (q : Rec) : List SavedTask :=
  (s.ctxOf q.ctx).savedTasks.filter fun t => t.recId == q.id && t.cell == cell

/-- A sweep task of a record runs for a path, or is saved. -/
def sweepRuns (s : State) (cell : Nat) (q : Rec) (p : Nat) : Bool :=
  (s.cell cell).slots.any (fun (_, y) => y.st != .free && y.recId == q.id && y.sweep && y.pos == p)
    || (savedOn s cell q).any fun t => t.sweep && t.pos == p

/-- A path of a cell awaits a sweep task of a record: every lower path has none to wait for, and the views have not refused it (R284). -/
def sweepReady (s : State) (cell k path : Nat) (q : Rec) : Bool :=
  let x := s.cell cell
  let waits (p : Nat) : Bool := pathHolds x q.ctx p && !sweepRuns s cell q p && !q.unswept.contains (cell, p)
  recSweep q.raw && bit q.cmask cell && allPlaced s q && x.slots.all (fun (_, y) => y.st == .free || y.recId != q.id || y.sweep)
    && (savedOn s cell q).all (·.sweep) && decide (path < 8) && waits path && (List.range path).all (fun p => !waits p) && headReady s cell k q

/-- The highest PRIO of the sweep tasks that a cell may hand to a slot, plus 1; 0 for none. -/
def sweepPrio (s : State) (cell k : Nat) : Nat :=
  s.recs.foldl (fun n q =>
    if recSweep q.raw && (List.range 8).any (fun p => sweepReady s cell k p q) then max n (recPrio q.raw + 1) else n) 0

/-- The head that a cell hands to its lowest FREE slot in this clk, if it hands one: no sweep task of a higher PRIO waits (R276, R284). -/
def handingHead (s : State) (c : Nat) : Option (Nat × Rec × Nat × Nat) :=
  if took s c 4 then none
  else match freeSlot s c with
    | none => none
    | some k => ((chooseHead s c k).filter fun h => decide (sweepPrio s c k ≤ recPrio h.1.raw + 1)).map fun h => (k, h)

/-- A hand-off from the cell's queue of a record comes first in this clk (R277). -/
def handsFirst (s : State) (c rid : Nat) : Bool := (handingHead s c).any fun h => h.2.1.id == rid

/-- The die walker places a position, unless a hand-off of its cells' queues of the record can still be made (R275, R277). -/
def placeNext (die : Nat) (s : State) : State :=
  match walkerRecord s die with
  | none => s
  | some (r, c) =>
    match Tab.get [] die r.dealt with
    | [] => s
    | p :: rest =>
      if (List.range 16).any fun i => handsFirst s (16 * die + i) r.id then s
      else pushIter c r.id p s.clk (updRec r.id (fun q => { q with dealt := Tab.set die rest q.dealt }) s)

/-- DIE_WALKER_PLACE (R275, R277): one placement per clk for a die, at the end of the clk. -/
def execDieWalkerPlace (die : Nat) (s : State) : Out := .next (if s.landing || decide (8 ≤ die) then s else take (16 * die) 5 s)

/-- Remove the head of a cell's queue of a record. -/
def popIter (c rid : Nat) (s : State) : State :=
  s.updCell c fun x => { x with iterqs := x.iterqs.map fun q => if q.rid = rid then { q with ents := q.ents.drop 1 } else q }

/-- TASK_HANDOFF (R276): one head in a clk to the lowest FREE slot. -/
def execTaskHandoff (cell : Nat) (s : State) : Out :=
  if s.landing then .next s
  else
    match handingHead s cell with
    | none => .next s
    | some (k, r, p, _) =>
      let s1 := take cell 4 (popIter cell r.id s)
      .next (if viewsOk r.raw k then startTask cell k p false r s1 else refuseViews cell k p r s1)

/-- A slot enters RUN; a freeze that fell due in PRELOAD takes effect in this clk, and a pre-emption request that named the task
is received (R16, R305). What PRELOAD writes lands at the end of this clk (R44). DEDUCED, log entry 27. -/
def enterRun (c k : Nat) (s : State) : State :=
  match s.recOf (s.slot c k).recId with
  | none => s
  | some r =>
    ({ s with seq := s.seq + 2 }).updCell c fun x =>
      let y := x.slot k
      let gate (z : Strand) : Strand := { z with gate := s.clk + 1 }
      let asked := y.preBy.isSome && y.preReq.isNone && y.freezing.isNone
      { x.setSlot k { y with
          st := .run, s := gate y.s, a := gate y.a, x := gate y.x, w := gate y.w
          preReq := if asked then some (s.rt.toNat + (s.ctxOf y.ctx).prebnd.toNat) else y.preReq
          preClk := if asked then s.clk else y.preClk } with
        wr := x.wr ++ preloadWrites r.raw y k s.clk s.seq }

/-- PRELOAD_COMPLETE (R16, R279, R287): the members of a lockstep round enter RUN in one clk. -/
def execPreloadComplete (cell slot : Nat) (s : State) : Out :=
  if s.landing then .next s
  else
    let y := s.slot cell slot
    if y.st != .preload then .next s
    else
      let all := (cell, slot) :: lockMembers s cell slot
      .next (all.foldl (fun t (c, k) => if (t.slot c k).st == .preload then enterRun c k t else t) s)

/-! ## Stealing (R280, R281) -/

/-- A cell is idle for a record (R280). -/
def idleFor (s : State) (c : Nat) (r : Rec) : Bool :=
  let x := s.cell c
  recSteal r.raw && bit r.cmask c && (freeSlot s c).isSome
    && (match x.iterqs.find? fun q => q.rid == r.id with | some q => q.ents.isEmpty | none => decide (x.iterqs.length < 8))
    && (Tab.get [] (c / 16) r.dealt).isEmpty && decide (r.handed < r.total)

/-- The next value of a die's steal generator of a context. -/
def stealNext (x : Ctx) (d : Nat) : BitVec 32 :=
  let seed := x.stealSeed ^^^ BitVec.ofNat 32 d
  let l := Tab.get (if seed = 0 then 1 else seed) d x.steal
  if l.toNat % 2 = 1 then (l >>> 1) ^^^ 0x80200003#32 else l >>> 1

/-- The count of a cell's failed requests for a record after a failure (R280). -/
def stealFailed (n : Nat) : Nat := if n < 4 then n + 1 else 0

/-- STEAL_REQUEST (R280). DEDUCED, log entry 24. -/
def execStealRequest (cell r : Nat) (s : State) : Out :=
  if s.landing then .next s
  else
    match s.recOf r with
    | none => .next s
    | some q =>
      let x := s.cell cell
      let recent := match x.stealClk with | some t => decide (s.clk < t + 32) | none => false
      if !idleFor s cell q || x.steal.isSome || recent then .next s
      else
        let d := cell / 16
        let l := stealNext (s.ctxOf q.ctx) d
        let fails := Tab.get 0 r x.fails
        let cand := (setBits 128 q.cmask).filter fun c => c != cell && ((c / 16 == d) == decide (fails < 4))
        let victim := if cand.isEmpty then none else cand[l.toNat % cand.length]?
        .next ((s.updCtx q.ctx fun y => { y with steal := Tab.set d l y.steal }).updCell cell fun y =>
          { y with steal := some { rid := r, victim := victim }, stealClk := some s.clk })

/-- STEAL_ANSWER (R277, R281): the cell's request has reached its victim, which answers at the end of the clk. -/
def execStealAnswer (cell : Nat) (s : State) : Out :=
  if s.landing then .next s
  else .next (s.updCell cell fun x => { x with steal := x.steal.map fun st => { st with arrived := true } })

/-- The victim of a cell's request removes its tail entry, or answers with a failure, once no hand-off from that queue comes first (R277,
R281). -/
def answerSteal (cell : Nat) (s : State) : State :=
  match (s.cell cell).steal with
  | none => s
  | some st =>
    if !st.arrived || st.answered || st.victim.any (fun v => handsFirst s v st.rid) then s
    else
      let got : Option Nat := match st.victim with
        | none => none
        | some v => match (s.cell v).iterqs.find? fun q => q.rid == st.rid with
          | some q => q.ents.getLast?.map (·.1)
          | none => none
      let s1 := match st.victim, got with
        | some v, some _ => s.updCell v fun x =>
            { x with iterqs := x.iterqs.map fun (q : IterQ) => if q.rid = st.rid then { q with ents := q.ents.dropLast } else q }
        | _, _ => s
      s1.updCell cell fun x => { x with steal := some { st with answered := true, got := got } }

/-- What the iteration queues take part in at the end of a clk, after its hand-offs: the answers to steals, then the placements (R277). -/
def settleQueues (s : State) : State :=
  let s1 := s.cells.foldl (fun t (c, x) => if x.steal.isSome then answerSteal c t else t) s
  (List.range 8).foldl (fun t d => if took t (16 * d) 5 then placeNext d t else t) s1

/-- STEAL_REPLY (R275, R280, R281): the stolen entry joins the requester's queue, once that has room for it, or the failure is counted. -/
def execStealReply (cell : Nat) (s : State) : Out :=
  if s.landing then .next s
  else
    match (s.cell cell).steal with
    | none => .next s
    | some st =>
      if !st.answered then .next s
      else
        let n := Tab.get 0 st.rid (s.cell cell).fails
        let done (f : Nat) (s : State) : State := s.updCell cell fun x => { x with steal := none, fails := Tab.set st.rid f x.fails }
        match st.got with
        | some p =>
          if bit s.err.fencedCells cell then .next (done 0 (failPositions st.rid 1 s))
          else if (queueFill (s.cell cell) st.rid).any fun k => decide (k < 4) then .next (done 0 (pushIter cell st.rid p s.clk s))
          else .next s
        | none => .next (done (stealFailed n) s)

/-! ## Lockstep groups (R287) -/

/-- LOCKSTEP_ROUND (R287): every member has a FREE slot, and the next positions go to the members in one clk. -/
def execLockstepRound (r : Nat) (s : State) : Out :=
  if s.landing then .next s
  else
    match s.recOf r with
    | none => .next s
    | some q =>
      let members := (setBits 128 q.cmask).filter fun c => !bit s.err.fencedCells c
      let slots := members.filterMap fun c => match freeSlot s c with
        | some k => if headReady s c k q then some (c, k) else none
        | none => none
      if !recLock q.raw || q.total ≤ q.lockNext || members.isEmpty || slots.length ≠ members.length then .next s
      else
        let s1 := updRec r (fun q => { q with round := q.round + 1 }) s
        match s1.recOf r with
        | none => .next s
        | some q1 =>
          let given := (slots.zip (List.range slots.length)).filter fun (_, i) => decide (q.lockNext + i < q.total)
          .next (updRec r (fun q => { q with lockNext := q.lockNext + given.length })
            (given.foldl (fun t ((c, k), i) =>
              if viewsOk q.raw k then startTask c k (q.lockNext + i) false q1 t else refuseViews c k (q.lockNext + i) q1 t) s1))

/-! ## Deferral sweeps (R284) -/

/-- A sweep task that the views refuse: a VIEW record with the task id that PRELOAD would have written, and the path is not tried again
(R278, R284). DESIGN CHOICE, log entry 57. -/
def refuseSweep (cell k path : Nat) (q : Rec) (s : State) : State :=
  updRec q.id (fun q => { q with unswept := q.unswept ++ [(cell, path)], failed := q.failed + 1, first := if q.first = 0 then fView else q.first })
    (holdRecord q.ctx cell k .S (recLock q.raw) { kind := 3, code := fView, fpc := 0, rpc := 0, aux := allOnes } s)

/-- DEFERRAL_SWEEP_HANDOFF (R276, R284): the cell's one hand-off of this clk, unless a queue head or another sweep task of a higher PRIO may
be handed. DESIGN CHOICE, log entry 57. -/
def execDeferralSweepHandoff (cell r path : Nat) (s : State) : Out :=
  if s.landing || took s cell 4 then .next s
  else
    match s.recOf r, freeSlot s cell with
    | some q, some k =>
      let higher := (chooseHead s cell k).any (fun h => decide (recPrio q.raw < recPrio h.1.raw)) || decide (recPrio q.raw + 1 < sweepPrio s cell k)
      if !sweepReady s cell k path q || higher then .next s
      else .next (take cell 4 (if viewsOk q.raw k then startTask cell k path true q s else refuseSweep cell k path q s))
    | _, _ => .next s

/-! ## Completion (R248, R282, R284, R286, R407) -/

/-- Sweeping has ended on every cell of a record. -/
def sweepDone (s : State) (r : Rec) : Bool :=
  !recSweep r.raw || (setBits 128 r.cmask).all fun c =>
    bit s.err.fencedCells c || (List.range 8).all fun p => !pathHolds (s.cell c) r.ctx p || r.unswept.contains (c, p)

/-- Every position has been handed or has failed, every task has reached FREE and sweeping has ended (R282). -/
def recEnded (s : State) (r : Rec) : Bool := decide (r.total ≤ r.handed) && r.live == 0 && sweepDone s r

/-- The deferral entries of a context that are discarded with its last record: the state without them, and their count. -/
def discardDeferred (ctx : Nat) (s : State) : State × Nat :=
  let n := s.cells.foldl (fun n (_, x) => x.defq.foldl (fun n (_, q) => if q.ctx = ctx then n + q.ents.length else n) n) 0
  ({ s with cells := s.cells.map fun (c, x) => (c, { x with defq := x.defq.map fun (p, q) => (p, if q.ctx = ctx then {} else q) }) }, n)

/-- The status word (R282). -/
def statusWord (r : Rec) : Nat := min r.failed 0xFFFFFFFF * 2 ^ 32 + min r.defdrop 0xFFFF * 2 ^ 16 + r.first % 2 ^ 16

/-- Unpublished entries of a launch's tasks become INVALID when it completes (R248). -/
def dropUnpublished (ctx launch : Nat) (s : State) : State :=
  let l := s.cells.flatMap fun (c, x) => x.lens.filterMap fun e =>
    if e.ctx == ctx && e.launch == launch && (e.st == .producing || e.st == .spilled) && !e.published then some (c, e.id) else none
  l.foldl (fun t (c, e) => dropEntry c e t) s

/-- The record's semaphore has been incremented: it is complete, and with it its launch and the context's barriers where it
was the last (R248, R282, R286). -/
def finishRec (r : Rec) (s : State) : State :=
  let s1 := { s with
    recs := s.recs.filter fun q => q.id != r.id
    cells := s.cells.map fun (c, x) => (c, { x with iterqs := x.iterqs.filter (fun q => q.rid != r.id), fails := Tab.del r.id x.fails }) }
  let s2 := if s1.recs.any fun q => q.ctx == r.ctx && q.launch == r.launch then s1 else dropUnpublished r.ctx r.launch s1
  if (openRecs s2 r.ctx).isEmpty then (discardDeferred r.ctx s2).1.updCtx r.ctx fun x => { x with barriers := [] } else s2

/-- The failure of a completion write (R407). -/
def recWriteFailed (r : Rec) (code : Nat) (cause va : Word) (s : State) : State :=
  hubRecord r.ctx code va cause r.addr (updRec r.id (fun q => { q with stuck := true }) s)

/-- The increment of the completion semaphore. -/
def addCsem (r : Rec) (s : State) : State :=
  match hubAdd r.ctx (recCsem r.raw) 1 false s with
  | (.ok t, _) => finishRec r t
  | (.error (code, w), t) => recWriteFailed r code w (recCsem r.raw) t

/-- RECORD_COMPLETE (R282, R407): the status word, then the semaphore. -/
def execRecordComplete (r : Nat) (s : State) : Out :=
  if s.landing then .next s
  else
    match s.recOf r with
    | none => .next s
    | some q =>
      if q.stuck || (s.ctxOf q.ctx).st != .live || !recEnded s q then .next s
      else if q.phase = .addSem then .next (addCsem q s)
      else
        let (s1, n) := if (openRecs s q.ctx).length = 1 then discardDeferred q.ctx s else (s, 0)
        let q1 := { q with defdrop := q.defdrop + n, phase := .addSem }
        let q0 := { q with defdrop := q.defdrop + n, phase := .writeStat }
        if recCstat q.raw = 0 then .next (addCsem q1 (updRec r (fun _ => q1) s1))
        else
          match hubStore q.ctx (recCstat q.raw) 8 (statusWord q1) (updRec r (fun _ => q0) s1) with
          | (.ok t, _) => .next (addCsem q1 (updRec r (fun _ => q1) t))
          | (.error (code, w), t) => .next (recWriteFailed q0 code w (recCstat q.raw) t)

/-! ## The scrub of regions (R295) -/

/-- REGISTER_REGION_SCRUB (R295): 1 KiB of a region tagged with a context that has no task in the cell is set to zero. -/
def execRegisterRegionScrub (cell region : Nat) (s : State) : Out :=
  if s.landing || took s cell 6 then .next s
  else
    let x := s.cell cell
    let clear (k : Nat) : State :=
      take cell 6 ({ s with err := { s.err with badRegs := s.err.badRegs.filter fun (c, w) => !(c == cell && 128 * k ≤ w && w < 128 * k + 128) } }.updCell cell
        fun x => { x with regs := Memory.clear x.regs (1024 * k) 1024, scrub := if k % 64 = 63 then none else some (k + 1)
                          tags := if k % 64 = 63 then Tab.del (k / 64) x.tags else x.tags })
    match x.scrub with
    | some k => if k / 64 = region then .next (clear k) else .next s
    | none =>
      let t := Tab.get 0 region x.tags
      let restoring := s.dieqs.any fun (_, q) => q.started && q.cells.contains cell && match q.recs with
        | r :: _ => cmdOpc r == 5 && cmdCtx r + 1 == t
        | [] => false
      if t = 0 ∨ 64 ≤ region ∨ restoring = true ∨ (x.slots.any fun (_, y) => y.st != .free && y.ctx + 1 == t) = true then .next s
      else .next (clear (64 * region))

end Sys2Proof.Machine
end

