-- ==== Sys2Proof/Machine/Control.lean ====
section
/-! DEFINITION. Control flow (R103 to R112): branches and jumps, hardware loops, REP, YIELD, END and NOP. -/

namespace Sys2Proof.Machine

open Sys2Proof

/-- The target of a PC-relative branch: PC + 8 × sext(DISP20, 20) (R77, R103). -/
def State.relTarget (s : State) (disp : Nat) : Word := s.cur.pc + toW (8 * sext disp 20)

/-- Let the agent issue again no earlier than clk t + 5 when the prediction of the next PC was wrong (R104). -/
def predicted (right : Bool) (s : State) : State :=
  if right then s
  else
    match s.cur.agent with
    | .strand c k x => s.updStrand c k x fun y => { y with gate := s.clk + 5 }
    | .cond n => s.updCond n fun y => { y with gate := s.clk + 5 }

/-- Issue a control instruction and set the PC (R93, R103). It performs in its issue clk; R93's table gives the branches and JMP no
latency, and their operands-consumed point is taken as that of the instructions with one, the clk after. DEDUCED, log entry 49. -/
def goTo (pc : Word) (right : Bool) (s : State) : State :=
  predicted right (issueTo pc (.clk s.clk) (.clk (s.clk + 1)) s)

/-- Whether a conditional branch is predicted taken (R104). DEDUCED, log entry 16. -/
def predictTaken (x : FmtB) : Bool :=
  match x.hint with
  | 1 => true
  | 2 => false
  | _ => bit x.disp 19

/-- A conditional branch (R103). A prediction is right where its direction is, though the target be the next word (DISP20 = 1), of which
R104 does not speak. DESIGN CHOICE, log entry 59. -/
def condBranch (p : Word → Word → Bool) (x : FmtB) (s : State) : Out :=
  let taken := p (s.rs x.a) (s.rs x.b)
  .next (goTo (if taken then s.relTarget x.disp else s.nextPc) (taken == predictTaken x) s)

def execBeq (x : FmtB) (s : State) : Out := condBranch (fun a b => a == b) x s
def execBne (x : FmtB) (s : State) : Out := condBranch (fun a b => a != b) x s
def execBlt (x : FmtB) (s : State) : Out := condBranch ltS x s
def execBge (x : FmtB) (s : State) : Out := condBranch (fun a b => !ltS a b) x s
def execBltn (x : FmtB) (s : State) : Out := condBranch ltU x s
def execBgen (x : FmtB) (s : State) : Out := condBranch (fun a b => !ltU a b) x s
def execJmp (x : FmtB) (s : State) : Out := .next (goTo (s.relTarget x.disp) true s)
def execJal (x : FmtB) (s : State) : Out :=
  .next (goTo (s.relTarget x.disp) true (writeS x.a (s.cur.pc + 8) 1 s))
def execJr (x : FmtA) (s : State) : Out :=
  let t := s.rs x.a
  if t.toNat % 8 ≠ 0 then .next (raise fAlign 0 t 0 0 s)
  else .next (goTo t false (writeS x.d (s.cur.pc + 8) 1 s))

/-! ## Hardware loops (R91, R105, R106) -/

/-- Fields of LPCTL (R91). -/
def lpAct (w : Word) : Bool := bit w.toNat 63
def lpStg (w : Word) : Nat := bits w.toNat 35 32
def lpCnt (w : Word) : Nat := bits w.toNat 31 0
/-- The iteration of LPIDX (R91). -/
def lpIdx (w : Word) : Nat := bits w.toNat 32 0
/-- LPCTL with its fields. -/
def lpctlOf (act : Bool) (stg cnt : Nat) : Word :=
  BitVec.ofNat 64 ((if act then 2 ^ 63 else 0) + stg * 2 ^ 32 + cnt)

/-- LPCTL and LPIDX of an agent. -/
def State.lpctl (s : State) : Agent → Word
  | .strand c k x => (s.strand c k x).lpctl
  | .cond n => (s.condOf n).lpctl
def State.lpidx (s : State) : Agent → Word
  | .strand c k x => (s.strand c k x).lpidx
  | .cond n => (s.condOf n).lpidx

/-- Write LPCTL, LPIDX and QPRED of an agent. -/
def setLoop (a : Agent) (ctl idx q : Word) (s : State) : State :=
  match a with
  | .strand c k x => s.updStrand c k x fun y => { y with lpctl := ctl, lpidx := idx, qpred := q }
  | .cond n => s.updCond n fun y => { y with lpctl := ctl, lpidx := idx, qpred := q }

/-- LOOPI (R105). -/
def execLoopi (x : FmtI) (s : State) : Out :=
  let n := bits (s.rs x.a).toNat 31 0
  let stg := x.imm % 16
  let l := x.imm / 16
  if n = 0 then .next (goTo (s.cur.pc + BitVec.ofNat 64 (8 * l + 8)) false (setLoop s.cur.agent 0 0 0 s))
  else .next (goTo s.nextPc true (setLoop s.cur.agent (lpctlOf true stg n) 0 (predsAt stg n 0) s))

/-- Rotate RB of the issuing strand by one name (R39). -/
def rotateRb (s : State) : State :=
  match s.cur.agent with
  | .strand c k x => s.updStrand c k x fun y =>
      if rotKind y.rotv = 0 then y
      else
        let z := rotSize y.rotv
        let rb := (rotRb y.rotv + z - 1) % z
        { y with rotv := BitVec.ofNat 64 (y.rotv.toNat % 2 ^ 40 + rb * 2 ^ 40) }
  | .cond _ => s

/-- LOOP (R106), predicted as a branch is, by its direction. DESIGN CHOICE, log entry 59. -/
def execLoop (x : FmtB) (s : State) : Out :=
  let ctl := s.lpctl s.cur.agent
  if !lpAct ctl then .next (illegal 7 s)
  else
    let i := lpIdx (s.lpidx s.cur.agent) + 1
    let stg := lpStg ctl
    let cnt := lpCnt ctl
    let back := decide (i < cnt + stg - 1)
    .next (goTo (if back then s.relTarget x.disp else s.nextPc) back
      (setLoop s.cur.agent (lpctlOf back stg cnt) (BitVec.ofNat 64 (i % 2 ^ 33)) (predsAt stg cnt i) (rotateRb s)))

/-! ## REP, YIELD, END, NOP (R107 to R111) -/

/-- Set REPST of an agent. -/
def setRepst (a : Agent) (v : Word) (s : State) : State :=
  match a with
  | .strand c k x => s.updStrand c k x fun y => { y with repst := v }
  | .cond n => s.updCond n fun y => { y with repst := v }

/-- REPST with its fields (R91). -/
def repstOf (left : Nat) : Word := if left = 0 then 0 else BitVec.ofNat 64 (2 ^ 63 + left % 2 ^ 33)

/-- An ADRN .nan whose handle holds a tensor of another type than E4M3: the field's value is not permitted (R201). -/
def nanRefused (s : State) (a : Agent) (w : Nat) : Bool :=
  let x := FmtX.dec w
  match a with
  | .strand c k _ => opOf w == 0xC6 && bit x.sub 2 && (match Tab.find x.ha (s.slot c k).h with
      | some d => bits d.toNat 83 80 != 3
      | none => false)
  | .cond _ => false

/-- The sub-code that a word fails with: the checks of R83, that of R201 among the field values. -/
def wordSub (s : State) (a : Agent) (w lit : Nat) : Option Nat :=
  match decode (agentKind a) w lit with
  | .error r => some (if r.sub = 6 && nanRefused s a w then 5 else r.sub)
  | .ok _ => if nanRefused s a w then some 5 else none

/-- Whether a word is one that REP refuses to repeat (R107): control instructions, TRAP, ERET, BRK, or a word that
would trap at decode. -/
def repRefuses (s : State) (a : Agent) (w lit : Nat) : Bool :=
  let op := opOf w
  (0x3C ≤ op && op ≤ 0x4A) || op == 0xE2 || op == 0xE3 || op == 0xE8 || (wordSub s a w lit).isSome

/-- REP (R107). -/
def execRep (x : FmtI) (s : State) : Out :=
  let i := s.cur
  if repRefuses s i.agent i.next.toNat i.nextLit.toNat then .next (illegal 7 s)
  else
    let n := bits (s.rs x.a).toNat 31 0 + x.imm % 2 ^ 16
    if n = 0 then .next (goTo (s.nextPc + BitVec.ofNat 64 (8 * wordsOf (opOf i.next.toNat))) false s)
    else .next (setRepst i.agent (repstOf n) (goTo s.nextPc true s))

/-- The count after a repetition has issued (R108): at 0 the PC moves past the repeated word and its literal. -/
def execRepRepetition (a : Agent) (s : State) : Out :=
  if s.cur.agent == a && s.cur.done && s.repeating a then
    let left := bits (s.repst a).toNat 32 0 - 1
    let s := setRepst a (repstOf left) s
    .next (if left = 0 then s.setPc a s.nextPc else s)
  else .next s

/-- YIELD (R109). DEDUCED, log entry 16. -/
def execYield (_ : FmtZ) (s : State) : Out :=
  let s := retireNow s
  match s.cur.agent with
  | .strand c k x => .next (s.updStrand c k x fun y => { y with yieldUntil := s.clk + 17, age := 0 })
  | .cond _ => .next s

/-- END (R50, R110): the strand ends, the slot enters ENDING with the fourth; a conductor stops. -/
def execEndStrand (_ : FmtZ) (s : State) : Out :=
  let s := retireNow s
  match s.cur.agent with
  | .strand c k x => .next (s.updSlot c k fun sl =>
      let sl := sl.setStrand x { sl.strand x with ended := true }
      if sl.allEnded then { sl with st := .ending } else sl)
  | .cond n => .next (s.updCond n fun y => { y with st := .stopped })

/-- NOP (R111). DEDUCED, log entry 16. -/
def execNop (_ : FmtZ) (s : State) : Out := .next (retireNow s)

end Sys2Proof.Machine
end

