-- ==== Sys2Proof/Machine/SystemInstr.lean ====
section
/-! DEFINITION. The system instructions (R211 to R219, R221, R225): system registers, traps, the return from an exception,
pre-emption points, time, translation and instruction-cache maintenance, and event waits. -/

namespace Sys2Proof.Machine

open Sys2Proof

/-! ## The system registers (R212, R213) -/

/-- The context a conductor selects with CTXID, or the task's own (R212). -/
def State.selCtx (s : State) : Ctx := s.ctxOf (s.ctxNum s.cur.agent)

/-- CELLID (R213). -/
def cellId (s : State) (a : Agent) : Word :=
  match a with
  | .strand c k _ => BitVec.ofNat 64 ((s.slot c k).stage * 2 ^ 12 + k * 2 ^ 8 + c)
  | .cond n => BitVec.ofNat 64 (2 ^ 63 + n)

/-- CTXID (R212). -/
def ctxId (s : State) (a : Agent) : Word :=
  match a with
  | .strand c k _ => BitVec.ofNat 64 ((s.slot c k).ctx * 2 ^ 16 + (s.ctxOf (s.slot c k).ctx).asid)
  | .cond n => (s.condOf n).ctxid

/-- THRT (R389). -/
def thrt (t : Thr) : Word :=
  BitVec.ofNat 64 (t.tj % 256 * 2 ^ 16 + (if t.pwr then 2 ^ 9 else 0) + (if t.therm then 2 ^ 8 else 0) + t.step % 4)

/-- TSTAT (R362). -/
def tstat (s : State) : Word := if inHoldover s then 1 else 2

/-- NBT, BARSEL, DEFSEL and ROTV of an agent. -/
def strandReg (s : State) (a : Agent) (f : Strand → Word) (g : Cond → Word) : Word :=
  match a with
  | .strand c k x => f (s.strand c k x)
  | .cond n => g (s.condOf n)

/-- The value that SYSR reads (R212). A conductor reads PRIO of the context that CTXID selects. DESIGN CHOICE, log entry 65. -/
def sysRead (s : State) (n : Nat) : Word :=
  let a := s.cur.agent
  let x := s.selCtx
  match n with
  | 0x000 => cellId s a
  | 0x001 => ctxId s a
  | 0x002 => BitVec.ofNat 64 x.prio
  | 0x008 => s.qpred a
  | 0x009 => strandReg s a (·.nbt) (·.nbt)
  | 0x00A => strandReg s a (fun y => BitVec.ofNat 64 y.barsel) (fun _ => 0)
  | 0x00B => strandReg s a (fun y => BitVec.ofNat 64 y.defsel) (fun _ => 0)
  | 0x00C => strandReg s a (·.rotv) (fun _ => 0)
  | 0x00D => s.lpctl a
  | 0x00E => s.lpidx a
  | 0x00F => s.repst a
  | 0x020 => thrt s.thr
  | 0x021 => tstat s
  | 0x022 => BitVec.ofNat 64 s.mircfg.toNat
  | 0x023 => x.latectl
  | 0x024 => BitVec.ofNat 64 x.latecnt.toNat
  | 0x100 => x.fqbase
  | 0x101 => BitVec.ofNat 64 x.fqhead.toNat
  | 0x102 => BitVec.ofNat 64 x.fqtail.toNat
  | 0x103 => match a with | .cond m => (s.condOf m).ercl | _ => 0
  | 0x104 => x.prebnd
  | _ => BitVec.ofNat 64 (s.peer (n - 0x010))

/-- SYSR. -/
def execSysr (x : FmtS) (s : State) : Out := .next (retireIn 2 (writeS x.d (sysRead s x.sysreg) 2 s))

/-- Whether a SYSW is refused in execute (R38, R41, R91, R227, R296). DEDUCED, log entry 16. -/
def syswRefused (s : State) (n : Nat) (v : Word) : Bool :=
  match n with
  | 0x001 =>
    let c := s.ctxOf (bits v.toNat 21 16)
    c.st == .absent || c.asid != v.toNat % 2 ^ 16
  | 0x00C => !rotvOk v
  | 0x00D => bit v.toNat 63 && !(1 ≤ bits v.toNat 35 32 && bits v.toNat 35 32 ≤ 8)
  | 0x100 => !canonical v || v.toNat % 2 ^ 15 != 0
  | _ => 0x011 ≤ n && n ≤ 0x01F && decide (63 < v.toNat)

/-- SYSW: the write takes effect at the end of the clk. -/
def execSysw (x : FmtS) (s : State) : Out :=
  let v := s.rs x.a
  if syswRefused s x.sysreg v then .next (illegal 7 s)
  else .next (retireNow { s with sysws := s.sysws ++ [⟨s.cur.agent, x.sysreg, v⟩] })

/-- The bits of QPRED, LPCTL, LPIDX, REPST and ERCTL that a write or a restore stores (R31, R91, R221, R310); a reserved bit reads 0 (R11, R12). -/
def qpredStored (v : Word) : Word := BitVec.ofNat 64 (v.toNat % 256 / 2 * 2)
def lpctlStored (v : Word) : Word := BitVec.ofNat 64 ((if bit v.toNat 63 then 2 ^ 63 else 0) + v.toNat % 2 ^ 36)
def lpidxStored (v : Word) : Word := BitVec.ofNat 64 (v.toNat % 2 ^ 33)
def repstStored (v : Word) : Word := BitVec.ofNat 64 ((if bit v.toNat 63 then 2 ^ 63 else 0) + v.toNat % 2 ^ 33)
def erctlStored (v : Word) : Word :=
  BitVec.ofNat 64 (v.toNat / 2 ^ 62 * 2 ^ 62 + bits v.toNat 37 32 * 2 ^ 32 + bits v.toNat 14 8 * 2 ^ 8 + v.toNat % 8)

/-- LATECTL after a write: LATEMODE as written, LATEF cleared by a 1 (R133). -/
def latectlStored (old v : Word) : Word :=
  BitVec.ofNat 64 ((if bit old.toNat 1 && !bit v.toNat 1 then 2 else 0) + v.toNat % 2)

/-- Change a strand, or a conductor, of an agent. -/
def updAgent (a : Agent) (f : Strand → Strand) (g : Cond → Cond) (s : State) : State :=
  match a with
  | .strand c k x => s.updStrand c k x f
  | .cond n => s.updCond n g

/-- The completion writes of a context are tried again (R407). -/
def retryRecs (ctx : Nat) (s : State) : State :=
  { s with recs := s.recs.map fun r => if r.ctx = ctx then { r with stuck := false } else r }

/-- Make a SYSW, at the end of its issue clk (R212). -/
def sysApply (w : SysWrite) (s : State) : State :=
  let v := w.val
  let n := v.toNat
  let ctx := s.ctxNum w.agent
  match w.reg with
  | 0x001 => updAgent w.agent id (fun y => { y with ctxid := BitVec.ofNat 64 (n % 2 ^ 22) }) s
  | 0x008 => updAgent w.agent (fun y => { y with qpred := qpredStored v }) (fun y => { y with qpred := qpredStored v }) s
  | 0x009 => updAgent w.agent (fun y => { y with nbt := v }) (fun y => { y with nbt := v }) s
  | 0x00A => updAgent w.agent (fun y => { y with barsel := n % 32 }) id s
  | 0x00B => updAgent w.agent (fun y => { y with defsel := n % 8 }) id s
  | 0x00C => updAgent w.agent (fun y => { y with rotv := rotvStored v }) id s
  | 0x00D => updAgent w.agent (fun y => { y with lpctl := lpctlStored v }) (fun y => { y with lpctl := lpctlStored v }) s
  | 0x00E => updAgent w.agent (fun y => { y with lpidx := lpidxStored v }) (fun y => { y with lpidx := lpidxStored v }) s
  | 0x023 => s.updCtx ctx fun x => { x with latectl := latectlStored x.latectl v }
  | 0x024 => s.updCtx ctx fun x => { x with latecnt := BitVec.ofNat 32 n }
  | 0x100 => retryRecs ctx (s.updCtx ctx fun x => { x with fqbase := v, blocked := false })
  | 0x101 => retryRecs ctx (s.updCtx ctx fun x => { x with fqhead := BitVec.ofNat 32 n, blocked := false })
  | 0x103 => updAgent w.agent id (fun y => { y with ercl := erctlStored v }) s
  | 0x104 => s.updCtx ctx fun x => { x with prebnd := v }
  | r =>
    if 0x011 ≤ r ∧ r ≤ 0x01F then
      match w.agent with
      | .strand c k _ => s.updSlot c k fun y => { y with p := Tab.set (r - 0x010) n y.p }
      | .cond m => s.updCond m fun y => { y with p := Tab.set (r - 0x010) n y.p }
    else s

/-! ## Traps (R216) -/

/-- A trap or breakpoint: a precise fault whose AUX holds IMM24 and whose resume PC is `rpc`. -/
def trapWith (code : Nat) (rpc : Word) (imm : Nat) (s : State) : State :=
  let i := s.cur
  (takeFault i.agent { kind := 0, code := code, fpc := i.pc, rpc := rpc, aux := BitVec.ofNat 64 imm, len := i.len }
    (takePlace s)).setPc i.agent rpc

def execTrap (x : FmtI) (s : State) : Out := .next (trapWith fTrap (s.cur.pc + 8) x.imm s)
def execBrk (x : FmtI) (s : State) : Out := .next (trapWith fBreakpoint s.cur.pc x.imm s)

/-! ## The return from an exception (R221, R224, R225) -/

/-- Fields of ERCTL. -/
def erAct (v : Word) : Nat := v.toNat / 2 ^ 62
def erCtx (v : Word) : Nat := bits v.toNat 37 32
def erCell (v : Word) : Nat := bits v.toNat 14 8
def erSlot (v : Word) : Nat := v.toNat % 8

/-- ERCTL of the issuing conductor. -/
def State.ercl (s : State) : Word :=
  match s.cur.agent with
  | .cond n => (s.condOf n).ercl
  | _ => 0

/-- Skip the faulting instruction of a task: past the word and its literal, or one repetition under a REP (R221).
DEDUCED, log entry 17. -/
def skipFault (c k : Nat) (s : State) : State :=
  match (s.slot c k).lastFault with
  | none => s
  | some f => s.updStrand c k f.strand fun y =>
      let past := f.pc + BitVec.ofNat 64 (8 * f.len)
      if bit y.repst.toNat 63 && y.pc == f.pc then
        let left := bits y.repst.toNat 32 0 - 1
        { y with repst := repstOf left, pc := if left = 0 then past else y.pc }
      else { y with pc := past }

/-- Note that an ERET has resumed a task; a lockstep round restarts in one clk once every member has been resumed (R221), and no earlier than
the rows of the members' accepted operations have landed (R222). -/
def resumeTask (c k : Nat) (s : State) : State :=
  let s1 := s.updSlot c k fun y => { y with frozenBy := none }
  let all := (c, k) :: lockMembers s1 c k
  if all.all fun (c', k') => (s1.slot c' k').st == .frozen && (s1.slot c' k').frozenBy.isNone then
    let g := all.foldl (fun n (c', k') => max n (restartClk s1 c' k')) 0
    all.foldl (fun t (c', k') => resumeSlot false g c' k' t) s1
  else s1

/-- Kill a task and every member of its lockstep round (R221, R225). -/
def killRound (c k : Nat) (s : State) : State :=
  ((c, k) :: lockMembers s c k).foldl (fun t (c', k') => killTask c' k' t) s

/-- ERET with an action: 0 resume, 1 kill, 2 resume past the faulting instruction (R221). -/
def eretWith (act : Nat) (s : State) : Out :=
  let v := s.ercl
  let c := erCell v
  let k := erSlot v
  let y := s.slot c k
  let imprecise := match y.lastFault with | some f => !f.precise | none => true
  let killOnly := match y.lastFault with | some f => f.killOnly | none => false
  if y.st ≠ .frozen ∨ y.ctx ≠ erCtx v ∨ erAct v = 3 ∨ (act = 2 ∧ imprecise = true) ∨ (act ≠ 1 ∧ killOnly = true) then .next (illegal 7 s)
  else
    match act with
    | 0 => .next (resumeTask c k (retireNow s))
    | 1 => .next (killRound c k (retireNow s))
    | _ => .next (resumeTask c k (skipFault c k (retireNow s)))

def execEret (_ : FmtZ) (s : State) : Out := eretWith 0 s
def execEretKill (_ : FmtZ) (s : State) : Out := eretWith 1 s
def execEretSkip (_ : FmtZ) (s : State) : Out := eretWith 2 s

/-! ## Pre-emption points (R218, R306) -/

/-- The live mask of a PPT in the layout of LIVE (R309). -/
def pptLive (a : Word) (imm : Nat) : Nat := a.toNat % 2 ^ 16 + bits imm 7 0 * 2 ^ 16 + bits imm 11 8 * 2 ^ 24

def execPpt (x : FmtI) (s : State) : Out :=
  let live := pptLive (s.rs x.a) x.imm
  let s1 := retireIn 1 s
  match s.cur.agent with
  | .strand c k _ =>
    let y := s.slot c k
    if y.preReq.isSome && decide (y.preClk < s.clk) then
      .next (s1.updSlot c k fun y => { y with freezing := some (y.freezing.getD (.ppt live)) })
    else .next s1
  | .cond _ => .next s1

/-! ## Time (R214) -/

def execTime (x : FmtA) (s : State) : Out := .next (retireIn 2 (writeS x.d (s.rtOf s.cur.agent) 2 s))

def execTimeNbt (x : FmtA) (s : State) : Out :=
  let now := s.rtOf s.cur.agent
  let t := now + s.rs x.a
  .next (retireIn 2 (writeS x.d now 2 (updAgent s.cur.agent (fun y => { y with nbt := t }) (fun y => { y with nbt := t }) s)))

/-! ## Maintenance (R219) -/

/-- TLBI: starts a shootdown (R334). -/
def tlbi (mode : Nat) (a b : Word) (s : State) : Out :=
  if 2 ^ 16 ≤ a.toNat then .next (illegal 7 s)
  else
    let asid := a.toNat % 2 ^ 16
    .next (issueAcc (s.newAcc (.tlbi mode asid b) 0 2)
      { s with shoots := s.shoots ++ [⟨s.cur.seq, mode, asid, b⟩] })

def execTlbiAsid (x : FmtA) (s : State) : Out := tlbi 0 (s.rs x.a) 0 s
def execTlbiPage (x : FmtA) (s : State) : Out := tlbi 1 (s.rs x.a) (s.rs x.b) s
def execTlbiAll (_ : FmtA) (s : State) : Out := tlbi 2 0 0 s

/-- IFLUSH: the strand's next word is fetched once it has performed. -/
def execIflush (_ : FmtZ) (s : State) : Out := .next (holdAgent (issueAcc (s.newAcc .iflush 0 1) s))

/-! ## Event waits (R215) -/

/-- LIHEAD and LITAIL of a conductor's launch inbox (R297). -/
def Cond.lihead (c : Cond) : Word := BitVec.ofNat 64 (Memory.readN c.dmem 0x1000 8)
def Cond.litail (c : Cond) : Word := BitVec.ofNat 64 (Memory.readN c.dmem 0x1008 8)

/-- The events of R215 that hold for an agent, as a mask. -/
def eventsOf (s : State) (a : Agent) : Nat :=
  match a with
  | .strand c k _ =>
    let y := s.slot c k
    (if timeOk s a then 1 else 0) + (if y.preReq.isSome then 2 else 0) + (if y.suspendEv then 32 else 0)
  | .cond n =>
    let y := s.condOf n
    (if timeOk s a then 1 else 0) + (if y.doorbell then 4 else 0)
      + (if s.ctxs.any fun (_, x) => x.st != .absent && bit x.hcond n && x.fqtail != x.fqhead then 8 else 0)
      + (if y.litail != y.lihead then 16 else 0) + (if y.suspendEv then 32 else 0)

/-- WAITE waits for its events (R215). DEDUCED, log entry 16. -/
def execWaite (x : FmtI) (s : State) : Out :=
  let a := s.cur.agent
  let e := eventsOf s a &&& (x.imm % 64)
  if e = 0 then .next s
  else
    let s1 := match a with
      | .strand c k _ => s.updSlot c k fun y => { y with suspendEv := y.suspendEv && !bit e 5 }
      | .cond n => s.updCond n fun y => { y with doorbell := y.doorbell && !bit e 2, suspendEv := y.suspendEv && !bit e 5 }
    .next (retireIn 1 (writeS x.d (BitVec.ofNat 64 e) 1 s1))

end Sys2Proof.Machine
end

