-- ==== Sys2Proof/Machine/ContextEvents.lean ====
section
/-! DEFINITION. Host commands (R376, R377) and the life of a context (R291 to R293, R297, R343, R344), the Mirror steps (R347), the
loading of firmware (R397 to R399) and the suspend commands (R391, R395). -/

namespace Sys2Proof.Machine

open Sys2Proof

/-! ## Taking a command (R376, R377) -/

/-- A feature bit of FEATA0 is accepted: it stands there and GO has latched it (R374, R375). -/
def featOn (s : State) (n : Nat) : Bool := s.host.go && bit (Tab.get 0 0 s.host.feata).toNat n

/-- Whether the hub takes host commands: its rings run, and no suspend is under way (R375, R392, R395). -/
def hubTakes (s : State) : Bool :=
  s.powered && !s.landing && s.host.go && match s.susp with
  | .frozen => false | .retained => false | _ => true

/-- The place in host memory of entry `k` of a ring (R373). -/
def ringEntry (base size k : Word) : Nat := (base.toNat + 64 * (k.toNat % size.toNat)) % 2 ^ 64

/-- The command that a record of the command ring holds, field by field (R376). -/
def recordCmd (v : Nat) : HostCmd :=
  let f (o n : Nat) : Nat := v / 256 ^ o % 256 ^ n
  { hseq := BitVec.ofNat 64 (f 0 8), ctxid := f 8 4, opc := f 0x0C 1, mustBeZero := f 0x0D 3, addr := BitVec.ofNat 64 (f 0x10 8)
    arg0 := BitVec.ofNat 64 (f 0x18 8), arg1 := BitVec.ofNat 64 (f 0x20 8), arg2 := BitVec.ofNat 64 (f 0x28 8) }

/-- The command at the head of the ring in host memory, once CMDTAIL has passed it (R373, R376). -/
def headCmd (s : State) : Option HostCmd :=
  let h := s.host
  if h.cmdtail = h.cmdhead then none else some (recordCmd (Memory.readN h.hmem (ringEntry h.cmdbase h.cmdsize h.cmdhead) 64))

/-- Take the head record off the ring: CMDHEAD advances. -/
def dropCmd (s : State) : State := { s with host := { s.host with cmdhead := s.host.cmdhead + 1 } }

/-- Accept the head record: HSEQLAST advances. -/
def acceptCmd (c : HostCmd) (s : State) : State := { dropCmd s with host := { (dropCmd s).host with hseqlast := c.hseq } }

/-- CMD_REFUSED (R378). -/
def cmdRefused (c : HostCmd) (cause detail : Nat) (s : State) : State :=
  hostEvent 0 0x01 c.hseq (BitVec.ofNat 64 cause) (BitVec.ofNat 64 detail) 0 0 s

/-- Refuse the head record after its sequence check. -/
def refuseCmd (c : HostCmd) (cause detail : Nat) (s : State) : State := cmdRefused c cause detail (acceptCmd c s)

/-- Context number and ASID of a CTXID field (R212). -/
def cmdNum (c : HostCmd) : Nat := bits c.ctxid 21 16
def cmdAsid (c : HostCmd) : Nat := c.ctxid % 2 ^ 16

/-- The fields that a command does not use are zero (R377). -/
def cmdZeroOk (c : HostCmd) : Bool :=
  c.mustBeZero == 0 && c.ctxid / 2 ^ 22 == 0 && match c.opc with
  | 1 => c.arg2 == 0
  | 2 => c.arg0 == 0 && c.arg1 == 0 && c.arg2 == 0
  | 3 => c.addr == 0 && c.arg0 == 0 && c.arg1 == 0 && c.arg2 == 0
  | 4 => c.ctxid == 0 && c.addr == 0 && c.arg0 == 0 && c.arg1 == 0 && c.arg2 == 0
  | 5 => c.ctxid == 0 && c.addr == 0 && c.arg0.toNat / 2 ^ 32 == 0 && c.arg1 == 0 && c.arg2 == 0
  | 6 => c.ctxid == 0 && c.arg0 == 0 && c.arg1 == 0 && c.arg2 == 0
  | 7 => c.ctxid == 0 && c.addr == 0 && c.arg0.toNat / 2 == 0 && c.arg2 == 0
  | _ => false

/-- Take the head record for a command: the sequence check, then the check of the zero fields; what is no record of that
command is left alone. A record of no command is refused with cause 0x0002. -/
def takeCmd (p : HostCmd → Bool) (s : State) (f : HostCmd → State) : Out :=
  if !hubTakes s then .next s
  else
    match headCmd s with
    | none => .next s
    | some c =>
      if c.hseq ≠ s.host.hseqlast + 1 then .next (cmdRefused c 1 0 (dropCmd s))
      else if c.opc = 0 ∨ 7 < c.opc then .next (refuseCmd c 2 0 s)
      else if !p c then .next s
      else if !cmdZeroOk c then .next (refuseCmd c 2 0 s)
      else .next (f c)

/-! ## Host launches (R297) -/

/-- Records of a conductor's inbox that it has not consumed. -/
def inboxCount (y : Cond) : Nat := (y.litail - y.lihead).toNat

/-- The conductor that a host launch record of a context goes to: of LCOND, the fewest unconsumed, the lowest number. -/
def inboxFor (s : State) (x : Ctx) : Option Nat :=
  let cand := (setBits 16 x.lcond).filterMap fun n =>
    let k := inboxCount (s.condOf n)
    if k < 64 then some (k, n) else none
  (cand.foldl (fun b q => match b with
    | none => some q
    | some p => if q.1 < p.1 then some q else some p) none).map (·.2)

/-- A host launch record (R297): the host's record with byte 0x0C cleared. -/
def launchRecord (c : HostCmd) : Nat :=
  c.hseq.toNat + c.ctxid % 2 ^ 32 * 2 ^ 64 + c.addr.toNat * 2 ^ 128 + c.arg0.toNat * 2 ^ 192 + c.arg1.toNat * 2 ^ 256

/-- Read the chain at an address into the hub's record buffer, as far as it can be read. -/
def bufferChain (ctx : Nat) (addr : Word) (s : State) : State :=
  match launchRead ctx false addr s with
  | (.error _, s) => s
  | (.ok raw, s) =>
    let ((l, _), s) := chainRest ctx false 16 raw 1 s
    { s with
      seq := s.seq + 2
      chains := s.chains ++ [{ id := s.seq, ctx := ctx, agent := none, byQ := none, addr := addr, recs := (addr, raw) :: l }] }

/-- HOST_LAUNCH (R297, R377): the record goes into an inbox, then LITAIL advances; the hub starts reading the chain. -/
def execHostLaunch (s : State) : Out :=
  takeCmd (fun c => c.opc == 1) s fun c =>
    let x := s.ctxOf (cmdNum c)
    if x.st ≠ .live ∨ x.asid ≠ cmdAsid c then refuseCmd c 4 0 s
    else
      match inboxFor s x with
      | none => s
      | some n =>
        let t := (s.condOf n).litail.toNat
        let s1 := condWrite n (0x100000 + 64 * (t % 64)) 64 (launchRecord c) (acceptCmd c s)
        bufferChain (cmdNum c) c.addr (condWrite n 0x101008 8 (t + 1) s1)

/-! ## Creation (R292, R293, R343, R344) -/

/-- `n` bytes at an offset of a context descriptor. -/
def dscField (v o n : Nat) : Nat := v / 256 ^ o % 256 ^ n

/-- The context that a descriptor describes. DEDUCED, log entry 25. -/
def ctxOfDesc (v : Nat) (lhkey : Word) (seed : Nat) : Ctx :=
  { st := .live, asid := dscField v 0x08 2, prio := dscField v 0x0A 1 % 4, ptroot := dscField v 0x00 8, vsrec := dscField v 0x0C 4
    fqbase := BitVec.ofNat 64 (dscField v 0x10 8)
    prebnd := if dscField v 0x18 8 = 0 then 200000 else BitVec.ofNat 64 (dscField v 0x18 8)
    rdcsz := dscField v 0x20 8, qbind := dscField v 0x28 8, hcond := dscField v 0x30 2, lcond := dscField v 0x32 2
    gmask := dscField v 0x40 8, self := dscField v 0x48 1 % 64, prism := bit (dscField v 0x49 1) 0, groupId := dscField v 0x4C 4
    shbase := BitVec.ofNat 64 (dscField v 0x50 8), shlen := dscField v 0x58 8, mctab := dscField v 0x60 8
    latectl := BitVec.ofNat 64 (dscField v 0x0B 1 % 2), lhkey := lhkey, stealSeed := BitVec.ofNat 32 seed
    prismLive := bit (dscField v 0x49 1) 0 }

/-- Whether the RDC and version stores of a new context fit on every stack. DEDUCED, log entry 11. DEDUCED, log entry 25. -/
def storesFit (s : State) (f : Nat → Nat) : Bool :=
  (List.range 8).all fun d => decide (reservedTop s d + f d ≤ 2 ^ 36)

/-- The lowest descriptor offset that R292 or R344 refuses, if any. DEDUCED, log entry 23. DEDUCED, log entry 25. -/
def dscRefused (s : State) (v : Nat) : Option Nat :=
  let x := ctxOfDesc v 0 0
  let live := s.ctxs.filterMap fun (_, y) => if y.st = .absent then none else some y
  let rdc (d : Nat) : Nat := rdcGiB x d * 2 ^ 30
  let checks : List (Nat × Bool) :=
    [ (0x00, x.ptroot % 2 ^ 12 != 0)
    , (0x08, live.any fun y => y.asid == x.asid)
    , (0x0A, dscField v 0x0A 1 / 4 != 0)
    , (0x0B, dscField v 0x0B 1 / 2 != 0)
    , (0x0C, x.vsrec == 0 || decide (65535 < x.vsrec)
        || (storesFit s rdc && !storesFit s fun d => rdc d + x.vsrec * 4096 * 32))
    , (0x10, !canonical x.fqbase || x.fqbase.toNat % 2 ^ 15 != 0)
    , (0x20, (List.range 8).any (fun d => decide (32 < rdcGiB x d)) || !storesFit s rdc)
    , (0x28, live.any fun y => y.qbind &&& x.qbind != 0)
    , (0x30, x.hcond == 0)
    , (0x32, x.lcond == 0)
    , (0x34, dscField v 0x34 12 != 0)
    , (0x40, !bit x.gmask x.self)
    , (0x48, dscField v 0x48 1 / 64 != 0 || x.self != s.selfIdx)
    , (0x49, dscField v 0x49 1 / 2 != 0 || (x.prism && live.any fun y => y.prism && y.prismLive))
    , (0x4A, dscField v 0x4A 2 != 0)
    , (0x4C, live.any fun y => y.st == .live && y.groupId == x.groupId)
    , (0x50, x.shbase.toNat % 2 ^ 21 != 0 || (x.shlen != 0 && (!canonical x.shbase
        || !canonical (BitVec.ofNat 64 (x.shbase.toNat + x.shlen - 1)) || decide (2 ^ 64 < x.shbase.toNat + x.shlen)
        || bit x.shbase.toNat 63 != bit (x.shbase.toNat + x.shlen - 1) 63)))
    , (0x58, x.shlen % 2 ^ 21 != 0)
    , (0x60, x.mctab % 2 ^ 12 != 0)
    , (0x68, dscField v 0x68 24 != 0) ]
  (checks.find? (·.2)).map (·.1)

/-- A Prism member joins: JOIN goes out, and its replica is copied from a live member, or starts at zero bytes (R351). -/
def joinPrism (s : State) : State :=
  let s1 := sendFrame (controlFrame s 0x30 0 0) s
  { s1 with prism := { s1.prism with
    replica := [], copying := decide (s.prism.joined &&& (2 ^ 64 - 1 - 2 ^ s.prism.self) ≠ 0), left := false
    applied := if s1.prism.left then s1.prism.seen else s1.prism.applied } }

/-- Every byte of [pa, pa + n) lies in HBM4 that is present and not reserved, whichever stacks it touches (R316). -/
def hbmWhole (s : State) (pa n : Nat) : Bool :=
  decide (pa + n ≤ 2 ^ 39) && (List.range 8).all fun d =>
    !overlap pa n (d * 2 ^ 36) (2 ^ 36)
      || (!bit s.err.fencedDies d && !overlap pa n ((d + 1) * 2 ^ 36 - reservedTop s d) (reservedTop s d))

/-- CREATE (R291 to R293, R377). The hub's random source supplies LHKEY and the steal seed. DEDUCED, log entry 25. -/
def execCreate (lhkey : Word) (seed : Nat) (s : State) : Out :=
  takeCmd (fun c => c.opc == 2) s fun c =>
    let n := cmdNum c
    let pa := c.addr.toNat
    if (s.ctxOf n).st ≠ .absent then refuseCmd c 4 0 s
    else if s.err.failedState then refuseCmd c 8 0 s
    else if pa % 64 ≠ 0 ∨ hbmWhole s pa 128 = false ∨ (s.badAt pa 128).isSome = true then refuseCmd c 5 0 s
    else
      let v := s.memRead pa 128 0
      let x := ctxOfDesc v lhkey seed
      if (x.rdcsz ≠ 0 ∧ featOn s 5 = false) ∨ (x.prism = true ∧ featOn s 1 = false) then refuseCmd c 3 0 s
      else if x.asid ≠ cmdAsid c then refuseCmd c 5 8 s
      else
        match dscRefused s v with
        | some o => refuseCmd c 5 o s
        | none =>
          let s1 := { acceptCmd c s with ctxs := Tab.set n x s.ctxs }
          let s2 := if x.prism then joinPrism s1 else s1
          hostEvent 0 0x02 c.hseq (BitVec.ofNat 64 n) 0 0 0 s2

/-! ## Destruction (R291) -/

/-- DESTROY (R291, R377). -/
def execDestroy (s : State) : Out :=
  takeCmd (fun c => c.opc == 3) s fun c =>
    let x := s.ctxOf (cmdNum c)
    if x.st = .absent ∨ x.asid ≠ cmdAsid c then refuseCmd c 4 0 s
    else if x.st = .dying then acceptCmd c s
    else beginDying (cmdNum c) ((acceptCmd c s).updCtx (cmdNum c) fun x => { x with destroyed := c.hseq })

/-- What a context held in the cells: its translations (R323), its Lens entries, whose frames start the scan again (R236), its deferral
entries, its iteration queues; its register-space regions stay tagged, with no context. -/
def clearCell (ctx asid : Nat) (gone : List Nat) (x : Cell) : Cell :=
  let tile (o : LensCmd) : Bool := match o with | .tpost t _ _ => t.ctx == ctx | .tqrel t _ _ => t.ctx == ctx | _ => false
  { x with
    tlb := x.tlb.filter fun t => t.asid != asid
    lens := x.lens.filter fun e => e.ctx != ctx
    scanLeft := 4096
    lensWr := x.lensWr.filter fun w => !x.lens.any fun e => e.id == w.eid && e.ctx == ctx
    ops := x.ops.filter fun o => !tile o.cmd
    defq := x.defq.map fun (p, q) => (p, if q.ctx = ctx then {} else q)
    iterqs := x.iterqs.filter fun q => !gone.contains q.rid
    steal := match x.steal with | some st => if gone.contains st.rid then none else some st | none => none
    tags := x.tags.map fun (g, t) => (g, if t = ctx + 1 then 65 else t) }

/-- Every address-based access of a context has performed, but for those that wait for another package. -/
def ctxQuiet (s : State) (ctx : Nat) : Bool :=
  s.accs.all (fun a => a.ctx != ctx || a.sent || !a.orphan) && s.cells.all fun (_, x) => x.rows.all fun o => (Tab.get {} o.slot x.slots).ctx != ctx || o.consumed

/-- DYING_COMPLETE (R248, R291, R402): everything the context held is gone, and its number is free. DESIGN CHOICE, log entry 4. -/
def execDyingComplete (ctx : Nat) (s : State) : Out :=
  if s.landing || (s.ctxOf ctx).st != .dying || !(tasksOf s ctx).isEmpty || !ctxQuiet s ctx then .next s
  else
    let x := s.ctxOf ctx
    let gone := (openRecs s ctx).map (·.id)
    let freed := (s.sec.slots.filter fun (_, k) => k.ctx == some ctx).map (·.1)
    let bound (k : Nat) : Bool := bit (x.qbind / 256 ^ (k / 8) % 256) (k % 8)
    let s1 := { s with
      cells := s.cells.map fun (c, y) => (c, clearCell ctx x.asid gone y)
      recs := s.recs.filter fun r => r.ctx != ctx
      chains := s.chains.filter fun q => q.ctx != ctx
      accs := s.accs.filter fun a => a.ctx != ctx
      rdc := s.rdc.filter fun r => r.ctx != ctx
      late := s.late.filter fun q => q.ctx != ctx
      dirs := s.dirs.filter fun v => v.tile.ctx != ctx
      fillReads := s.fillReads.filter fun r => r.tile.ctx != ctx
      walks := s.walks.filter fun w => w.ctx != ctx
      lcache := s.lcache.filter fun t => t.asid != x.asid
      dieqs := s.dieqs.filter fun (k, _) => !bound k
      keyTag := s.keyTag.map fun (p, t) => (p, if freed.contains t then 4096 * (s.seq + 1) + t else t)
      sec := { s.sec with slots := s.sec.slots.filter fun (_, k) => k.ctx != some ctx }
      seq := s.seq + 2
      ctxs := Tab.del ctx s.ctxs }
    .next (hostEvent 0 0x03 x.destroyed (BitVec.ofNat 64 ctx) 0 0 0 s1)

/-! ## The Mirror (R347) -/

/-- Facet packets that have been sent and not answered. -/
def unanswered (s : State) : List Acc :=
  s.accs.filter fun a => a.sent && (a.peerOf.isSome || match a.kind with | .mcst _ _ => true | _ => false)

/-- The drain has ended: the MIRPREP is taken, and MIR_DRAINED gives the packets returned link-dead. -/
def endDrain (c : HostCmd) (n : Nat) (s : State) : State :=
  hostEvent 0 0x04 c.hseq (BitVec.ofNat 64 n) 0 0 0 { acceptCmd c s with host := { (acceptCmd c s).host with mirDrain := none } }

/-- MIRPREP (R347): no new facet packet is sent from here on; taken once those already sent are answered. -/
def execMirprep (s : State) : Out :=
  takeCmd (fun c => c.opc == 4) s fun c =>
    if featOn s 2 = false then refuseCmd c 3 0 s
    else
      let s1 := { s with
        mirHold := true
        time := { s.time with pausedAt := some (s.time.pausedAt.getD s.rt) }
        host := { s.host with mirDrain := some (s.host.mirDrain.getD s.rt) } }
      if (unanswered s1).isEmpty then endDrain c 0 s1 else s1

/-- Return an unanswered packet with link-dead status: PEER_REMOTE with AUX 0x0002; the members of an MCST that have not
answered count as not reached (R138, R347). -/
def linkDeadReturn (a : Acc) (s : State) : State :=
  match a.kind with
  | .mcst members _ => { s with accs := s.accs.map fun q => if q.id = a.id then { q with x := BitVec.ofNat 64 (q.x.toNat ||| members) } else q }
  | _ => match a.peerOf with
    | some (_, ea) => peerFailed a ea 2 0 s
    | none => s

/-- MIR_DRAIN_TIMEOUT (R347): 20 µs after PREPARE. -/
def execMirDrainTimeout (s : State) : Out :=
  takeCmd (fun c => c.opc == 4) s fun c =>
    match s.host.mirDrain with
    | none => s
    | some t =>
      if (s.rt - t).toNat < 80000 then s
      else
        let l := unanswered s
        endDrain c l.length (l.foldl (fun t a => linkDeadReturn a t) s)

/-- MIRCOMMIT (R347): the configuration's number, the members that it connects; what was held goes on, but for notices to members that are
absent now, on the routes of the new configuration. -/
def execMircommit (connected : Nat) (s : State) : Out :=
  takeCmd (fun c => c.opc == 5) s fun c =>
    if featOn s 2 = false then refuseCmd c 3 0 s
    else
      let t := s.time
      let last := match t.pausedAt with
        | some p => t.lastExchange + BitVec.ofNat 64 (min (s.rt - p).toNat 200000000)
        | none => t.lastExchange
      flushPackets { acceptCmd c s with
        mircfg := BitVec.ofNat 32 c.arg0.toNat, connected := connected, mirHold := false
        replyq := s.replyq.filter fun m => match m.notice? with | some k => bit connected k | none => true
        time := { t with lastExchange := last, pausedAt := none } }

/-! ## Firmware (R397 to R399) -/

/-- `n` bytes at an offset of a firmware image in flash. -/
def imgField (m : Memory) (o n : Nat) : Nat := Memory.readN m o n

/-- A digest as the number whose bytes, ascending, are the digest's bytes in order. -/
def digestLe (h : BitVec 256) : Nat := (List.range 32).foldl (fun v i => v + (h.toNat / 256 ^ (31 - i) % 256) * 256 ^ i) 0

/-- The detail code of the first check of R398 that an image in flash fails, but for its place in memory.
DESIGN CHOICE, log entry 6. DEDUCED, log entry 23. -/
def imageCheck (s : State) (m : Memory) : Option Nat :=
  let len := imgField m 0x10 8
  if imgField m 0 4 ≠ 0x9640 ∨ imgField m 0x0C 4 ≠ 0 ∨ imgField m 0x58 40 ≠ 0 ∨ len % 4096 ≠ 0 ∨ len < 4096 ∨ 64 * 2 ^ 20 < len then some 1
  else if digestLe (sha256 (Memory.readL m 0x38 32)) ≠ digestLe s.sec.clkey then some 2
  else if imgField m 0x08 4 < s.sec.svn then some 3
  else if digestLe (sha256 (Memory.readL m 0x80 len)) ≠ imgField m 0x18 32 then some 4
  else if !Config.sigVerifies (imgField m 0 128) (imgField m 0x38 32) (imgField m (0x80 + len) 7856) then some 5
  else none

/-- The bytes of an image in memory, as the hub copies them: a byte that cannot be corrected, or that does not lie in HBM4, is not among
them, and the manual does not say what stands in its place (R383, R399). DESIGN CHOICE, log entry 4. -/
def fwBytes (s : State) (pa n : Nat) : List Byte :=
  if hbmWhole s pa n && (s.badAt pa n).isNone then s.memBytes pa n 0
  else
    (List.range n).map fun i =>
      if !hbmOk s (pa + i) 1 || (s.badAt (pa + i) 1).isSome then Config.freeByte s.free i else BitVec.ofNat 8 (s.byteAt (pa + i) 0)

/-- FWLOAD (R399): copied into the inactive bank, verified there in the order of R398, its place in memory last, and made pending. The
length is that of the header as it was copied. DEDUCED, log entry 26. -/
def execFwload (s : State) : Out :=
  takeCmd (fun c => c.opc == 6) s fun c =>
    let pa := c.addr.toNat
    let bank := 1 - s.sec.active
    let len := min (imgField (Memory.writeL [] 0 (fwBytes s pa 0x80)) 0x10 8) (64 * 2 ^ 20)
    let n := 0x80 + len + 7856
    let m := Memory.writeL [] 0 (fwBytes s pa n)
    let s1 := { s with sec := { s.sec with
      banks := Tab.set bank { image := m, present := true } s.sec.banks
      pending := if s.sec.pending = some bank then none else s.sec.pending } }
    match imageCheck s1 m with
    | some d => refuseCmd c 7 d s1
    | none =>
      if pa % 4096 ≠ 0 ∨ hbmWhole s pa n = false then refuseCmd c 7 6 s1
      else acceptCmd c { s1 with sec := { s1.sec with pending := some bank } }

/-! ## Suspend commands (R391, R395) -/

/-- The package belongs to a formed group, which it has not left (R342, R357). -/
def inGroup (s : State) : Bool := s.prism.members != 0 && !s.prism.left

/-- The SUSPEND event at every S strand and conductor (R215, R391). -/
def raiseSuspend (s : State) : State :=
  (List.range 16).foldl (fun t n => t.updCond n fun y => { y with suspendEv := true })
    { s with
      cells := s.cells.map fun (c, x) => (c, { x with slots := x.slots.map fun (k, y) => (k, if y.st = .free then y else { y with suspendEv := true }) }) }

/-- A suspend at T is due; the first one governs. Where a restore awaits its T′ it suspends again (R391, R395). -/
def armSuspend (t : Word) (s : State) : State :=
  match s.susp with
  | .none => raiseSuspend { s with susp := .armed t }
  | .restored t' none => raiseSuspend { s with susp := .restored t' (some t) }
  | _ => s

/-- The command's time leaves the lead of 1 ms. -/
def leadOk (s : State) (t : Word) : Bool := decide (s.rt.toNat + 4000000 ≤ t.toNat)

/-- SUSPEND with ARG0[0] = 0 (R391). -/
def execSuspend (s : State) : Out :=
  takeCmd (fun c => c.opc == 7 && c.arg0 == 0) s fun c =>
    if featOn s 3 = false then refuseCmd c 3 0 s
    else if !leadOk s c.arg1 then refuseCmd c 6 0 s
    else
      let s1 := acceptCmd c s
      if inGroup s then sendFrame (controlFrame s1 0x10 0 c.arg1) s1 else armSuspend c.arg1 s1

/-- RESUME at T′ of a completed restore that has none set yet (R395). -/
def setResume (t : Word) (s : State) : State :=
  match s.susp with
  | .restored none again => { s with susp := .restored (some t) again }
  | _ => s

/-- A completed restore awaits its T′, and none is set (R395). -/
def awaitsResume (s : State) : Bool := match s.susp with | .restored none _ => true | _ => false

/-- SUSPEND with ARG0[0] = 1 (R395): taken only while a completed restore awaits its T′. -/
def execSuspendResume (s : State) : Out :=
  takeCmd (fun c => c.opc == 7 && c.arg0 != 0) s fun c =>
    if featOn s 3 = false then refuseCmd c 3 0 s
    else if !awaitsResume s then refuseCmd c 9 0 s
    else if !leadOk s c.arg1 then refuseCmd c 6 0 s
    else
      let s1 := acceptCmd c s
      if inGroup s then sendFrame (controlFrame s1 0x11 0 c.arg1) s1 else setResume c.arg1 s1

end Sys2Proof.Machine
end

