-- ==== Sys2Proof/Machine/FabricEvents.lean ====
section
/-! DEFINITION. Steps of the die links (R337 to R340, R388), of the facet ports (R341, R342) and of their keys (R348, R349,
R405). A request that an access sends to another end of the die fabric travels as a packet, link by link; replies and the traffic of the
Lenses travel likewise and hold nothing back. -/

namespace Sys2Proof.Machine

open Sys2Proof

/-! ## Die links -/

/-- Link `k` of the hub leads to die k; link 8 + k joins die k and die k + 1 modulo 8 (R1; log entry 20). The hub is end 8.
DEDUCED, log entry 20. -/
def linkEnds (l : Nat) : Nat × Nat := if l < 8 then (8, l) else (l - 8, (l - 7) % 8)

def State.link (s : State) (l : Nat) : DieLink := Tab.get {} l s.links

def State.updLink (s : State) (l : Nat) (f : DieLink → DieLink) : State := { s with links := Tab.set l (f (s.link l)) s.links }

/-- A link that a route may use: neither dead nor at a die that is fenced. -/
def linkLive (s : State) (l : Nat) : Bool :=
  let e := linkEnds l
  (s.link l).st != .dead && !bit s.err.fencedDies e.1 && !bit s.err.fencedDies e.2

/-- The ends one link away from a set of ends, with the set itself. -/
def spread (s : State) (m : Nat) : Nat :=
  (List.range 16).foldl (fun acc l =>
    let e := linkEnds l
    if linkLive s l then
      (if bit m e.1 then acc ||| 2 ^ e.2 else acc) ||| (if bit m e.2 then 2 ^ e.1 else 0)
    else acc) m

/-- The ends that a route of at most three links reaches (R339). DEDUCED, log entry 20. -/
def reached (s : State) (a : Nat) : Nat := spread s (spread s (spread s (2 ^ a)))

/-- The die that is unreachable, if any: one that the hub cannot reach, or else, of two dies with no route between them, the
higher (R340; log entry 20). DEDUCED, log entry 20. -/
def unreachable (s : State) : Option Nat :=
  let dies := (List.range 8).filter fun d => !bit s.err.fencedDies d
  match dies.find? fun d => !bit (reached s 8) d with
  | some d => some d
  | none => dies.find? fun d => dies.any fun e => decide (e < d) && !bit (reached s e) d

/-- Fence unreachable dies until none remains. -/
def fenceUnreachable : Nat → State → State
  | 0, s => s
  | n + 1, s => match unreachable s with
    | some d => fenceUnreachable n (fenceDie d s)
    | none => s

/-- LINK_STATE (R378): 0 up, 1 down, 2 dead. DEDUCED, log entry 20. -/
def linkState (src link st : Nat) (s : State) : State :=
  hostEvent src 0x21 0 (BitVec.ofNat 64 link) (BitVec.ofNat 64 st) 0 0 s

/-! ## Packets (R337 to R340) -/

/-- The far end of a link from one of its ends. -/
def farEnd (l a : Nat) : Nat := if (linkEnds l).1 = a then (linkEnds l).2 else (linkEnds l).1

/-- A link has an end. -/
def atEnd (l a : Nat) : Bool := (linkEnds l).1 == a || (linkEnds l).2 == a

/-- The links that a packet between two ends uses (R338): the direct link with the hub, the ring link between neighbours, and otherwise
the two links through the hub. -/
def plainRoute (a b : Nat) : List Nat :=
  if a = 8 then [b] else if b = 8 then [a]
  else if b = (a + 1) % 8 then [8 + a] else if a = (b + 1) % 8 then [8 + b]
  else [a, b]

/-- The routes of at most `n` links in service between two ends. -/
def liveRoutes (s : State) : Nat → Nat → Nat → List (List Nat)
  | 0, a, b => if a = b then [[]] else []
  | n + 1, a, b =>
    if a = b then [[]]
    else (List.range 16).flatMap fun l =>
      if linkLive s l && atEnd l a then (liveRoutes s n (farEnd l a) b).map (l :: ·) else []

/-- A detour route (R339): of at most three links, none of them dead, a shortest. DESIGN CHOICE, log entry 48. -/
def detourRoute (s : State) (a b : Nat) : Option (List Nat) :=
  let l := liveRoutes s 3 a b
  (List.range 4).findSome? fun n => l.find? fun r => r.length == n

/-- A packet as its sender sends it, or sends it again (R338, R339): on its own route, or on a detour where that has a dead link or the
packet has come back. -/
def Packet.start (p : Packet) (s : State) : Packet :=
  let plain := plainRoute p.src p.dst
  if !p.detour && plain.all (linkLive s) then { p with place := p.src, route := plain, via := none }
  else { p with place := p.src, route := (detourRoute s p.src p.dst).getD plain, detour := true, via := none }

/-- The virtual channel that a packet travels in (R340). -/
def Packet.channel (p : Packet) : Vc := if p.detour then .detour else p.vc

/-- Two packets of one channel from one source to one destination, which arrive in the order sent (R338). -/
def Packet.sameFlow (p q : Packet) : Bool := p.src == q.src && p.dst == q.dst && p.vc == q.vc

/-- The packets behind which packet `p` of the list has been sent. -/
def sentBefore (p : Packet) (l : List Packet) : List Packet := l.takeWhile fun q => q != p

/-- Send a packet. -/
def sendPacket (id src dst : Nat) (vc : Vc) (s : State) : State :=
  let p : Packet := { carries := id, src := src, dst := dst, vc := vc, place := src, route := [] }
  { s with packets := s.packets ++ [p.start s] }

/-- A packet is sent (R337, R338): the request of an access to an end where it has not arrived, once; or a reply or message of a Lens,
whose step does not wait for it. DESIGN CHOICE, log entry 48. -/
def sendMove (id src dst : Nat) (vc : Vc) (s : State) : State :=
  let may : Bool := decide (src ≤ 8) && decide (dst ≤ 8) && src != dst && !bit s.err.fencedDies src && !bit s.err.fencedDies dst
    && !s.packets.any fun p => p.carries == id && p.dst == dst && p.vc == vc
  match vc with
  | .request => match s.acc id with
    | some a =>
      if may && src == (agentDie a.agent).getD 8 && (a.dests s .home).contains dst && !a.arrived.contains dst then sendPacket id src dst vc s else s
    | none => s
  | .response => if may then sendPacket id src dst vc s else s
  | .lens => if may then sendPacket id src dst vc s else s
  | .detour => s

/-- A packet has arrived: a request of an access is where it performs. -/
def arrivePacket (p : Packet) (s : State) : State :=
  let s1 : State := { s with packets := s.packets.filter fun q => q != p }
  if p.vc = .request then
    { s1 with accs := s1.accs.map fun a => if a.id = p.carries then { a with arrived := a.arrived ++ [p.dst] } else a }
  else s1

/-- Whether a packet that stands at an end may be carried on over its next link: it is the first of its channel there, its last link keeps
the order of its flow, and any other asks for a buffer of the channel at the far end (R337, R338, R340).
DESIGN CHOICE, log entry 5. -/
def mayHop (s : State) (l src : Nat) (p : Packet) : Bool :=
  let here (q : Packet) : Bool := q.place == src && q.route.head? == some l && q.channel == p.channel
  here p && !(sentBefore p s.packets).any here
    && match p.route with
      | [_] => !(sentBefore p s.packets).any p.sameFlow
      | _ => decide ((s.packets.filter fun q => q.via == some l && q.place == farEnd l src && q.channel == p.channel).length < Config.vcSlots)

/-- The virtual channels in their order. -/
def vcs : List Vc := [.request, .response, .lens, .detour]
/-- Number of a virtual channel of the direction of a link that leaves end `src`. -/
def vcKey (l src : Nat) (v : Vc) : Nat :=
  (if (linkEnds l).1 = src then 0 else 4) + match v with | .request => 0 | .response => 1 | .lens => 2 | .detour => 3

/-- The packet of a channel that a link may carry on from an end. -/
def nextHop (s : State) (l src : Nat) (v : Vc) : Option Packet := s.packets.find? fun p => p.channel == v && mayHop s l src p

/-- Flit times that a channel with traffic has waited at an end of a link. -/
def vcWait (s : State) (l src : Nat) (v : Vc) : Nat := Tab.get 0 (vcKey l src v) (s.link l).waited

/-- The channel that a link serves where `v` was chosen (R337): the one that has waited longest, where as many channels have waited for so
long that each is served in its eighth flit time only if they are served from now on, the longest first. DEDUCED, log entry 20. -/
def served (s : State) (l src : Nat) (v : Vc) : Vc :=
  let here := vcs.filter fun w => (nextHop s l src w).isSome
  let pressed := (List.range 3).any fun i => decide (i < (here.filter fun w => decide (7 ≤ vcWait s l src w + i)).length)
  if pressed then here.foldl (fun b w => if vcWait s l src b < vcWait s l src w then w else b) (here.headD v) else v

/-- Carry a packet on over a link: to its destination, or to the far end's buffer; bound from there for a link that has died, it is
returned to its sender and sent again (R339, R340). -/
def carry (l src : Nat) (p : Packet) (s : State) : State :=
  match p.route with
  | _ :: m :: rest =>
    let q : Packet := { p with place := farEnd l src, route := m :: rest, via := some l }
    let q := if linkLive s m then q else { q with detour := true }.start s
    { s with packets := s.packets.map fun r => if r == p then q else r }
  | _ => arrivePacket p s

/-- A link carries a packet on (R337, R338); the far end accepts it at once. DESIGN CHOICE, log entry 48. -/
def flitMove (l src : Nat) (v : Vc) (s : State) : State :=
  if !linkLive s l || !atEnd l src || decide (16 ≤ l) then s
  else
    let w := served s l src v
    match nextHop s l src w with
    | none => s
    | some p =>
      let wait (t : Tab Nat) (u : Vc) : Tab Nat :=
        if u == w || (nextHop s l src u).isNone then Tab.del (vcKey l src u) t
        else Tab.set (vcKey l src u) (Tab.get 0 (vcKey l src u) t + 1) t
      let k := vcKey l src .request / 4
      carry l src p (s.updLink l fun y =>
        { y with waited := vcs.foldl wait y.waited, retries := Tab.del k y.retries, sent := Tab.set k (Tab.get 0 k y.sent + 1) y.sent })

/-- A link dies (R339, R340): the packets that wait for it are returned to their senders and sent again on detours, each at its place in
the order of its flow; a die that no route reaches any longer is fenced, and what travels to it or for it is gone. DEDUCED, log entry 20. -/
def linkDies (link : Nat) (s : State) : State :=
  let s1 := linkState 0 link 2 (s.updLink link fun y => { y with st := .dead, retries := [], waited := [] })
  let s2 := fenceUnreachable 8 s1
  { s2 with packets := (s2.packets.filter fun p => !bit s2.err.fencedDies p.src && !bit s2.err.fencedDies p.dst).map fun p =>
      if p.route.head? == some link then { p with detour := true }.start s2 else p }

/-- A flit of a link is retried; the sixteenth retry of one flit kills the link (R339). -/
def flitLostMove (l src : Nat) (s : State) : State :=
  if !s.powered || decide (16 ≤ l) || (s.link l).st == .dead || !atEnd l src then s
  else
    let k := vcKey l src .request / 4
    let n := Tab.get 0 k (s.link l).retries + 1
    if 16 ≤ n then linkDies l s else s.updLink l fun y => { y with retries := Tab.set k n y.retries }

/-- LINK_DEAD (R339, R340): a flit has been retried 16 times, or training has been lost. DEDUCED, log entry 20. -/
def execLinkDead (link : Nat) (s : State) : Out :=
  if !s.powered || decide (16 ≤ link) || (s.link link).st == .dead then .next s else .next (linkDies link s)

/-- LINK_RETRAIN (R388): with spare lanes in place of failed ones, the link returns to service. -/
def execLinkRetrain (link : Nat) (s : State) : Out :=
  if !s.powered || decide (16 ≤ link) || (s.link link).st != .dead then .next s
  else .next (linkState 0 link 0 (s.updLink link fun y => { y with st := .up }))

/-! ## Facet ports -/

def State.updPort (s : State) (n : Nat) (f : Port → Port) : State := { s with ports := Tab.set n (f (s.port n)) s.ports }

/-- A port goes down (R341): its routes move to other ports, and what was sent on them is answered or returned before anything is sent on
the new ones (R342). Links of facet ports are numbered from 16 (log entry 20). DEDUCED, log entry 20. -/
def portDown (n : Nat) (s : State) : State :=
  linkState (0x20 + n) (16 + n) 1 (s.updPort n fun y => { y with st := .down, retries := 0, rxRetries := 0, flit := none })

/-- The key of bank `kg`, and the flits that it has carried since it was loaded (R348). -/
def Banks.key (b : Banks) (kg : Nat) : LinkKey := if kg = 0 then b.key0 else b.key1
def Banks.count (b : Banks) (kg : Nat) : Nat := if kg = 0 then b.cnt0 else b.cnt1

/-- Bank `kg` has carried one flit more, under the next count of its nonce (R348). -/
def Banks.flit (b : Banks) (kg : Nat) : Banks := if kg = 0 then { b with cnt0 := b.cnt0 + 1 } else { b with cnt1 := b.cnt1 + 1 }

/-- Load the idle bank with a key: its flit counter restarts at 0. -/
def Banks.load (b : Banks) (key : LinkKey) : Banks :=
  if b.kg = 0 then { b with key1 := key, cnt1 := 0, ready := true } else { b with key0 := key, cnt0 := 0, ready := true }

/-- Go over to the idle bank, which has been loaded; the other is idle from here on. -/
def Banks.switch (b : Banks) : Banks := if b.ready then { b with kg := 1 - b.kg, ready := false } else b

/-- A bank by which a receiver decrypts: the one in use, or the idle one once it has been loaded (R349). -/
def Banks.opens (b : Banks) (kg : Nat) : Bool := kg == b.kg || (b.ready && kg + b.kg == 1)

/-- The nonce of a flit: the salt, and after it the 64-bit flit counter of the bank (R348). -/
def flitNonce (key : LinkKey) (count : Nat) : Nat := key.salt.toNat * 2 ^ 64 + count % 2 ^ 64

/-- The tag of a flit under bank `kg` (R348). -/
def Banks.flitTag (b : Banks) (seq kg payload : Nat) : BitVec 128 :=
  Config.gcmTag (b.key kg).key (flitNonce (b.key kg) (b.count kg)) (seq + 2 ^ 64 * (kg + 2 * payload))

/-- The flit that a port sends (R341, R348): the next sequence number, the KG of the bank in use, and the tag. -/
def Port.seal (y : Port) (payload : Nat) : Flit := ⟨y.txSeq, y.tx.kg, payload, y.tx.flitTag y.txSeq y.tx.kg payload⟩

/-- The link layer of a port sends a flit, or sends the last one again. The far end accepts it, or it is retried: the sixteenth retry of one
flit takes the port down, and so does the flit with which its bank reaches 2⁴⁰ (R341, R348, R349). DEDUCED, log entry 38. -/
def facetFlitMove (n payload : Nat) (ok : Bool) (s : State) : State :=
  if !portUp s n then s
  else
    let f := (s.port n).flit.getD ((s.port n).seal payload)
    if ok then
      let t := s.updPort n fun y => { y with retries := 0, flit := none, txSeq := y.txSeq + 1, tx := y.tx.flit f.kg }
      if 2 ^ 40 ≤ (t.port n).tx.count f.kg then portDown n t else t
    else if 16 ≤ (s.port n).retries + 1 then portDown n s
    else s.updPort n fun y => { y with retries := y.retries + 1, flit := some f }

/-- A flit arrives at a port (R341, R348, R349): the bank that its KG names decrypts it, and the first under a new KG leaves the old bank
idle. One whose tag fails is discarded, and counts towards the 16 retries; one out of sequence is not accepted. DEDUCED, log entry 38. -/
def facetFlitIn (n : Nat) (f : Flit) (s : State) : State :=
  let y := s.port n
  if !portUp s n || f.seq != y.rxSeq then s
  else if y.rx.opens f.kg && f.tag == y.rx.flitTag f.seq f.kg f.payload then
    let t := s.updPort n fun y =>
      { y with rxRetries := 0, rxSeq := y.rxSeq + 1, rx := (if f.kg = y.rx.kg then y.rx else y.rx.switch).flit f.kg }
    if 2 ^ 40 ≤ (t.port n).rx.count f.kg then portDown n t else t
  else if 16 ≤ y.rxRetries + 1 then portDown n s
  else s.updPort n fun y => { y with rxRetries := y.rxRetries + 1 }

/-- FACET_PORT_DOWN (R341). -/
def execFacetPortDown (n : Nat) (s : State) : Out :=
  if portUp s n then .next (portDown n s) else .next s

/-! ## Keys of a port (R348, R349, R405) -/

/-- Send a message of a key update. -/
def sendKey (n : Nat) (m : KeyMsg) (s : State) : State := { s with outbox := s.outbox ++ [.keyUpdate n m] }

/-- KEY_UPDATE_START (R349): a bank has carried 2³⁹ flits; the sender derives the next key into its idle bank and sends UpdateKey.
DEDUCED, log entry 38. -/
def execKeyUpdateStart (n : Nat) (key : LinkKey) (s : State) : Out :=
  let y := s.port n
  if portUp s n && y.updating.isNone && decide (2 ^ 39 ≤ y.tx.count y.tx.kg) then
    .next (sendKey n .updateKey (s.updPort n fun y => { y with tx := y.tx.load key, updating := some .updateKey, updates := y.updates + 1 }))
  else .next s

/-- KEY_UPDATE (R349): UpdateKey arrives; the receiver loads its idle bank and answers. The update counts for the session (R405).
DEDUCED, log entry 38. -/
def execKeyUpdate (n : Nat) (key : LinkKey) (s : State) : Out :=
  if portUp s n then .next (sendKey n .updated (s.updPort n fun y => { y with rx := y.rx.load key, updates := y.updates + 1 })) else .next s

/-- VERIFY_NEW_KEY (R349): one of the later messages of an update arrives. On the answer to UpdateKey the sender sends VerifyNewKey; the
receiver acknowledges it, its idle bank being ready; on the acknowledgement the sender's next flit carries the new KG.
DEDUCED, log entry 38. -/
def execVerifyNewKey (q : PortMsg) (s : State) : Out :=
  let n := q.port
  let y := s.port n
  if !portUp s n then .next s
  else
    match q.msg with
    | .updateKey => .next s
    | .updated =>
      if y.updating = some .updateKey then .next (sendKey n .verifyNewKey (s.updPort n fun y => { y with updating := some .verifyNewKey }))
      else .next s
    | .verifyNewKey => if y.rx.ready then .next (sendKey n .verified s) else .next s
    | .verified =>
      if y.updating = some .verifyNewKey then .next (s.updPort n fun y => { y with tx := y.tx.switch, updating := none }) else .next s

/-- BANK_LIMIT (R349): a bank that has reached 2⁴⁰ flits takes its port down. DEDUCED, log entry 38. -/
def execBankLimit (n : Nat) (s : State) : Out :=
  let y := s.port n
  if portUp s n && (decide (2 ^ 40 ≤ y.tx.count y.tx.kg) || decide (2 ^ 40 ≤ y.rx.count y.rx.kg)) then .next (portDown n s) else .next s

/-- A session is due for renewal: 64 KEY_UPDATEs, or 24 hours (R405). -/
def sessionDue (s : State) (y : Port) : Bool := decide (64 ≤ y.updates) || decide (86400 * second ≤ (s.rt - y.since).toNat)

/-- SESSION_RENEWAL (R405): a fresh KEY_EXCHANGE, which this hub begins where the session is due, or which the peer hub has completed with
this one, mutually authenticated, on the port's management channel (R401). Its keys of both directions enter the idle banks and take over
through the KG switch. DEDUCED, log entry 38. -/
def execSessionRenewal (n : Nat) (k : NewSession) (s : State) : Out :=
  let may : Bool := if k.byPeer then Tab.get .start (n + 1) s.sec.spdm == .secured true else sessionDue s (s.port n)
  if portUp s n && (s.port n).updating.isNone && may then
    let s1 := s.updPort n fun y =>
      { y with tx := y.tx.load k.tx, rx := y.rx.load k.rx, updating := some .verifyNewKey, updates := 0, since := s.rt }
    .next (sendKey n .verifyNewKey (if k.byPeer then s1 else { s1 with outbox := s1.outbox ++ [.keyExchange n] }))
  else .next s

end Sys2Proof.Machine
end

