-- ==== Sys2Proof/Machine/HostEvents.lean ====
section
/-! DEFINITION. What the host does through its port (R372 to R375, R379, R380, R386), the writing of event records (R378, R379), and
the SPDM requests that the hub answers (R401 to R403). -/

namespace Sys2Proof.Machine

open Sys2Proof

/-- The hub answers the host: it has power and has reached READY (R381). -/
def hostReady (s : State) : Bool := s.powered && s.host.ready

/-! ## BAR0 (R373 to R375) -/

/-- FEAT0 (R374); the other feature words offer nothing. -/
def feat0 : Nat := 0x3F

/-- HCTL (R375). -/
def hctl (h : HostIf) : Nat := (if h.refused then 4 else 0) + (if h.ready then 2 else 0) + (if h.go then 1 else 0)

/-- What a read of BAR0 returns (R11, R373 to R375, R386): a register's value, 0 of one that is written only and of reserved bits, and 0
where none is mapped. -/
def bar0Value (s : State) (off : Nat) : Nat :=
  let h := s.host
  match off with
  | 0x000 => feat0
  | 0x040 => hctl h
  | 0x048 => h.cmdbase.toNat
  | 0x050 => h.cmdsize.toNat
  | 0x058 => h.cmdtail.toNat
  | 0x060 => h.cmdhead.toNat
  | 0x068 => h.evbase.toNat
  | 0x070 => h.evsize.toNat
  | 0x078 => h.evtail.toNat
  | 0x080 => h.evhead.toNat
  | 0x088 => h.hseqlast.toNat
  | 0x090 => h.dseqlast.toNat
  | 0x0A0 => h.nextdist.toNat
  | 0x0A8 => h.winbase.toNat
  | 0x0B0 => s.err.fencedCells % 2 ^ 64
  | 0x0B8 => s.err.fencedCells / 2 ^ 64 % 2 ^ 64
  | 0x0C0 => s.err.fencedDies % 2 ^ 8
  | 0x0D0 => (thrt s.thr).toNat
  | o =>
    if 0x020 ≤ o ∧ o ≤ 0x038 ∧ o % 8 = 0 then (Tab.get 0 ((o - 0x020) / 8) h.feata).toNat
    else if 0x200 ≤ o ∧ o < 0x3D0 ∧ o % 8 = 0 then
      min (2 ^ 64 - 1) (Tab.get 0 ((o - 0x200) / 16) (if o % 16 = 0 then s.err.ce else s.err.ue))
    else 0

/-- What the latest host read returned. -/
def readReturns (v : Nat) (s : State) : State := { s with host := { s.host with readData := BitVec.ofNat 64 v } }

/-- An access of BAR0 or BAR4 has its effect only as an aligned 8-byte access; any other completes with none and reads as 0 (R372). -/
def alignedWord (off size : Nat) : Bool := size == 8 && off % 8 == 0

/-- The host reads a register of BAR0 (R372). DEDUCED, log entry 42. -/
def bar0Read (off size : Nat) (s : State) : State := readReturns (if alignedWord off size then bar0Value s off else 0) s

/-- The features written may be accepted: BASE among them, and none that is not offered (R375). -/
def featuresOk (s : State) : Bool :=
  let f (i : Nat) : Nat := (Tab.get 0 i s.host.feata).toNat
  bit (f 0) 0 && f 0 / 64 == 0 && f 1 == 0 && f 2 == 0 && f 3 == 0

/-- HCTL_GO (R375): GO is set once per service span. With SUSPEND accepted, the suspend key is drawn (R404).
DEDUCED, log entry 35. -/
def execHctlGo (v : Word) (key : BitVec 256) (s : State) : Out :=
  if !s.powered || !bit v.toNat 0 || s.host.go then .next s
  else if s.host.ready && featuresOk s then
    let s1 := { s with host := { s.host with go := true, refused := false } }
    .next (if featOn s1 3 then { s1 with sec := { s1.sec with suspendKey := key } } else s1)
  else .next { s with host := { s.host with refused := true } }

/-- The host puts records into its memory, as the entries of the command ring from entry `k` on (R373). DEDUCED, log entry 35. -/
def putRecords (k : Word) : List (BitVec 512) → HostIf → HostIf
  | [], h => h
  | r :: rs, h => putRecords (k + 1) rs { h with hmem := Memory.writeN h.hmem (ringEntry h.cmdbase h.cmdsize k) 64 r.toNat }

/-- CMDTAIL_WRITE (R373, R376): the host has put records into the ring, from the entry of CMDTAIL on, and moves CMDTAIL.
DEDUCED, log entry 35. -/
def execCmdtailWrite (v : Word) (recs : List (BitVec 512)) (s : State) : Out :=
  let h := putRecords s.host.cmdtail recs s.host
  .next { s with host := if hostReady s && decide ((v - h.cmdhead).toNat ≤ h.cmdsize.toNat) then { h with cmdtail := v } else h }

/-- EVHEAD_WRITE (R373, R379). -/
def execEvheadWrite (v : Word) (s : State) : Out :=
  if hostReady s then .next { s with host := { s.host with evhead := v } } else .next s

/-- A ring size that a write may set. -/
def ringSizeOk (v : Word) : Bool := (List.range 11).any fun i => v.toNat == 2 ^ (i + 6)

/-- REGISTER_WRITE (R373): a register without behaviour of its own. NEXTDIST alone takes a write before READY (R381).
DEDUCED, log entry 35. -/
def execRegisterWrite (q : HostAt) (v : Word) (s : State) : Out :=
  let off := q.off
  let h := s.host
  let page := BitVec.ofNat 64 (v.toNat / 4096 * 4096)
  if !s.powered || !alignedWord off q.size then .next s
  else if off = 0xA0 then .next { s with host := { h with nextdist := BitVec.ofNat 64 (v.toNat % 2 ^ 36) } }
  else if !h.ready then .next s
  else if off = 0xA8 then .next { s with host := { h with winbase := BitVec.ofNat 64 (v.toNat / 2 ^ 32 % 2 ^ 20 * 2 ^ 32) } }
  else if h.go then .next s
  else
    .next { s with host :=
      if off = 0x20 ∨ off = 0x28 ∨ off = 0x30 ∨ off = 0x38 then { h with feata := Tab.set ((off - 0x20) / 8) v h.feata }
      else if off = 0x48 then { h with cmdbase := page }
      else if off = 0x50 then (if ringSizeOk v then { h with cmdsize := v } else h)
      else if off = 0x68 then { h with evbase := page }
      else if off = 0x70 then (if ringSizeOk v then { h with evsize := v } else h)
      else h }

/-- A doorbell: a stopped or halted conductor restarts at the base of its instruction memory; a running one has an event (R215,
R296, R380). -/
def ringBell (y : Cond) : Cond :=
  match y.st with
  | .running => { y with doorbell := true }
  | _ => { y with st := .running, pc := 0x00FFFF0000000000#64, block := none }

/-- The doorbell of conductor `n`; one that restarts while a word of its memories cannot be corrected halts again (R380, R383). -/
def bellOf (n : Nat) (s : State) : State :=
  let s1 := s.updCond n ringBell
  if s.err.badCond.any fun w => w.1 == n then condMemFault n s1 else s1

/-- DBELL (R296, R373). -/
def execDbell (v : Word) (s : State) : Out :=
  if hostReady s then .next ((setBits 16 v.toNat).foldl (fun t n => bellOf n t) s) else .next s

/-- ERRCLR (R386). -/
def execErrclr (v : Word) (s : State) : Out :=
  if hostReady s then
    let keep (q : Nat × Nat) : Bool := !(decide (q.1 ≤ 28) && bit v.toNat q.1)
    .next { s with err := { s.err with ce := s.err.ce.filter keep, ue := s.err.ue.filter keep } }
  else .next s

/-! ## BAR2 (R372) -/

/-- The pieces of an access of `size` bytes at an offset of the window, one for each aligned 8-byte word: physical address, length, place in
the access. An access outside the window has none. -/
def windowPieces (s : State) (off size : Nat) : List (Nat × Nat × Nat) :=
  if 8 < size ∨ 2 ^ 32 < off + size then []
  else
    let n := min size (8 - off % 8)
    let pa := s.host.winbase.toNat + off
    if n < size then [(pa, n, 0), (pa + n, size - n, n)] else if size = 0 then [] else [(pa, size, 0)]

/-- One word of a write through the window, under key slot 0: absent and reserved addresses ignore it, and it is dropped where it would
cover bad data in part (R384). -/
def windowWrite (v : Word) (p : Nat × Nat × Nat) (s : State) : State :=
  let (pa, n, i) := p
  if !hbmOk s pa n then s
  else
    match s.badPart pa n with
    | some c => errorNoted 0 1 c (BitVec.ofNat 64 pa) allOnes s
    | none => s.memWrite 0 pa n (v.toNat / 256 ^ i % 256 ^ n) 0

/-- HOST_WINDOW_WRITE: an access of up to 8 bytes; one of more bytes is several, atomic word by word (R250). -/
def execHostWindowWrite (q : HostAt) (v : Word) (s : State) : Out :=
  if hostReady s then .next ((windowPieces s q.off q.size).foldl (fun t p => windowWrite v p t) s) else .next s

/-- One word of a read through the window: all ones where memory is absent or reserved. What a read of bad data returns the manual does not
say, but that it is not the data (R383). DESIGN CHOICE, log entry 4. -/
def windowRead (s : State) (p : Nat × Nat × Nat) : Nat :=
  let (pa, n, _) := p
  if !hbmOk s pa n then 256 ^ n - 1
  else if (s.badAt pa n).isSome then leNat ((List.range n).map fun i => Config.freeByte s.free (pa % 8 + i))
  else s.memRead pa n 0

/-- HOST_WINDOW_READ. DEDUCED, log entry 35. -/
def execHostWindowRead (q : HostAt) (s : State) : Out :=
  if hostReady s then .next (readReturns ((windowPieces s q.off q.size).foldl (fun v p => v + windowRead s p * 256 ^ p.2.2) 0) s) else .next s

/-! ## BAR4 (R372) -/

/-- The conductor and the offset in its memories that an access of BAR4 names: instruction memory, then data memory. -/
def bar4Place (off size : Nat) : Option (Nat × Nat) :=
  if !alignedWord off size then none
  else if off < 0x1000000 then some (off / 0x100000, off % 0x100000)
  else if off < 0x1400000 then some ((off - 0x1000000) / 0x40000, 0x100000 + off % 0x40000)
  else none

/-- BAR4_WRITE: instruction memory only while its conductor does not run. -/
def execBar4Write (q : HostAt) (v : Word) (s : State) : Out :=
  match bar4Place q.off q.size with
  | some (n, o) =>
    if !hostReady s || (decide (o < 0x100000) && (s.condOf n).st == .running) then .next s
    else .next (condWrite n o 8 v.toNat s)
  | none => .next s

/-- BAR4_READ: a word that cannot be corrected is not read as it stands (R383). DESIGN CHOICE, log entry 4. -/
def execBar4Read (q : HostAt) (s : State) : Out :=
  if !hostReady s then .next s
  else
    .next (readReturns (match bar4Place q.off q.size with
      | some (n, o) =>
        if s.err.badCond.contains (n, o) then leNat ((List.range 8).map fun i => Config.freeByte s.free i) else condRead s n o 8
      | none => 0) s)

/-! ## Events (R378, R379) -/

/-- The 64 bytes of an event record (R378). -/
def EvRec.bytes (r : EvRec) : Nat :=
  let e := r.ev
  layout [ (8, r.dseq.toNat), (4, e.sseq), (2, r.src), (2, e.kind), (8, e.time.toNat), (8, e.hseq.toNat)
         , (8, e.d0.toNat), (8, e.d1.toNat), (8, e.d2.toNat), (8, e.d3.toNat) ]

/-- EVENT_RECORD_WRITE: the next event of a source goes into the ring in host memory, if there is room, with the next DSEQ.
DEDUCED, log entry 35. -/
def execEventRecordWrite (src : Nat) (s : State) : Out :=
  let e := Tab.get {} src s.host.sources
  let h := s.host
  if !s.powered || !h.go || h.evtail - h.evhead == h.evsize then .next s
  else
    match e.held with
    | [] => .next s
    | v :: t =>
      let d := h.dseqlast + 1
      .next { s with host := { h with
        hmem := Memory.writeN h.hmem (ringEntry h.evbase h.evsize h.evtail) 64 (EvRec.bytes ⟨d, src, v⟩)
        dseqlast := d, evtail := h.evtail + 1
        sources := Tab.set src { e with held := t } h.sources } }

/-! ## SPDM (R401 to R403) -/

/-- The SPDM session of a channel: 0 the host's DOE mailbox, n + 1 the management channel of facet port n (R401). -/
def spdmOf (s : State) (chan : Nat) : SpdmSt := Tab.get .start chan s.sec.spdm
def setSpdm (chan : Nat) (p : SpdmSt) (s : State) : State := { s with sec := { s.sec with spdm := Tab.set chan p s.sec.spdm } }

/-- The session is secured, and its requester has authenticated itself by a certificate of the owner root (R403). -/
def authorised (s : State) (chan : Nat) : Bool := spdmOf s chan == .secured true

/-- An SPDM answer of the hub, by what it answers: 0 a KEYSET's status, 1 to 4 a measurement, 5 the DeviceID certificate chain, 6 a key
exchange, 7 an error, 8 the alias certificate, 9 what a request that asks for no data has settled. -/
def answer (l : List (Nat × BitVec 256)) (s : State) : State := { s with sec := { s.sec with answers := l ++ s.sec.answers } }

/-- The status of a KEYSET: the first that applies, in the order of the table (R403; log entry 23). DEDUCED, log entry 23. -/
def keysetStatus (k : KeySetReq) (s : State) : Nat :=
  let x := s.ctxOf (bits k.ctxid 21 16)
  if !featOn s 4 then 1
  else if k.slot % 4096 = 0 then 2
  else if (Tab.get {} (k.slot % 4096) s.sec.slots).ctx.isSome then 3
  else if x.st ≠ .live ∨ x.asid ≠ k.ctxid % 2 ^ 16 ∨ k.ctxid / 2 ^ 22 ≠ 0 then 4
  else if !authorised s k.chan then 5
  else 0

/-- KEYSET (R403): binds a key slot to a context; answer 0 of the SPDM answers holds the status. -/
def execKeyset (k : KeySetReq) (s : State) : Out :=
  if !hostReady s then .next s
  else
    let st := keysetStatus k s
    let s1 := answer [(0, BitVec.ofNat 256 st)] s
    if st = 0 then
      .next { s1 with sec := { s1.sec with
        slots := Tab.set (k.slot % 4096) { ctx := some (bits k.ctxid 21 16), dataKey := k.dataKey, tweakKey := k.tweakKey } s1.sec.slots } }
    else .next s1

/-- The measurements (R401): the ROM's digest, which the manual does not give; the payload digest of the booted image; the fuse SVN and the
digest of the owner root; FEATA0 and the fence map, the cells of R386 and then the dies. DESIGN CHOICE, log entry 6. -/
def measurement (s : State) (n : Nat) : List (BitVec 256) :=
  match n with
  | 1 => [Config.derive 1 0]
  | 2 => [s.sec.payloadDigest]
  | 3 => [BitVec.ofNat 256 s.sec.svn, s.sec.ownerRoot]
  | 4 => [BitVec.ofNat 256 (Tab.get 0 0 s.host.feata).toNat, BitVec.ofNat 256 s.err.fencedCells, BitVec.ofNat 256 s.err.fencedDies]
  | _ => []

/-- The DeviceID public key, of SHA-256 of UDS alone, which no change of firmware moves (R400). DESIGN CHOICE, log entry 6. -/
def deviceKey (s : State) : BitVec 256 := Config.derive 8 (sha256 (leBytes 32 s.sec.uds.toNat)).toNat

/-- The certificate by which DeviceID certifies the alias key of this boot (R400). DESIGN CHOICE, log entry 6. -/
def aliasCert (s : State) : BitVec 256 := Config.derive 10 ((deviceKey s).toNat + 2 ^ 256 * s.sec.diceKey.toNat)

/-- The algorithms of R401, as a request offers them: all four. -/
def spdmAlgorithms : Nat := 0xF

/-- A request that comes before what must precede it, or that asks for what is not there, is answered by an error. -/
def spdmError (s : State) : State := answer [(7, 0)] s

/-- What the hub answers to an SPDM request on a channel, and what becomes of the channel's session (R401, R403). PRESUMED, log entry 67.
DESIGN CHOICE, log entry 6. -/
def spdmStep (chan : Nat) (q : SpdmReq) (s : State) : State :=
  let p := spdmOf s chan
  let settled : Bool := match p with | .negotiated => true | .exchanged => true | .secured _ => true | _ => false
  match q with
  | .getVersion => answer [(9, 0x13)] (setSpdm chan .versioned s)
  | .getCapabilities => if p = .versioned then answer [(9, 0)] (setSpdm chan .capable s) else spdmError s
  | .negotiateAlgorithms offers =>
    if p = .capable ∧ offers % 16 = spdmAlgorithms then answer [(9, BitVec.ofNat 256 spdmAlgorithms)] (setSpdm chan .negotiated s) else spdmError s
  | .getCertificate slot => if settled ∧ slot = 0 then answer [(8, aliasCert s), (5, s.sec.chain)] s else spdmError s
  | .getMeasurement n => if settled ∧ 1 ≤ n ∧ n ≤ 4 then answer ((measurement s n).reverse.map fun v => (n, v)) s else spdmError s
  | .keyExchange => if p = .negotiated then answer [(6, Config.derive 6 s.free)] (setSpdm chan .exchanged s) else spdmError s
  | .finish chain =>
    if p = .exchanged then
      let auth := match chain with | some c => Config.chainRoot c == some s.sec.ownerRoot | none => false
      answer [(9, 0)] (setSpdm chan (.secured auth) s)
    else spdmError s
  | .endSession => match p with
    | .secured _ => answer [(9, 0)] (setSpdm chan .negotiated s)
    | _ => spdmError s

/-- SPDM_REQUEST (R401). PRESUMED, log entry 67. -/
def execSpdmRequest (m : SpdmMsg) (s : State) : Out :=
  if hostReady s then .next (spdmStep m.chan m.req s) else .next s

end Sys2Proof.Machine
end

