-- ==== Sys2Proof/Machine/SaveArea.lean ====
section
/-! DEFINITION. Save areas (R307 to R311): what of a task a block holds and where, the Lens images, the cell blocks; and reading
them back for RESTORE (R312). The packing of replay entries, copy commands, slate pushes and the image's tag, of which the
manual gives the content and not the places, is the model's own. -/

namespace Sys2Proof.Machine

open Sys2Proof

/-! ## What may be saved -/

/-- Whether a command binds an entry whose allocation is parked with the slot (R222). -/
def awaitsAlloc (x : Cell) (k : Nat) (o : LensOp) : Bool :=
  o.cmd.binds.any fun e => x.ops.any fun p => p.slot == k && p.st == .parked && match p.cmd with
    | .alloc i _ _ _ _ _ _ => i == e
    | _ => false

/-- Whether a TFILL waits for Lens state that no engine is bringing about: granules that a producer fills, or a version that has not been
published. -/
def fillWaits (s : State) (c eid : Nat) : Bool :=
  match (s.cell c).entry eid with
  | some e => e.st == .producing || (e.st == .filling && e.src == .waiting && !e.resolved && match e.want with
    | some n => !verGe (verRec s e.key).pub n
    | none => false)
  | none => false

/-- Whether a command of a frozen task stays where it is, no engine performing it (R222): it is parked or binds an entry whose allocation
is; a fault has stopped it; or it waits for what only the task brings about, for the order behind a queued copy or a parked gather of its
own strand, or for an entry to be unbound. DEDUCED, log entry 27. -/
def opWaits (s : State) (c k : Nat) (o : LensOp) : Bool :=
  let x := s.cell c
  o.st == .parked || o.reported || awaitsAlloc x k o || (o.cmd.binds.any fun e => fillStopped x e) || match o.cmd with
    | .fill e => fillWaits s c e
    | .drain _ _ => !earlierDone s c o
    | .tpost _ _ _ => !earlierDone s c o
    | .tgth _ _ => !mayPerform s (rowAcc s c o .load)
    | .tsct _ _ => !mayPerform s (rowAcc s c o .store)
    | .tinv _ => true
    | _ => false

/-- A copy command that the engine has begun and that has not stopped completes first (R222). -/
def copyRuns (q : CopyCmd) : Bool := q.begun && !q.stopped

/-- Engines have completed what they had begun for a frozen task, and its accesses have performed (R222, R306).
DEDUCED, log entry 27. -/
def savable (s : State) (c k : Nat) : Bool :=
  let x := s.cell c
  let mine (a : Agent) : Bool := match a with | .strand c' k' _ => c' == c && k' == k | _ => false
  (s.slot c k).st == .frozen && (s.slot c k).parkSeq.isNone
    && s.accs.all (fun a => a.orphan || !mine a.agent) && s.reports.all (fun r => !mine r.agent)
    && s.late.all (fun q => q.orphan || !mine q.agent)
    && x.ops.all (fun o => o.slot != k || opWaits s c k o)
    && x.rows.all (fun o => o.slot != k) && x.wr.all (fun w => w.slot != k)
    && x.copyq.all fun q => q.orphan || !(mine q.agent && copyRuns q)

/-! ## The strand block (R310) -/

/-- A signal byte's [7:3] for the pushes of an instruction: destinations and token code (R24). -/
def pushForm (x : Kind) (ps : List Push) : Nat :=
  let dst := ((others x).zip [128, 64, 32]).foldl (fun v (y, b) => if ps.any fun p => p.dst == y then v + b else v) 0
  match ps with
  | [] => 0
  | p :: _ => dst + Nat.log2 p.m * 8

/-- How many clk after the restart a held push of a task falls due; none for a push that goes with a replay entry or a copy command, whose
numbers are `own`, and for one that is never made. One that is due and that R22 holds behind earlier work falls due at the restart. -/
def Push.heldFor (own : List Nat) (p : Push) : Option Nat :=
  match p.due with
  | .rel r => some r
  | .perform q => if own.contains q then none else some 0
  | .consumed q => if own.contains q then none else some 0
  | .lost => none
  | _ => some 0

/-- The instructions of a strand whose pushes fall due a number of clk after the restart: issue number and count. -/
def heldPushes (y : Slot) (own : List Nat) (x : Kind) : List (Nat × Nat) :=
  (y.pushes.filterMap fun p => if p.src = x then (p.heldFor own).map fun r => (p.seq, r) else none).eraseDups

/-- The slate as saved: its entries in issue order, each with the push that falls due with it; a push that no entry carries
goes with an entry that writes nothing. -/
def slateRows (y : Slot) (own : List Nat) (x : Kind) : List (SlateEntry × Nat) :=
  let es := (y.strand x).slate
  let form (q r : Nat) : Nat := pushForm x (y.pushes.filter fun p => p.src == x && p.seq == q && p.heldFor own == some r)
  let carried (q r : Nat) : Bool := es.any fun e => e.seq == q && e.r == r
  let firstOf (i : Nat) (e : SlateEntry) : Bool := !(es.take i).any fun f => f.seq == e.seq && f.r == e.r
  ((es.zip (List.range es.length)).map fun (e, i) => (e, if firstOf i e then form e.seq e.r else 0)) ++
    ((heldPushes y own x).filter fun (q, r) => !carried q r).map fun (q, r) =>
      ({ seq := q, engine := false, off := 0, len := 8, mask := 0, val := 0, r := r }, form q r)

/-- The held pushes of a strand that find no place among the 32 entries of its slate. -/
def slateRest (y : Slot) (own : List Nat) (x : Kind) : List Push :=
  let out := (slateRows y own x).drop 32
  y.pushes.filterMap fun p => match p.heldFor own with
    | some r => if p.src = x ∧ (out.any fun q => q.1.mask == 0 && q.1.seq == p.seq && q.1.r == r) = true then some { p with due := .rel r } else none
    | none => none

/-- Write consecutive numbers of given sizes. -/
def putNums (m : Memory) (o : Nat) : List (Nat × Nat) → Memory
  | [] => m
  | (n, v) :: t => putNums (Memory.writeN m o n v) (o + n) t

/-- A strand block at offset `b`. -/
def putStrand (y : Slot) (own : List Nat) (x : Kind) (b : Nat) (m : Memory) : Memory :=
  let z := y.strand x
  let ks (n : Nat) : Nat := if x = .S then 0 else (Tab.get 0 n z.ks).toNat
  let m1 := putNums m b
    ([(8, z.pc.toNat), (8, z.rotv.toNat), (8, z.qpred.toNat), (8, z.nbt.toNat), (8, z.lpctl.toNat), (8, z.lpidx.toNat)
     , (8, z.repst.toNat), (1, z.barsel), (1, z.defsel), (6, 0)]
      ++ (List.range 4).map (fun n => (8, (Tab.get 0 n z.k).toNat)) ++ (List.range 4).map fun n => (8, ks n))
  let m2 := putNums m1 (b + 0x80) ((others x).flatMap fun d => [(1, (y.queue x d).cnt), (1, (y.queue x d).res)])
  let rows := (slateRows y own x).take 32
  let m3 := Memory.writeN m2 (b + 0x88) 1 rows.length
  (rows.zip (List.range rows.length)).foldl (fun m ((e, f), i) =>
    putNums m (b + 0x100 + 280 * i) [(4, e.off), (2, e.len), (1, f), (1, 0), (4, e.r), (4, 0), (8, e.mask), (256, e.val)]) m3

/-! ## Replay entries and copy commands (R308) -/

/-- The number of a command's kind in its replay entry; of an instruction with several commands, the one with the highest stands for it.
A part that only allocates for another command has none. -/
def LensCmd.code : LensCmd → Option Nat
  | .fill _ => some 0
  | .alloc _ _ _ produce _ _ _ => if produce then some 1 else none
  | .drain _ _ => some 2
  | .tgth _ _ => some 3
  | .tsct _ _ => some 4
  | .tld _ _ _ _ => some 5
  | .tst _ _ _ => some 6
  | .adrn _ _ _ _ _ _ _ => some 7
  | .mma _ => some 8
  | .tpost _ _ _ => some 9
  | .tqrel _ _ _ => some 10
  | .tinv _ => some 11

/-- The coordinates of an entry, and its descriptor. -/
def coordOf (x : Cell) (eid : Nat) : Nat := match x.entry eid with | some e => e.coord.toNat | none => 0
def descOf (x : Cell) (eid : Nat) : BitVec 512 := match x.entry eid with | some e => e.desc | none => 0

/-- Version argument or offset, shape, accumulators of a command: two coordinate words or one and an argument, shape, D, B. -/
def replayArgs (x : Cell) (o : LensCmd) : Nat × Nat × Nat × Nat × Nat :=
  match o with
  | .mma m => (coordOf x m.eidA, coordOf x m.eidB, m.m + m.n * 2 ^ 16 + m.klen * 2 ^ 32 + m.koff * 2 ^ 48, m.accD, m.accB)
  | .adrn e src m n _ _ _ => (coordOf x e, 0, m + n * 2 ^ 16, 0, src)
  | .tst e off _ => (coordOf x e, off, 0, 0, 0)
  | .tld e off _ _ => (coordOf x e, off, 0, 0, 0)
  | .fill e => (coordOf x e, (match x.entry e with | some e => (match e.want with | some n => n + 1 | none => 0) | none => 0), 0, 0, 0)
  | .alloc _ t _ _ _ v _ => (t.coord.toNat, v, 0, 0, 0)
  | .tsct e _ => (coordOf x e, 0, 0, 0, 0)
  | .tgth e _ => (coordOf x e, 0, 0, 0, 0)
  | .drain e _ => (coordOf x e, 0, 0, 0, 0)
  | .tpost t _ v => (t.coord.toNat, v, 0, 0, 0)
  | .tqrel t _ v => (t.coord.toNat, v, 0, 0, 0)
  | .tinv e => (coordOf x e, 0, 0, 0, 0)

/-- The descriptors of a command's operands. -/
def replayDescs (x : Cell) (o : LensCmd) : List (BitVec 512) :=
  match o with
  | .tpost _ d _ => [d]
  | .tqrel _ d _ => [d]
  | .alloc _ _ d _ _ _ _ => [d]
  | .tinv e => [descOf x e]
  | o => o.binds.map (descOf x)

/-- The instructions of a slot that wait in the replay queue, in order, each with the command that stands for it: a TFILLM is two, its
fill and the matrix operation. -/
def replayList (x : Cell) (k : Nat) : List LensOp :=
  let mine := x.ops.filter fun o => o.slot == k && o.cmd.code.isSome
  mine.filter fun o => !mine.any fun p => p.seq == o.seq && decide (o.cmd.code.getD 0 < p.cmd.code.getD 0)

/-- Whether a push falls due when operands are consumed. -/
def Push.isConsumed (p : Push) : Bool := match p.due with | .consumed _ => true | _ => false

/-- A replay entry at offset `b`. -/
def putReplay (x : Cell) (y : Slot) (o : LensOp) (b : Nat) (m : Memory) : Memory :=
  let (a1, a2, sh, d, ab) := replayArgs x o.cmd
  let ps := y.pushes.filter fun p => p.seq == o.seq
  let after := match o.cmd with | .mma q => q.after.isSome | _ => false
  putNums m b [(8, o.word.toNat), (8, o.lit.toNat), (8, o.fpc.toNat), (8, a1), (8, a2), (8, sh), (4, d), (4, ab)
    , (1, o.cmd.code.getD 15), (1, kindNo o.k), (1, pushForm o.k ps), (1, if after then 1 else 0)
    , (1, if ps.any Push.isConsumed then 1 else 0), (3, 0)]

/-- The replay entries of a slot beyond the 64 of its block (R308): a command that its engine has begun holds no entry of the replay
queue, so there may be more. DEDUCED, log entry 28. -/
def replayOver (x : Cell) (k : Nat) (y : Slot) : List (BitVec 512) :=
  ((replayList x k).drop 64).map fun o => BitVec.ofNat 512 (Memory.readN (putReplay x y o 0 []) 0 64)

/-- The offset of a destination; all ones for none. -/
def dstOff (d : Dst) : Nat := match d with | .s _ _ _ off => off | .v _ _ off => off | _ => 2 ^ 32 - 1

/-- The copy commands of a task. -/
def copiesOf (x : Cell) (c k : Nat) : List CopyCmd :=
  x.copyq.filter fun q => !q.orphan && match q.agent with | .strand c' k' _ => c' == c && k' == k | _ => false

/-- The numbers of a task's replay entries and copy commands. -/
def ownSeqs (x : Cell) (c k : Nat) : List Nat := (replayList x k).map (·.seq) ++ (copiesOf x c k).map (·.id)

def CopyKind.code : CopyKind → Nat
  | .copy => 0 | .copyFp => 1 | .hash => 2 | .cmp => 3
def CopyKind.ofCode (n : Nat) : CopyKind :=
  match n with | 0 => .copy | 1 => .copyFp | 2 => .hash | _ => .cmp

/-- A copy command at offset `b`. -/
def putCopy (y : Slot) (q : CopyCmd) (b : Nat) (m : Memory) : Memory :=
  let ps := y.pushes.filter fun p => p.seq == q.id
  putNums m b [(8, q.word.toNat), (8, q.a.toNat), (8, q.b.toNat), (8, q.n), (8, dstOff q.dst), (8, q.off), (32, q.sha.toNat), (8, q.off)
    , (8, q.fpc.toNat), (1, q.kind.code), (1, q.cls), (1, q.scope), (1, kindNo (agentKind q.agent)), (1, pushForm (agentKind q.agent) ps)
    , (1, if q.stopped then 1 else 0)]

/-! ## Lens images (R307, R308) -/

/-- The places of a pin list that a save keeps (R307). -/
def keptPins (y : Slot) : Tab Nat := match y.live with
  | some l => y.pins.filter fun (j, _) => bit l j
  | none => y.pins

/-- An entry whose bytes a save holds. -/
def imaged (e : Entry) : Bool := e.st == .producing || e.st == .spilled

/-- The entries that a save writes as images: the kept ones of the pin list, then under MODE 1 the task's others. -/
def imagesOf (x : Cell) (k : Nat) (y : Slot) : List Entry :=
  let pins := (keptPins y).filterMap fun (_, e) => (x.entry e).filter imaged
  match y.live with
  | some _ => pins
  | none => pins ++ x.lens.filter fun e => e.ownedBy k y && !y.pins.any fun (_, p) => p == e.id

/-- Bytes of an image: header page, tile, scales, each a multiple of 4 KiB (R308). -/
def imageLen (d : Desc) : Nat := 4096 + d.tileBytes + ceilDiv d.scaleBytes 4096 * 4096

/-- The header page of an image: tag (coordinates, TID, version), state, the full bits, data granules first, and from 0x400
the descriptor. -/
def imageHeader (e : Entry) : List Byte :=
  let n := e.d.tileBytes / 16
  let m := putNums [] 0 [(8, e.coord.toNat), (2, e.tid), (3, e.ver), (3, 0), (1, if e.st == .spilled then 2 else 1)
    , (1, if e.cur then 1 else 0), (1, if e.lastUse then 1 else 0)]
  let m := Memory.writeN m 0x40 (ceilDiv (n + e.d.scaleBytes / 16) 8) (e.full + 2 ^ n * e.sfull)
  Memory.readL (Memory.writeN m 0x400 64 e.desc.toNat) 0 4096

/-- The bytes of an entry: from its frames, or from memory while it is SPILLED (R237). -/
def imageBytes (c : Nat) (e : Entry) (s : State) : Except (Nat × Word) (List Byte × List Byte) × State :=
  let get (n : Nat) (m : Memory) : List Byte := Memory.readL m 0 n
  if e.st == .spilled then
    let r := (granulesOf e.d).foldl (fun (a : Except (Nat × Nat × Word) (Memory × Memory) × State) g =>
      match a with
      | (.ok (d, q), s) =>
        match readGranuleMem (spillBy c e s) e.d e.coord g s with
        | (.ok v, s) =>
          (.ok (if g < scaleG then (Memory.writeN d (16 * g) 16 v, q) else (d, Memory.writeN q (16 * (g - scaleG)) 16 v)), s)
        | (.error x, s) => (.error x, s)
      | r => r) (.ok ([], []), s)
    match r with
    | (.ok (d, q), s) => (.ok (get e.d.tileBytes d, get e.d.scaleBytes q), s)
    | (.error (cause, l, _), s) => (.error (causeCode cause, causeWord cause l 4), s)
  else (.ok (get e.d.tileBytes e.data, get e.d.scaleBytes e.scale), s)

/-- The pieces of a list of images from offset `o`: offset and bytes. -/
def imageChunks (c : Nat) : List Entry → Nat → State → Except (Nat × Word) (List (Nat × List Byte)) × State
  | [], _, s => (.ok [], s)
  | e :: es, o, s =>
    match imageBytes c e s with
    | (.error x, s) => (.error x, s)
    | (.ok (d, q), s) =>
      match imageChunks c es (o + imageLen e.d) s with
      | (.ok l, s) => (.ok ((o, imageHeader e) :: (o + 4096, d) :: (o + 4096 + e.d.tileBytes, q) :: l), s)
      | r => r

/-! ## Task blocks (R307 to R309) -/

/-- Bytes of a task's block without its images. -/
def imageBase (y : Slot) : Nat := 0x16000 + 0x10000 * acnt y

/-- LIVE and MODE (R309). -/
def liveOf (y : Slot) : Nat := y.live.getD 0x0FFFFFFF
/-- Frozen by a fault (STATE of R309). -/
def faultFrozen (y : Slot) : Bool := y.frozenBy == some .fault

/-- The header, the registers and the tables of a block: its fixed part. -/
def blockFixed (x : Cell) (c k : Nat) (y : Slot) (nimg blen : Nat) : Memory :=
  let rs := (replayList x k).take 64
  let cs := copiesOf x c k
  let hv := ofBits (y.h.map (·.1))
  let kept := keptPins y
  let m := putNums [] 0
    [ (8, y.taskId), (8, y.recAddr.toNat), (1, c), (1, k), (1, if faultFrozen y then 1 else 0), (1, if y.live.isSome then 0 else 1)
    , (4, liveOf y), (8, y.sview.toNat), (8, y.vview.toNat), (8, y.aview.toNat), (2, hv)
    , (1, kept.length), (1, rs.length), (1, cs.length), (1, nimg), (2, 0), (8, blen), (8, y.ftime.toNat)
    , (8, if faultFrozen y then (match y.lastFault with | some f => f.seq | none => 0) else 0) ]
  let m := putNums m 0x80 ((List.range 16).map fun n => (8, (y.creg n).toNat))
  let m := putNums m 0x100 ((List.range 32).map fun n => (4, (Tab.get 0 n y.arrg).toNat))
  let m := putNums m 0x180 ((List.range 16).map fun n => (1, Tab.get 0 n y.p))
  let m := kept.foldl (fun m (j, e) => match x.entry e with
    | some e => putNums m (0x300 + 16 * j) [(2, e.tid), (1, 0), (3, e.ver), (8, e.coord.toNat)]
    | none => m) m
  let m := y.h.foldl (fun m (n, d) => Memory.writeN m (0x400 + 64 * n) 64 d.toNat) m
  let m := kinds4.foldl (fun m q => putStrand y (ownSeqs x c k) q (0x800 + 0x2400 * kindNo q) m) m
  let m := (rs.zip (List.range rs.length)).foldl (fun m (o, i) => putReplay x y o (0x9800 + 64 * i) m) m
  (cs.zip (List.range cs.length)).foldl (fun m (q, i) => putCopy y q (0xA800 + 128 * i) m) m

/-- A range of a cell's register space. -/
def regBytes (x : Cell) (o n : Nat) : List Byte := Memory.readL x.regs o n

/-- Offset and length of a strand's rotating region; length 0 without one. -/
def rotRange (y : Slot) (q : Kind) : Nat × Nat :=
  let r := (y.strand q).rotv
  if rotKind r = 0 then (0, 0) else (rotBase r, rotSize r * (if rotKind r = 1 then 8 else 256))

/-- Offsets of a task's views. -/
def sBase (y : Slot) : Nat := bits y.sview.toNat 21 9 * 512
def vBase (y : Slot) : Nat := bits y.vview.toNat 21 8 * 256
def aBase (y : Slot) : Nat := bits y.aview.toNat 21 16 * 65536

/-- Vector groups and physical accumulators that a live mask keeps. -/
def liveGroups (y : Slot) : List Nat := (List.range 4).filter fun j => bit (liveOf y) (24 + j)
def liveAccs (y : Slot) : List Nat := match y.live with
  | some l => (List.range (acnt y)).filter fun p => (List.range 8).any fun j => bit l (16 + j) && amap y j == p
  | none => List.range (acnt y)

/-- The register-space pieces of a block. -/
def blockRegs (x : Cell) (y : Slot) : List (Nat × List Byte) :=
  [(0xB000, regBytes x (sBase y) 512)]
    ++ (liveGroups y).map (fun j => (0xC000 + 0x800 * j, regBytes x (vBase y + 0x800 * j) 2048))
    ++ kinds4.map (fun q => (0xE000 + 0x2000 * kindNo q, regBytes x (rotRange y q).1 (rotRange y q).2))
    ++ (liveAccs y).map fun j => (0x16000 + 0x10000 * j, regBytes x (aBase y + 0x10000 * j) 0x10000)

/-- Length of a task's block (BLEN). -/
def blockLen (x : Cell) (k : Nat) (y : Slot) : Nat := imageBase y + ((imagesOf x k y).map fun e => imageLen e.d).sum

/-- A task's block: its pieces, or the refusal of a spilled entry's read. DEDUCED, log entry 28. -/
def taskBlock (c k : Nat) (s : State) : Except (Nat × Word) (List (Nat × List Byte)) × State :=
  let x := s.cell c
  let y := x.slot k
  let imgs := imagesOf x k y
  match imageChunks c imgs (imageBase y) s with
  | (.error e, s) => (.error e, s)
  | (.ok l, s) =>
    (.ok ((0, Memory.readL (blockFixed x c k y imgs.length (blockLen x k y)) 0 0xB000) :: blockRegs x y ++ l), s)

/-- Write pieces at an address of a context for the queue engine. -/
def hubPut (ctx : Nat) (task : Bool) (base : Word) : List (Nat × List Byte) → State → Except (Nat × Word) State × State
  | [], s => (.ok s, s)
  | (o, l) :: t, s =>
    match hubWriteRuns ctx task (pageRuns (base + BitVec.ofNat 64 o) l.length) l s with
    | (.ok s, _) => hubPut ctx task base t s
    | (.error e, s) => (.error e, s)

/-- What the scheduling hardware keeps of a saved task. DEDUCED, log entry 28. -/
def savedOf (c k : Nat) (x : Cell) (y : Slot) : SavedTask :=
  let own := ownSeqs x c k
  { cell := c, slot := k, pos := y.pos, recAddr := y.recAddr, recId := y.recId, launch := y.launch, prio := y.prio, lock := y.lock
    round := y.round, sweep := y.sweep, stage := y.stage, ended := kinds4.filter fun q => (y.strand q).ended
    lastFault := if faultFrozen y then y.lastFault else none
    pins := (keptPins y).filterMap fun (j, e) => (x.entry e).map fun e => (j, e.desc)
    rows := kinds4.map fun q => (kindNo q, (slateRows y own q).map fun (e, _) => (e.seq, e.engine))
    more := kinds4.flatMap (slateRest y own)
    ops := (replayList x k).map fun o => (o, replayDescs x o.cmd)
    excess := replayOver x k y
    units := kinds4.filterMap fun q =>
      let z := y.strand q
      if z.divFree = 0 ∧ z.fdivFree = 0 then none else some (kindNo q, (z.divFree, z.fdivFree))
    copies := (copiesOf x c k).map (·.id) }

/-- Take back the grant of a drain that cannot go on while its task is saved (R186, R222): its tile's home may grant another, and its entry
is PRODUCING again. DEDUCED, log entry 27. -/
def ungrant (c k : Nat) (s : State) : State :=
  (s.cell c).ops.foldl (fun t o =>
    match o.cmd, (s.cell c).entry (o.cmd.binds.headD 0) with
    | .drain eid _, some e =>
      if o.slot == k && o.st == .granted then
        updEntry c eid (fun e => { e with st := if e.st == .draining then .producing else e.st })
          (updVer e.key (verRec t e.key).stack (fun r => { r with draining := false }) (updOp c o.seq (fun p => { p with st := .active }) t))
      else t
    | _, _ => t) s

/-- A saved task leaves its slot: writes that R195 still holds land, its images and its other unpublished entries leave the
Lens, and its record goes on counting it (R283, R306, R307). -/
def leaveSlot (c k : Nat) (s : State) : State :=
  let y := s.slot c k
  let saved := savedOf c k (s.cell c) y
  let held := (s.cell c).lensWr.filter fun w => w.slot == k
  let s1 := held.foldl (fun t w => w.parts.foldl (fun t p => updEntry c w.eid (fun e => e.put p.1 p.2.1 p.2.2) t) t) s
  let imgs := (imagesOf (s1.cell c) k y).map (·.id)
  let s2 := s1.updCell c fun x =>
    { x with
      lensWr := x.lensWr.filter fun w => w.slot != k
      ops := x.ops.filter fun o => o.slot != k || match o.cmd with | .alloc _ _ _ _ _ _ _ => true | _ => false
      copyq := x.copyq.filter fun q => !saved.copies.contains q.id }
  let s3 := imgs.foldl (fun t e => dropEntry c e t) s2
  (clearTask c k s3).updCtx y.ctx fun x => { x with savedTasks := x.savedTasks ++ [saved] }

/-! ## Cell blocks (R311) -/

/-- Bytes of a cell block, a multiple of 4 KiB. -/
def cellBlockLen : Nat := 0x21000

/-- The bytes of a deferral entry. -/
def defBytes (e : DefEntry) : List Byte :=
  [e.v0, e.v1, e.v2, e.v3, e.o].flatMap (fun v => leBytes 4 v.toNat) ++ leBytes 12 0

/-- The entries of a context on a path. -/
def pathEnts (x : Cell) (ctx p : Nat) : List DefEntry :=
  let q := Tab.get {} p x.defq
  if q.ctx = ctx then q.ents else []

/-- A cell block's pieces. -/
def cellBlock (c ctx : Nat) (x : Cell) : List (Nat × List Byte) :=
  (0, leBytes 8 c ++ (List.range 8).flatMap (fun p => leBytes 2 (pathEnts x ctx p).length) ++ leBytes 40 0)
    :: (List.range 8).filterMap fun p =>
      let es := pathEnts x ctx p
      if es.isEmpty then none else some (0x40 + 0x4000 * p, es.flatMap defBytes)

/-- Remove the deferral entries of a context from a cell. -/
def clearPaths (c ctx : Nat) (s : State) : State :=
  s.updCell c fun x => { x with defq := x.defq.map fun (p, q) => (p, if q.ctx = ctx then {} else q) }

/-! ## Area header (R308) -/

/-- The area header. -/
def areaHeader (ctxid : Nat) (time : Word) (len : Nat) (toffs coffs : List Nat) : List Byte :=
  let m := putNums [] 0 [(8, toffs.length), (8, coffs.length), (8, ctxid), (8, time.toNat), (8, len)]
  let m := putNums m 0x40 (toffs.map fun o => (8, o))
  let m := putNums m 0x840 (coffs.map fun o => (8, o))
  Memory.readL m 0 4096

/-- CTXID of a context, in the layout of R212. -/
def ctxidOf (s : State) (ctx : Nat) : Nat := ctx * 2 ^ 16 + (s.ctxOf ctx).asid

/-! ## Reading a block back (R312) -/

/-- `n` bytes at offset `o` of a block. -/
def fieldAt (b o n : Nat) : Nat := b / 256 ^ o % 256 ^ n

/-- The number of entry `i` of a saved slate, and its side of the order of R44: as it was, or by `q0` and its length. -/
def rowOf (rows : List (Nat × Bool)) (q0 len i : Nat) : Nat × Bool := rows.getD i (q0 + 2 * i, decide (256 ≤ len))

/-- A PC of a save area: a multiple of 8 (R17). -/
def pcStored (v : Word) : Word := BitVec.ofNat 64 (v.toNat / 8 * 8)

/-- A strand as its block describes it, its reserved bits 0 (R11, R12) and its PC a multiple of 8 (R17); `rows` and `q0` number its slate
entries, `units` holds for how long its dividers stay taken. -/
def getStrand (b o q0 : Nat) (x : Kind) (ended : Bool) (rows : List (Nat × Bool)) (units : Nat × Nat) : Strand :=
  let w (i : Nat) : Word := BitVec.ofNat 64 (fieldAt b (o + i) 8)
  let n := min 32 (fieldAt b (o + 0x88) 1)
  { pc := pcStored (w 0), ended := ended, rotv := rotvStored (w 0x08), qpred := qpredStored (w 0x10), nbt := w 0x18
    lpctl := lpctlStored (w 0x20), lpidx := lpidxStored (w 0x28), repst := repstStored (w 0x30)
    divFree := units.1, fdivFree := units.2
    barsel := fieldAt b (o + 0x38) 1 % 32, defsel := fieldAt b (o + 0x39) 1 % 8
    k := (List.range 4).map fun i => (i, w (0x40 + 8 * i))
    ks := if x = .S then [] else (List.range 4).map fun i => (i, w (0x60 + 8 * i))
    slate := ((List.range n).filterMap fun i =>
      let e := o + 0x100 + 280 * i
      let len := fieldAt b (e + 4) 2
      let (seq, engine) := rowOf rows q0 len i
      if fieldAt b (e + 16) 8 = 0 then none
      else some { seq := seq, engine := engine, off := fieldAt b e 4, len := len, mask := fieldAt b (e + 16) 8
                  val := fieldAt b (e + 24) 256, r := fieldAt b (e + 8) 4 }) }

/-- Pushes of a saved form. -/
def formPushes (x : Kind) (q form : Nat) (due : PushAt) : List Push :=
  ((others x).zip [7, 6, 5]).filterMap fun (y, j) =>
    if bit form j then some { seq := q, src := x, dst := y, m := 2 ^ bits form 4 3, due := due } else none

/-- The pushes of a strand's slate. -/
def slatePushes (b o q0 : Nat) (x : Kind) (rows : List (Nat × Bool)) : List Push :=
  (List.range (min 32 (fieldAt b (o + 0x88) 1))).flatMap fun i =>
    let e := o + 0x100 + 280 * i
    formPushes x (rowOf rows q0 (fieldAt b (e + 4) 2) i).1 (fieldAt b (e + 6) 1) (.rel (fieldAt b (e + 8) 4))

/-- The queues that leave a strand: counts and reservations of 6 bits each (R18, R19). -/
def getQueues (b o : Nat) (x : Kind) : List (Nat × TokQ) :=
  ((others x).zip [0, 1, 2]).map fun (y, j) =>
    (qKey x y, { cnt := fieldAt b (o + 0x80 + 2 * j) 1 % 64, res := fieldAt b (o + 0x81 + 2 * j) 1 % 64 })

/-- How many replay entries a block gives back: its NREPLAY, and where that is all 64, those that it has no room for too (R308). -/
def replayCount (b : Nat) (t : SavedTask) : Nat :=
  if fieldAt b 0x33 1 < 64 then fieldAt b 0x33 1 else 64 + t.excess.length

/-- Replay entry `i` of a saved task, 64 bytes (R308). -/
def replayEntry (b : Nat) (t : SavedTask) (i : Nat) : Nat :=
  if i < 64 then fieldAt b (0x9800 + 64 * i) 64 else (t.excess.getD (i - 64) 0).toNat

/-- The commands that a block gives back, each with its replay entry. -/
def replayBack (b : Nat) (t : SavedTask) : List ((LensOp × List (BitVec 512)) × Nat) :=
  t.ops.zip ((List.range (replayCount b t)).map (replayEntry b t))

/-- A strand kind by its number. -/
def kindOfNo (n : Nat) : Kind := match n with | 0 => .S | 1 => .A | 2 => .X | _ => .W

/-- Offset of a strand's block. -/
def strandAt (q : Kind) : Nat := 0x800 + 0x2400 * kindNo q

/-- An a view with its reserved bits 0 (R12, R36). -/
def aviewStored (v : Word) : Word :=
  BitVec.ofNat 64 (bits v.toNat 63 40 * 2 ^ 40 + bits v.toNat 27 24 * 2 ^ 24 + bits v.toNat 21 16 * 2 ^ 16)

/-- The slot that a block describes, FROZEN; its work keeps its numbers, and what has none is numbered from `q0`. -/
def getSlot (b q0 ctx n : Nat) (t : SavedTask) : Slot :=
  let w (i : Nat) : Word := BitVec.ofNat 64 (fieldAt b i 8)
  let hv := fieldAt b 0x30 2
  let rows (q : Kind) : List (Nat × Bool) := Tab.get [] (kindNo q) t.rows
  let st (q : Kind) : Strand :=
    getStrand b (strandAt q) (q0 + 100 * kindNo q) q (t.ended.contains q) (rows q) (Tab.get (0, 0) (kindNo q) t.units)
  let replayPush := (replayBack b t).flatMap fun ((o, _), e) =>
    formPushes o.k o.seq (fieldAt e 0x3A 1) (if fieldAt e 0x3C 1 = 0 then .perform o.seq else .consumed o.seq)
  let copyPush := (t.copies.zip (List.range (min 16 (fieldAt b 0x34 1)))).flatMap fun (q, i) =>
    let e := 0xA800 + 128 * i
    formPushes (kindOfNo (fieldAt b (e + 0x63) 1)) q (fieldAt b (e + 0x64) 1) (.perform q)
  { st := .frozen, ctx := ctx, pos := t.pos, recId := t.recId, recAddr := t.recAddr, launch := t.launch, prio := t.prio, lock := t.lock
    round := t.round, sweep := t.sweep, stage := t.stage
    sview := BitVec.ofNat 64 (bits (fieldAt b 0x18 8) 21 9 * 512), vview := BitVec.ofNat 64 (bits (fieldAt b 0x20 8) 21 8 * 256)
    aview := aviewStored (w 0x28)
    s := st .S, a := st .A, x := st .X, w := st .W
    q := (kinds4.flatMap fun q => getQueues b (strandAt q) q).foldl (fun m (i, v) => Tab.set i v m) []
    pushes := (kinds4.flatMap fun q => slatePushes b (strandAt q) (q0 + 100 * kindNo q) q (rows q)) ++ t.more ++ replayPush ++ copyPush
    h := (List.range 16).filterMap fun i => if bit hv i then some (i, BitVec.ofNat 512 (fieldAt b (0x400 + 64 * i) 64)) else none
    c := (List.range 16).map fun i => (i, w (0x80 + 8 * i))
    p := (List.range 16).map fun i => (i, fieldAt b (0x180 + i) 1 % 64)
    arrg := (List.range 32).map fun i => (i, BitVec.ofNat 32 (fieldAt b (0x100 + 4 * i) 4))
    frozenBy := some (if fieldAt b 0x12 1 = 1 then .fault else .forced)
    lastFault := t.lastFault, preBy := some n, ftime := w 0x40 }

/-- The register-space bytes that a block gives back: offset and bytes. What the live mask left out holds unspecified bytes
(R218). DESIGN CHOICE, log entry 4. -/
def getRegs (b free : Nat) (y : Slot) (mode live : Nat) : List (Nat × List Byte) :=
  let part (o n : Nat) : List Byte := leBytes n (fieldAt b o n)
  let any (o n : Nat) : List Byte := (List.range n).map fun i => Config.freeByte free (o + i)
  let y := { y with live := if mode = 0 then some live else none }
  [(sBase y, part 0xB000 512)]
    ++ (List.range 4).map (fun j => (vBase y + 0x800 * j, if (liveGroups y).contains j then part (0xC000 + 0x800 * j) 2048 else any (vBase y + 0x800 * j) 2048))
    ++ (List.range (acnt y)).map (fun j => (aBase y + 0x10000 * j,
        if (liveAccs y).contains j then part (0x16000 + 0x10000 * j) 0x10000 else any (aBase y + 0x10000 * j) 0x10000))
    ++ kinds4.map fun q => ((rotRange y q).1, part (0xE000 + 0x2000 * kindNo q) (rotRange y q).2)

/-- The ranges that a saved task's views touch. -/
def savedSpans (y : Slot) : List (Nat × Nat) :=
  [(sBase y, 512), (vBase y, 8192), (aBase y, acnt y * 65536)] ++ kinds4.map (rotRange y)

/-! ## Lens images and bindings of a restored task (R312) -/

/-- Put an image back: an entry PRODUCING with its bytes and full bits, where there is room, or once there is. -/
def putImage (b o eid c k : Nat) (s : State) : State × Nat :=
  let d : Desc := BitVec.ofNat 512 (fieldAt b (o + 0x400) 64)
  let sl := s.slot c k
  let t : TileKey := ⟨sl.ctx, fieldAt b (o + 8) 2, BitVec.ofNat 64 (fieldAt b o 8)⟩
  let n := d.tileBytes / 16
  let full := fieldAt b (o + 0x40) 0x300
  let s0 := { s with cur := { s.cur with agent := .strand c k .S, seq := eid / 4 } }
  let s1 := allocate c k .S (eid / 4) eid t d true none (fieldAt b (o + 10) 3) s0
  (updEntry c eid (fun e =>
    { e with full := full % 2 ^ n, sfull := full / 2 ^ n % 2 ^ (d.scaleBytes / 16), cur := fieldAt b (o + 0x11) 1 == 1
             lastUse := fieldAt b (o + 0x12) 1 == 1
             data := Memory.writeN [] 0 d.tileBytes (fieldAt b (o + 4096) d.tileBytes)
             scale := Memory.writeN [] 0 d.scaleBytes (fieldAt b (o + 4096 + d.tileBytes) d.scaleBytes) }) s1, imageLen d)

/-- Put `n` images back from offset `o`, numbered from `eid`. -/
def putImages (b c k : Nat) : Nat → Nat → Nat → State → State
  | 0, _, _, s => s
  | n + 1, o, eid, s =>
    let (s1, l) := putImage b o eid c k s
    putImages b c k n (o + l) (eid + 4) s1

/-- Pin an entry at a place of the list. -/
def pinAt (c k j eid : Nat) (s : State) : State := s.updSlot c k fun y => { y with pins := Tab.set j eid y.pins }

/-- Restore place `j` of the pin list: an image's entry, or a fill for at least the saved version. DEDUCED, log entry 28. -/
def putPin (b c k j eid : Nat) (d : Desc) (s : State) : State :=
  let o := 0x300 + 16 * j
  let t : TileKey := ⟨(s.slot c k).ctx, fieldAt b o 2, BitVec.ofNat 64 (fieldAt b (o + 6) 8)⟩
  let v := fieldAt b (o + 3) 3
  match ((s.cell c).current t).filter fun e => e.produced && e.ver == v with
  | some e => pinAt c k j e.id s
  | none =>
    let s0 : State := { s with cur := { s.cur with agent := .strand c k .S, seq := eid / 4 } }
    let (e, s1) := bindOrFill c k .S eid t d (some v) s0
    pinAt c k j e s1

/-- A saved TALLOC has yet to allocate the tile of a pin-list place. -/
def allocatesPin (b j : Nat) (t : SavedTask) : Bool :=
  t.ops.any fun (o, _) => match o.cmd with
    | .alloc _ tile _ _ _ _ _ => tile.tid == fieldAt b (0x300 + 16 * j) 2 && tile.coord.toNat == fieldAt b (0x306 + 16 * j) 8
    | _ => false

/-- Hold a strand until its TLD performs. -/
def holdStrand (c k : Nat) (x : Kind) (q : Nat) (s : State) : State := s.updStrand c k x fun y => { y with block := some q }

/-- A parked instruction that finds no entry to act on when it is bound anew (R186, R193). -/
def bindFails (c k : Nat) (x : Kind) (fpc : Word) (s : State) : State :=
  report { agent := .strand c k x, kind := 1, code := fTileState, fpc := fpc, addr := 0, aux := 0, aux2 := 0 } s

/-- What a replay entry of a block gives its command back (R308): two coordinate words or one and an argument, shape, D and B. -/
structure ReplayArgs where
  co : Word
  arg : Nat
  sh : Nat
  accD : Nat
  accB : Nat
deriving DecidableEq, Repr

/-- The arguments of a replay entry. -/
def getArgs (e : Nat) : ReplayArgs :=
  { co := BitVec.ofNat 64 (fieldAt e 0x18 8), arg := fieldAt e 0x20 8, sh := fieldAt e 0x28 8
    accD := fieldAt e 0x30 4, accB := fieldAt e 0x34 4 }

/-- The entry that the restored fill of a TFILLM has bound, for its matrix operation (R182, R308). -/
def fillBefore (x : Cell) (q : Nat) : Option Nat :=
  (x.ops.find? fun o => o.seq + 1 == q && match o.cmd with | .fill _ => true | _ => false).bind fun o => o.cmd.binds.head?

/-- Bind a command of a restored replay entry anew and let it wait as it did (R176, R312); it keeps its number and the clk of its issue.
`s.cur` holds its word, literal and PC, and a fresh number for what it allocates. DEDUCED, log entry 28. -/
def rebind (c k : Nat) (o : LensOp) (d d' : Desc) (a : ReplayArgs) (s : State) : State :=
  let st := o.k
  let q := o.seq
  let eid := 4 * s.cur.seq
  let t : TileKey := tileKeyOf (s.slot c k) d a.co
  let openE := ((s.cell c).current t).filter (·.open)
  let put (cmd : LensCmd) (cs : CmdSt) (s : State) : State :=
    addOp c { newOp s k st cmd cs with seq := q, issued := o.issued, inst := o.inst, repst := o.repst } s
  let need (f : Entry → State) : State := match openE with | some e => f e | none => bindFails c k st o.fpc s
  match o.cmd with
  | .fill _ =>
    let want := if a.arg = 0 then none else some (a.arg - 1)
    let (e, s1) := match fillMatch s c t want with
      | some e => (e.id, touch c e.id s)
      | none => (eid, allocate c k st q eid t d false want 0 s)
    match (s1.cell c).entry e with
    | some g => if g.fillDone then s1 else put (.fill e) .active s1
    | none => s1
  | .alloc _ _ _ _ _ _ _ => allocate c k st q eid t d true none a.arg s
  | .drain _ hint => need fun e => put (.drain e.id hint) .parked s
  | .tpost _ _ _ => put (.tpost t d a.arg) .active s
  | .tqrel _ _ _ => put (.tqrel t d a.arg) .active s
  | .tinv _ => match (s.cell c).current t with
    | none => s
    | some e => if (s.cell c).bound e.id then put (.tinv e.id) .active s else dropEntry c e.id s
  | .tst _ _ v => need fun e => put (.tst e.id a.arg v) .parked s
  | .tgth _ rows => need fun e => put (.tgth e.id rows) .parked s
  | .tsct _ rows => match (s.cell c).current t with
    | none => bindFails c k st o.fpc s
    | some e => put (.tsct e.id rows) .parked s
  | .tld _ _ dst consume => match operandEntry s c t with
    | some e => holdStrand c k st q (put (.tld e.id a.arg dst consume) .parked s)
    | none => holdStrand c k st q (put (.tld eid a.arg dst consume) .parked (allocate c k st q eid t d false none 0 s))
  | .adrn _ _ _ _ rnd nan asInt => need fun e => put (.adrn e.id a.accB (a.sh % 2 ^ 16) (a.sh / 2 ^ 16 % 2 ^ 16) rnd nan asInt) .parked s
  | .mma m =>
    bindMma c k st q d a.co d' (BitVec.ofNat 64 a.arg)
      { m with accD := a.accD, accB := a.accB, m := a.sh % 2 ^ 16, n := a.sh / 2 ^ 16 % 2 ^ 16, klen := a.sh / 2 ^ 32 % 2 ^ 16
               koff := a.sh / 2 ^ 48 % 2 ^ 16, after := if m.after.isSome then fillBefore (s.cell c) q else none } s

/-- Re-enter a replay entry `e` (R312): the command that the scheduling hardware kept, with what the entry holds; `q` numbers what
it allocates. DEDUCED, log entry 28. -/
def putReplayBack (e c k q : Nat) (o : LensOp × List (BitVec 512)) (s : State) : State :=
  let w (n : Nat) : Word := BitVec.ofNat 64 (fieldAt e n 8)
  let s0 : State := { s with cur := { agent := .strand c k o.1.k, pc := w 0x10, hdr := Hdr.dec (w 0).toNat, word := w 0, lit := w 8
                                      len := wordsOf (opOf (w 0).toNat), seq := q } }
  rebind c k { o.1 with fpc := w 0x10 } (o.2.headD 0) ((o.2.drop 1).headD 0) (getArgs e) s0

/-- A copy command of a block. -/
def getCopy (b c k ctx i q : Nat) : CopyCmd :=
  let e := 0xA800 + 128 * i
  let w (o : Nat) : Nat := fieldAt b (e + o) 8
  let st := kindOfNo (fieldAt b (e + 0x63) 1)
  { id := q, agent := .strand c k st, ctx := ctx, kind := CopyKind.ofCode (fieldAt b (e + 0x60) 1), cls := fieldAt b (e + 0x61) 1
    scope := fieldAt b (e + 0x62) 1, a := BitVec.ofNat 64 (w 8), b := BitVec.ofNat 64 (w 0x10), n := w 0x18
    dst := if w 0x20 = 2 ^ 32 - 1 then .none else .s c k st (w 0x20)
    fpc := BitVec.ofNat 64 (w 0x58), word := BitVec.ofNat 64 (w 0), off := w 0x28, sha := BitVec.ofNat 256 (fieldAt b (e + 0x30) 32)
    stopped := fieldAt b (e + 0x65) 1 == 1 }

/-- The register-space bytes of a restored task as writes of the restoring engine, which land at the end of this clk (R44, R312). -/
def regWrites (k q t : Nat) (l : List (Nat × List Byte)) : List RegWrite :=
  l.map fun (o, bs) =>
    { seq := q, slot := k, k := .S, engine := true, interlock := false, slate := false, due := t, off := o, len := bs.length
      mask := 2 ^ (bs.length / 4) - 1, val := leNat bs }

/-- Put a saved task back into its slot, FROZEN until the whole area is restored (R312 steps 1, 3 and 4). The places of the pin list come
before the replay entries, which may bind their entries, but for those that a replay entry allocates. DEDUCED, log entry 28. -/
def placeTask (b c k ctx n : Nat) (t : SavedTask) (s : State) : State :=
  let q0 := s.seq
  let y := getSlot b q0 ctx n t
  let regs := getRegs b s.free y (fieldAt b 0x13 1) (fieldAt b 0x14 4)
  let copies := (t.copies.zip (List.range (min 16 (fieldAt b 0x34 1)))).map fun (q, i) => getCopy b c k ctx i q
  let cur := s.cur
  let s1 := ({ s with seq := q0 + 4096 }).updCell c fun x =>
    { x.setSlot k y with
      wr := x.wr ++ regWrites k q0 s.clk regs
      copyq := copies ++ x.copyq
      tags := (spanRegions (savedSpans y)).foldl (fun m g => Tab.set g (ctx + 1) m) x.tags }
  let s2 := putImages b c k (fieldAt b 0x35 1) (imageBase y) (4 * (q0 + 1000)) s1
  let pins (late : Bool) (u : State) : State :=
    (t.pins.filter fun (j, _) => allocatesPin b j t == late).foldl (fun u (j, d) => putPin b c k j (4 * (q0 + 1400 + 2 * j)) d u) u
  let s3 := pins false s2
  let back := replayBack b t
  let s4 := pins true <| (back.zip (List.range back.length)).foldl (fun u ((o, e), i) => putReplayBack e c k (q0 + 1500 + 2 * i) o u) s3
  { s4 with cur := cur }.updCtx ctx fun x => { x with savedTasks := x.savedTasks.filter fun q => q != t }

/-- The entries of path `p` in a cell block. -/
def getPath (b p clk : Nat) : List DefEntry :=
  (List.range (fieldAt b (8 + 2 * p) 2)).map fun i =>
    let e := 0x40 + 0x4000 * p + 32 * i
    let v (j : Nat) : BitVec 32 := BitVec.ofNat 32 (fieldAt b (e + 4 * j) 4)
    ⟨v 0, v 1, v 2, v 3, v 4, clk⟩

end Sys2Proof.Machine
end

