-- ==== Sys2Proof/Machine/TimeEvents.lean ====
section
/-! DEFINITION. Group formation and the discipline of Reticle time (R342, R352, R360 to R362, R406). -/

namespace Sys2Proof.Machine

open Sys2Proof

/-- The lowest member of a set, if any. -/
def lowest (m : Nat) : Option Nat := (setBits 64 m).head?

/-- A TIME_STATE event for a change of the discipline state (R362, R378). -/
def setHoldover (h : Bool) (s : State) : State :=
  if s.time.holdover == h then s
  else
    hostEvent 0 0x22 0 (if h then 1 else 2) 0 0 0
      { s with time := { s.time with holdover := h, bad := 0, good := 0 } }

/-- The package is its group's only member: no group has been formed, or one of it alone (R342, R362). -/
def aloneInGroup (s : State) : Bool := s.prism.members == 0 || s.prism.members == 2 ^ s.prism.self

/-- The reference (R361): the lowest live member that is not in holdover, the package's own state and what is known of the others'. -/
def reference (s : State) : Option Nat :=
  (setBits 64 s.prism.live).find? fun m => if m = s.prism.self then !s.time.holdover else !bit s.time.away m

/-- The package is the reference. -/
def isReference (s : State) : Bool := reference s == some s.prism.self

/-- Discipline steers the rate towards the offset by at most 50 ppm (R360, R361): down where the package is ahead of the reference, up where
it is behind; by how much is the part's own affair. DESIGN CHOICE, log entry 5. DEDUCED, log entry 39. -/
def steer (s : State) (theta2 : Int) : Int :=
  let r := Config.freeRate s.free theta2
  if 0 < theta2 then clampI (-50) s.time.rate r else if theta2 < 0 then clampI s.time.rate 50 r else clampI (-50) 50 r

/-- A marker of the reference arrives: the second estimate of the offset compares its arrival with its reading and the two measured legs
(R361). DEDUCED, log entry 39. -/
def glintStamp (mk : Marker) (s : State) : State :=
  if reference s = some mk.holder ∧ mk.holder ≠ s.prism.self then
    let leg (m : Nat) : Int := (Tab.get 0 m s.prism.legs : Nat)
    { s with time := { s.time with
      glint := (s.rt.toNat : Int) - ((mk.reading.toNat : Int) + leg mk.holder + leg s.prism.self) } }
  else s

/-- An exchange of two-way stamps with the reference has completed (R361, R362): `d` is twice the offset. DEDUCED, log entry 39. -/
def exchanged (d : Int) (s : State) : State :=
  let gap := (d - 2 * s.time.glint).natAbs
  let t := s.time
  let bad := if 24 < gap then t.bad + 1 else 0
  let good := if d.natAbs ≤ 16 ∧ gap ≤ 16 then t.good + 1 else 0
  let s1 := { s with time := { t with
    bad := bad, good := good, lastExchange := s.rt, lastRun := s.rt, rate := if t.holdover then t.rate else steer s d } }
  if t.holdover then if 16 ≤ good then setHoldover false s1 else s1
  else if 32 < d.natAbs ∨ 4 ≤ bad then setHoldover true { s1 with time := { s1.time with rate := t.rate } } else s1

/-- TWO_WAY_EXCHANGE (R361, R362): every 250,000 ticks a member that is not the reference exchanges stamps with it; `away` is the set of
members now known to be in holdover. DEDUCED, log entry 39. -/
def execTwoWayExchange (t1 t2 t3 t4 away : Nat) (s : State) : Out :=
  let s := { s with time := { s.time with away := away } }
  if !s.powered || s.mirHold || aloneInGroup s || isReference s || (reference s).isNone
      || decide ((s.rt - s.time.lastRun).toNat < 250000) then .next s
  else .next (exchanged (((t2 : Int) - (t1 : Int)) - ((t4 : Int) - (t3 : Int))) s)

/-- Ticks that the timer of R362 has run since the last exchange: it stops during a Mirror reconfiguration, for at most 50 ms. -/
def exchangeAge (s : State) : Nat :=
  let age := (s.rt - s.time.lastExchange).toNat
  match s.time.pausedAt with
  | some p => age - min (s.rt - p).toNat 200000000
  | none => age

/-- EXCHANGE_TIMEOUT (R362): no exchange has completed for 1 ms. -/
def execExchangeTimeout (s : State) : Out :=
  if s.powered && !s.time.holdover && !aloneInGroup s && !isReference s && decide (4000000 ≤ exchangeAge s) then
    .next (setHoldover true s)
  else .next s

/-- The package's own leg to the splitter, as a formation has measured it (R352). -/
def ownLeg (g : GroupForm) : Nat := ((g.legs.find? fun q => q.1 == g.self).map (·.2)).getD 0

/-- The group key goes to a set of members over their facet sessions (R406). -/
def sendKeys (l : List Nat) (epoch : Nat) (key : BitVec 256) (s : State) : State :=
  l.foldl (fun t m => postPacket (.groupKey m epoch key) t) s

/-- GROUP_FORMATION (R342, R352, R360, R406): the member index is assigned, every counter moves forward to the largest reading, and
the first epoch begins under a new group key, which the lowest member draws and sends to the others; a member whose leg to the splitter is
longer than 1,600 ticks is refused. DEDUCED, log entry 22. -/
def execGroupFormation (g : GroupForm) (s : State) : Out :=
  if !s.powered || decide (64 ≤ g.self) || !bit g.members g.self || decide (1600 < ownLeg g) then .next s
  else
    let rt := if s.rt.toNat < g.reading.toNat then g.reading else s.rt
    let t := s.time
    let low := (lowest g.members).getD g.self
    let p : Prism := { s.prism with
      applied := 0, seen := 0, epoch := 0, live := g.members % 2 ^ 64, self := g.self, air := [], held := []
      members := g.members % 2 ^ 64, legs := g.legs, left := false, counts := [], dataLog := []
      joined := if s.ctxs.any fun (_, x) => x.prismLive then 2 ^ g.self else 0
      sentLog := [], appliedLog := [], recov := [], regen := none, regenSeen := none, marker := (List.range 8).map fun w => (w, rt)
      glint := (List.range 8).map fun w => (w, low), epochs := [], keyEpoch := 0, key := g.key, prevEpoch := 0, prevKey := g.key }
    let s1 := setHoldover false { s with
      connected := g.members % 2 ^ 64, prism := p
      time := { t with rt := rt, lastExchange := rt, lastRun := rt, away := 0, glint := 0, bad := 0, good := 0, pausedAt := none } }
    .next (if low = g.self then sendKeys ((setBits 64 g.members).filter fun m => m != g.self) 0 g.key s1 else s1)

end Sys2Proof.Machine
end

