-- ==== Sys2Proof/Machine/PowerEvents.lean ====
section
/-! DEFINITION. Power (R6, R381, R396 to R400), patrol scrub and repair (R382, R388), throttling (R389, R390), and suspend and resume
(R391 to R395). -/

namespace Sys2Proof.Machine

open Sys2Proof

/-! ## Boot (R396 to R399) -/

/-- A flash bank passes the checks of R398: those of its image, or, for the image of manufacture, the boot ROM's own finding.
DEDUCED, log entry 26. -/
def bankOk (s : State) (p : PowerUp) (b : Nat) : Bool :=
  let f := Tab.get {} b s.sec.banks
  if f.present then (imageCheck s f.image).isNone else if b = 0 then p.ok0 else p.ok1

/-- The bank that boots at a cold start: the pending one first, then the active one, then the other (R396, R399). -/
def bootBank (s : State) (p : PowerUp) : Option Nat :=
  (s.sec.pending.toList ++ [s.sec.active, 1 - s.sec.active]).find? (bankOk s p)

/-- The root of trust's state at a cold start: every key slot is EMPTY, their keys and the suspend key are zeroised, and no SPDM session
stands (R402, R404). -/
def coldSec (s : State) : Sec := { s.sec with slots := [], suspendKey := 0, spdm := [], answers := [] }

/-- The SVN and the payload digest of the image in a bank; of the image of manufacture the manual gives neither.
DESIGN CHOICE, log entry 6. -/
def bankSvn (s : State) (b : Nat) : Nat :=
  let f := Tab.get {} b s.sec.banks
  if f.present then imgField f.image 0x08 4 else (Config.derive 11 b).toNat % 2 ^ 32
def bankDigest (s : State) (b : Nat) : BitVec 256 :=
  let f := Tab.get {} b s.sec.banks
  if f.present then BitVec.ofNat 256 (imgField f.image 0x18 32) else Config.derive 7 b

/-- The root of trust's state after the boot of bank `b` (R399, R400, R404): it is active and its SVN raises the fuse's, keys are zeroised, the
image's digest is measured, and the alias key pair follows from UDS and that digest. DESIGN CHOICE, log entry 6. -/
def bootSec (s : State) (b : Nat) : Sec :=
  { coldSec s with
    active := b, pending := none, svn := max s.sec.svn (bankSvn s b), payloadDigest := bankDigest s b
    diceKey := Config.derive 9 (s.sec.uds.toNat + 2 ^ 256 * (bankDigest s b).toNat) }

/-! ## Repair (R388) -/

/-- Rows in the repair map are repaired; one without a spare is reported. DEDUCED, log entry 34. -/
def repairRows (rows unspared : List Nat) (s : State) : State :=
  rows.foldl (fun t pa => if unspared.contains pa then errorNoted (0x10 + homeDie pa) 3 0x01 (BitVec.ofNat 64 pa) allOnes t else t) s

/-- PATROL_SCRUB (R382, R388): a word is read; an error that was corrected is written back and counted, and 16 of a row within 24
hours put the row into the repair map. DESIGN CHOICE, log entry 5. DEDUCED, log entry 34. -/
def execPatrolScrub (pa : Nat) (corrected : Bool) (s : State) : Out :=
  if !s.powered || !corrected || decide (2 ^ 39 ≤ pa) || bit s.err.fencedDies (homeDie pa) || s.err.badHbm.contains (pa / 32 * 32) then .next s
  else
    let d := homeDie pa
    let r := Config.hbmRow pa
    let l := (r, s.rt) :: s.err.rowCe.filter fun q => decide ((s.rt - q.2).toNat ≤ 86400 * second)
    let again := decide (16 ≤ (l.filter fun q => q.1 == r).length) && !s.err.repairRows.any fun a => Config.hbmRow a == r
    .next (countCorrected (1 + d) (0x10 + d) 0x01 (BitVec.ofNat 64 pa)
      { s with err := { s.err with rowCe := l, repairRows := if again then pa :: s.err.repairRows else s.err.repairRows } })

/-! ## Power-good and power removal (R6, R381) -/

/-- A cold start: nothing of the service span before it remains; memory, caches and queues are zero (R381).
DEDUCED, log entry 34. -/
def coldStart (p : PowerUp) (s : State) : State :=
  let b := bootBank s p
  let t : State := { agenda := s.agenda, seq := s.seq, free := s.free
                     time := { skews := p.skews.zipIdx.map fun (v, i) => (i, v) }
                     err := { fencedCells := p.fencedCells ||| cellsOf p.fencedDies, fencedDies := p.fencedDies }
                     sec := match b with | some b => bootSec s b | none => coldSec s
                     host := { ready := b.isSome } }
  if b.isSome then repairRows s.err.repairRows p.unspared t else t

/-- The suspend area can be read: it was written under the suspend key that the always-on island holds (R404). -/
def areaReadable (s : State) : Bool := s.sec.area == some s.sec.suspendKey

/-- A resume: the saved state is restored, and the Glint rotations restart with the next EPOCH (R394). The skews of the dies' counters are
those of the service span's power-good (R359, R360). DEDUCED, log entry 22. DEDUCED, log entry 33. -/
def resume (p : PowerUp) (s : State) : State :=
  let next (e : Nat) : Nat := (e + 1) % 2 ^ 16
  let low := (lowest s.prism.live).getD s.prism.self
  let s1 := { s with
    powered := true, susp := .restored none none
    host := { s.host with ready := true }
    prism := { s.prism with
      epoch := next s.prism.epoch, keyEpoch := next s.prism.epoch, prevEpoch := next s.prism.epoch, prevKey := s.prism.key
      counts := [], regen := none, regenSeen := none, glint := (List.range 8).map fun w => (w, low)
      epochs := (List.range 8).filterMap fun w => if w = 0 then none else some (w, next (Tab.get 0 w s.prism.epochs))
      marker := (List.range 8).map fun w => (w, s.rt) }
    err := { s.err with repairRows := [] } }
  -- the restore bumps every RDC generation (R255)
  let s1 := s1.ctxs.foldl (fun t (n, _) => rdcBumpAll n t) s1
  let s2 := repairRows s.err.repairRows p.unspared s1
  let s3 := (setBits 8 p.fencedDies).foldl (fun t d => fenceDie d t) ((setBits 128 p.fencedCells).foldl (fun t c => fenceCell 0x09 c t) s2)
  if aloneInGroup s3 then s3 else setHoldover true s3

/-- POWER_GOOD (R381, R394, R396): bring-up to READY, or a resume where the package is in retention. A resume verifies the running image's
bank, then the other; with neither it stays at step 1, READY at 0 and the saved state where it is. DEDUCED, log entry 33. -/
def execPowerGood (p : PowerUp) (s : State) : Out :=
  if s.powered && s.host.ready then .next s
  else if s.susp = .retained then
    if ([s.sec.active, 1 - s.sec.active].any (bankOk s p)) && areaReadable s then .next (resume p s) else .next { s with powered := true }
  else .next (coldStart p s)

/-- Every rail drops; in retention that ends the suspended state (R6). -/
def powerOff (s : State) : State := { s with powered := false, susp := .none, host := { s.host with ready := false } }

/-- POWER_REMOVAL (R6): the service span ends. -/
def execPowerRemoval (s : State) : Out := .next (powerOff s)

/-! ## Throttling (R389, R390) -/

/-- At most one change of step per 1 ms. DEDUCED, log entry 34. -/
def stepFree (s : State) : Bool := match s.thr.changed with
  | some t => decide (4000000 ≤ (s.rt - t).toNat)
  | none => true

/-- The 10 ms that an up-step asks for have passed since a temperature or the power was last seen above its limits (R390). -/
def coolLong (s : State) : Bool := match s.thr.hot with
  | some t => decide (40000000 ≤ (s.rt - t).toNat)
  | none => true

/-- TJ_MEASUREMENT (R389, R390). -/
def execTjMeasurement (tj : Nat) (s : State) : Out :=
  if s.powered then .next { s with thr := { s.thr with tj := tj % 256, hot := if 95 < tj % 256 then some s.rt else s.thr.hot } } else .next s

/-- THROTTLE_STEP_DOWN (R390): on a temperature condition, a power condition, or both. DEDUCED, log entry 34. -/
def execThrottleStepDown (therm pwr : Bool) (s : State) : Out :=
  if s.powered && (therm || pwr) then
    let hot := { s with thr := { s.thr with hot := some s.rt } }
    if decide (s.thr.step < 3) && stepFree s then
      .next { hot with thr := { hot.thr with
        step := s.thr.step + 1, therm := s.thr.therm || therm, pwr := s.thr.pwr || pwr, changed := some s.rt } }
    else .next hot
  else .next s

/-- THROTTLE_STEP_UP (R390): after 10 ms below the limits; the flags clear when the step returns to 00. DEDUCED, log entry 34. -/
def execThrottleStepUp (s : State) : Out :=
  if s.powered && decide (0 < s.thr.step) && stepFree s && coolLong s then
    let n := s.thr.step - 1
    .next { s with thr := { s.thr with
      step := n, therm := s.thr.therm && n != 0, pwr := s.thr.pwr && n != 0, changed := some s.rt } }
  else .next s

/-- THERMAL_TRIP (R390): an ERROR event of class 4, then every rail drops. DEDUCED, log entry 34. -/
def execThermalTrip (s : State) : Out :=
  if s.powered then .next (powerOff (errorNoted 0 4 0 0 allOnes s)) else .next s

/-! ## Suspend (R392, R393) -/

/-- A task at the freeze: it is marked to freeze, whatever freeze it awaited falls due again at T′. DEDUCED, log entry 13. -/
def suspendSlot (y : Slot) : Slot :=
  if y.st = .run ∨ y.st = .parked ∨ y.st = .preload then { y with freezing := some .suspend, freezeNext := y.freezing } else y

/-- Links that carry a cut marker: die links in service and, in a group, the facet ports that are up (numbered from 16). -/
def cutLinks (s : State) : List Nat :=
  (List.range 16).filter (fun l => linkLive s l) ++ (if aloneInGroup s then [] else ((List.range 18).filter fun n => portUp s n).map (16 + ·))

/-- The sequence numbers in the cut markers of a link's sending ends: of both ends of a die link, and of the own end of a facet link (R339,
R341, R392). -/
def linkSeqs (s : State) (l : Nat) : List Nat :=
  if l < 16 then [Tab.get 0 0 (s.link l).sent, Tab.get 0 1 (s.link l).sent] else [(s.port (l - 16)).txSeq]

/-- The T at which the package suspends next, if one is set (R391, R395). -/
def suspendAtT (s : State) : Option Word :=
  match s.susp with
  | .armed t => some t
  | .restored _ again => again
  | _ => none

/-- SUSPEND_FREEZE (R392): Reticle has reached T. Tasks freeze, sending stops, and the cut markers go out.
DEDUCED, log entry 33. -/
def execSuspendFreeze (s : State) : Out :=
  match suspendAtT s with
  | some t =>
    if s.powered && !s.landing && decide (t.toNat ≤ s.rt.toNat) then
      .next { s with
        susp := .frozen
        cells := s.cells.map fun (c, x) => (c, { x with slots := x.slots.map fun (k, y) => (k, suspendSlot y) })
        links := s.links.map fun (l, y) => (l, { y with cut := false })
        ports := s.ports.map fun (n, y) => (n, { y with cut := false })
        outbox := s.outbox ++ (cutLinks s).flatMap fun l => (linkSeqs s l).map (FacetMsg.cutMarker l) }
    else .next s
  | none => .next s

/-- CUT_MARKER (R392): the last packet that its sender sent before T has been accepted. DEDUCED, log entry 33. -/
def execCutMarker (link seq : Nat) (s : State) : Out :=
  if s.susp ≠ .frozen then .next s
  else if link < 16 then .next (s.updLink link fun y => { y with seq := seq, cut := true })
  else if link < 34 then .next (s.updPort (link - 16) fun y => { y with seq := seq, cut := true })
  else .next s

/-- A marker has arrived on every link. -/
def allCut (s : State) : Bool := (cutLinks s).all fun l => if l < 16 then (s.link l).cut else (s.port (l - 16)).cut

/-- A cell's tasks have frozen, and what its engines had begun has landed (R222, R392). -/
def cellStill (x : Cell) : Bool :=
  x.wr.isEmpty && x.lensWr.isEmpty && x.rows.isEmpty
    && x.slots.all fun (_, y) => y.st == .free || y.st == .ending || (y.st == .frozen && y.freezing.isNone)

/-- Clean Lens entries are discarded; one that a task still names is filled again after the resume (R393). What a TLB holds survives, as
R323 says, and the moves that replace its entries give the discard of R393. DEDUCED, log entry 33. -/
def dropClean (x : Cell) : Cell :=
  let kept : Cell := { x with
    slots := x.slots.map fun (k, y) => (k, { y with pages := [], lastVa := [] })
    lens := x.lens.filter fun e => e.st != .clean || e.frameless || x.pinned e.id || x.bound e.id }
  kept.lens.foldl (fun z e => if e.st = .clean ∧ e.frameless = false then z.refill e.id (some e.ver) else z) kept

/-- An access that nothing outside the package's memory holds back: it performs before the save (R222, R392). One that waits for another
package, for a time, for a semaphore or a collective is saved in place. DEDUCED, log entry 33. -/
def accRuns (s : State) (a : Acc) : Bool :=
  (match a.kind with
    | .load | .store | .vload | .vstore | .cas | .iflush => true
    | .amo _ | .stat _ | .fence _ _ | .cinv _ | .thnd _ | .bara _ | .barm _ _ _ => true
    | .ldnb _ | .mcst _ _ | .bst _ | .bamo _ | .bld | .semw _ | .launch | .qpush _ | .coll | .collw _ | .tlbi _ _ _ => false)
  && !a.sent && a.peerOf.isNone && mayPerform s a

/-- No copy command is inside a piece: each has stopped at its next one (R145, R392). -/
def copiesStill (s : State) : Bool :=
  s.cells.all (fun q => q.2.copyq.all fun p => p.buf.isNone) && s.conds.all fun q => q.2.copyq.all fun p => p.buf.isNone

/-- Everything that the engines had begun has completed (R222, R392). DEDUCED, log entry 33. -/
def enginesStill (s : State) : Bool :=
  s.packets.isEmpty && s.accs.all (fun a => !accRuns s a) && copiesStill s
    && s.cells.all fun (c, x) => cellStill x && x.ops.all fun o => opWaits s c o.slot o

/-- SUSPEND_SAVE (R393): the state is written to the suspend area under the suspend key (R404); only the hub reads the area, so that the
state stays here as it is. The logic rails drop, and the package is in retention. DEDUCED, log entry 33. -/
def execSuspendSave (s : State) : Out :=
  if s.susp = .frozen ∧ s.landing = false ∧ allCut s = true ∧ enginesStill s = true then
    .next { s with
      powered := false, susp := .retained, rdc := [], wcache := [], lcache := [], l1 := [], dirs := []
      cells := s.cells.map fun (c, x) => (c, dropClean x)
      host := { s.host with ready := false }
      sec := { s.sec with area := some s.sec.suspendKey } }
  else .next s

/-! ## Resume (R394, R395) -/

/-- A frozen task returns to the state it had at the freeze, and a freeze that it awaited falls due again. -/
def thaw (c k : Nat) (s : State) : State :=
  let y := s.slot c k
  if y.st = .frozen ∧ y.frozenBy = some .suspend then
    (resumeSlot true (restartClk s c k) c k s).updSlot c k fun z => { z with freezing := y.freezeNext, freezeNext := none }
  else s

/-- RESUME_AT_T_PRIME (R394): tasks return to their slot states, and the queued replies are sent. A further suspend that is set stays so. -/
def execResumeAtTPrime (s : State) : Out :=
  match s.susp with
  | .restored (some t) again =>
    if s.powered && !s.landing && decide (t.toNat ≤ s.rt.toNat) then
      let all := s.cells.flatMap fun (c, x) => x.slots.map fun (k, _) => (c, k)
      .next (flushPackets (all.foldl (fun t (c, k) => thaw c k t) { s with susp := match again with | some u => .armed u | none => .none }))
    else .next s
  | _ => .next s

end Sys2Proof.Machine
end

