-- ==== Sys2Proof/Machine/PrismEvents.lean ====
section
/-! DEFINITION. Steps of the Prism (R350 to R358, R391, R395, R406): transmission in the rotation, the frames that arrive in the one
order of λ0, their application to the replica, recovery of lost frames, regeneration of a Glint, joining and leaving. -/

namespace Sys2Proof.Machine

open Sys2Proof

/-! ## Members -/

/-- A collective of any context that counts member `m` ends: the member has left or is absent (R364). One that has begun to write DST has
every contribution, and goes on. -/
def endCollsOf (m : Nat) (s : State) : State :=
  s.ctxs.foldl (fun t (n, x) => x.colls.foldl (fun t c =>
    if bit (c.desc.toNat / 2 ^ 64) m && c.out.isNone then endColl n c.ticket 1 t else t) t) s

/-- The next live member after `m` in the rotation, in ascending index (R352). -/
def nextMember (live m : Nat) : Nat :=
  let l := setBits 64 live
  ((l.find? fun j => decide (m < j)).orElse fun _ => l.head?).getD m

/-- Member `m` is removed from the rotation (R351, R357, R358). DEDUCED, log entry 22. -/
def removeMember (m : Nat) (s : State) : State :=
  let live := if bit s.prism.live m then s.prism.live - 2 ^ m else s.prism.live
  endCollsOf m { s with prism := { s.prism with
    live := live, joined := if bit s.prism.joined m then s.prism.joined - 2 ^ m else s.prism.joined
    glint := s.prism.glint.map fun (w, h) => (w, if h = m then nextMember live m else h) } }

/-- The context that is the package's Prism member and has not left. -/
def prismCtx (s : State) : Option Nat := (s.ctxs.find? fun (_, x) => x.prism && x.prismLive).map (·.1)

/-- The package leaves the group (R357): LEAVE goes out, no place is applied any longer, the record and the event are written for its
Prism member, and the operations that wait to be transmitted or applied take PRISM_EXIT. DEDUCED, log entry 22. -/
def leaveGroup (s : State) : State :=
  if s.prism.left then s
  else
    let ids := (s.prism.sendq.map (·.1)) ++ s.prism.air.map (·.2)
    let gone := s.accs.filter fun a => a.id != 0 && ids.contains a.id
    let s1 := { s with prism := { s.prism with
      sendq := s.prism.sendq.filter (fun q => q.1 == 0), air := [], held := [], recov := [], copying := false, left := true } }
    let s2 := removeMember s.prism.self (gone.foldl (fun t a => leftPrism a t) s1)
    let s3 := sendFrame (controlFrame s2 0x31 0 0) s2
    match prismCtx s with
    | some n =>
      hostEvent 0x41 0x23 0 (BitVec.ofNat 64 n) 0 0 0 (hubRecord n fPrismExit 0 0 0 (s3.updCtx n fun x => { x with prismLive := false }))
    | none => s3

/-! ## Applying frames (R354) -/

/-- The replica word that a frame names. -/
def replicaRead (s : State) (f : Frame) : Nat := Memory.readN s.prism.replica (f.offset % 2 ^ 20) (sizeBytes f.size)

def replicaWrite (f : Frame) (v : Nat) (s : State) : State :=
  { s with prism := { s.prism with replica := Memory.writeN s.prism.replica (f.offset % 2 ^ 20) (sizeBytes f.size) v } }

/-- The own access that a frame carries, if any. -/
def ownAcc (f : Frame) (s : State) : Option Acc :=
  if f.sender = s.prism.self then
    match s.prism.air.find? fun q => q.1 == f.place with
    | some q => s.accs.find? fun a => a.id == q.2
    | none => none
  else none

/-- BST applies: one single-copy atomic write of its size. -/
def applyBst (f : Frame) (s : State) : State :=
  let s1 := if (prismCtx s).isSome then replicaWrite f f.data.toNat s else s
  match ownAcc f s with
  | some a => finishAcc a s1
  | none => s1

/-- BAMO applies; the issuer receives the value before it (R141). -/
def applyBamo (f : Frame) (s : State) : State :=
  let w := sizeBytes f.size
  let old := replicaRead s f
  let s1 := if (prismCtx s).isSome then replicaWrite f (amoNew f.op w old (f.data.toNat % 2 ^ (8 * w))) s else s
  match ownAcc f s with
  | some a =>
    finishAcc a (deliver a.dst (BitVec.ofNat 64 (extendTo 64 a.size old)) a.id (if a.acq then acquireBump a.agent a.ctx 3 s1 else s1))
  | none => s1

/-- The replica as a list of the bytes that differ from zero goes to a member that joins, from the lowest member that has one
(R351). DEDUCED, log entry 22. -/
def sendReplica (m place : Nat) (s : State) : State :=
  if (prismCtx s).isSome && !s.prism.copying && lowest (s.prism.joined &&& (2 ^ 64 - 1 - 2 ^ m)) == some s.prism.self && m != s.prism.self then
    postPacket (.replicaCopy m s.prism.replica place s.prism.live s.prism.joined) s
  else s

/-- JOIN applies. DEDUCED, log entry 21. -/
def applyJoin (f : Frame) (s : State) : State :=
  let s1 := { s with prism := { s.prism with
    live := s.prism.live ||| 2 ^ f.sender, joined := s.prism.joined ||| 2 ^ f.sender } }
  sendReplica f.sender f.place s1

/-- RESUME-AT applies at a restored member: the first one gives T′; a member that is restored after T′ has left (R357, R395). -/
def applyResumeAt (f : Frame) (s : State) : State :=
  if awaitsResume s then
    let s1 := setResume f.time s
    if f.time.toNat < s.rt.toNat then leaveGroup s1 else s1
  else s

/-- What a frame does when its place comes. -/
def applyKind (f : Frame) (s : State) : State :=
  match f.kind with
  | 0x01 => applyBst f s
  | 0x02 => applyBamo f s
  | 0x10 => armSuspend f.time s
  | 0x11 => applyResumeAt f s
  | 0x30 => applyJoin f s
  | 0x31 => removeMember f.sender s
  | _ => s

/-- Apply the frame of the next place; a package that has left applies none (R357). -/
def applyFrame (f : Frame) (s : State) : State :=
  let s1 := applyKind f s
  if s1.prism.left then s1
  else { s1 with prism := { s1.prism with
    applied := f.place, air := s1.prism.air.filter fun q => q.1 != f.place
    recov := s1.prism.recov.filter fun q => q.place != f.place
    appliedLog := (f :: s1.prism.appliedLog).take 4096 } }

/-- Apply held frames as long as the next place is among them. -/
def applyHeld : Nat → State → State
  | 0, s => s
  | n + 1, s =>
    if s.prism.copying || s.prism.left then s
    else
      match s.prism.held.find? fun f => f.place == s.prism.applied + 1 with
      | none => s
      | some f => applyHeld n (applyFrame f { s with prism := { s.prism with held := s.prism.held.filter fun q => q.place != f.place } })

/-- A frame whose tag is good takes its place in the order: it applies if it is next, or is held, up to 4,096 (R356). -/
def acceptFrame (f : Frame) (s : State) : State :=
  let s := { s with prism := { s.prism with seen := max s.prism.seen f.place } }
  if f.place ≤ s.prism.applied ∨ s.prism.left = true then s
  else if f.place = s.prism.applied + 1 ∧ s.prism.copying = false then
    applyHeld (s.prism.held.length + 1) (applyFrame f s)
  else if s.prism.held.any fun q => q.place == f.place then s
  else if 4096 ≤ s.prism.held.length then leaveGroup s
  else { s with prism := { s.prism with held := s.prism.held ++ [f] } }

/-- The package receives light: it has power. DEDUCED, log entry 22. -/
def receives (s : State) : Bool := s.powered && !s.landing

/-- A frame of kind `k` arrives on λ0, where every receiver counts it. A frame of an old epoch is discarded (R358); one whose tag fails,
or whose key the package lacks, loses the place that it counts (R356, R406); a frame of the own index is what the package sent. -/
def frameArrives (k : Nat) (f : Frame) (s : State) : Out :=
  if !receives s || f.kind != k || epochBefore f.epoch s.prism.epoch then .next s
  else if f.sender = s.prism.self ∧ s.prism.sentLog.contains f = false then .next s
  else
    let s := countFrame 0 f.count s
    if f.epoch != s.prism.epoch || !tagGood s f then
      .next { s with prism := { s.prism with seen := max s.prism.seen (if f.kind = 0x21 then 0 else f.place) } }
    else .next (acceptFrame f s)

/-- BST_FRAME (R354). -/
def execBstFrame (f : Frame) (s : State) : Out := frameArrives 0x01 f s
/-- BAMO_FRAME (R141, R354). -/
def execBamoFrame (f : Frame) (s : State) : Out := frameArrives 0x02 f s
/-- SUSPEND_AT (R391): the first in the order governs. -/
def execSuspendAt (f : Frame) (s : State) : Out := frameArrives 0x10 f s
/-- RESUME_AT (R395). -/
def execResumeAt (f : Frame) (s : State) : Out := frameArrives 0x11 f s
/-- VOID (R356): every member passes over the place. -/
def execVoid (f : Frame) (s : State) : Out := frameArrives 0x21 f s
/-- JOIN (R351). -/
def execJoin (f : Frame) (s : State) : Out := frameArrives 0x30 f s
/-- LEAVE (R357). -/
def execLeave (f : Frame) (s : State) : Out := frameArrives 0x31 f s

/-! ## Transmission (R352, R354) -/

/-- A control frame may be transmitted until T′ of a resume; a BST or BAMO only while the package runs (R392, R395). -/
def maySend (s : State) (f : Frame) : Bool := match s.susp with
  | .none => true
  | .armed _ => true
  | .frozen => false
  | .retained => false
  | _ => f.kind != 1 && f.kind != 2

/-- Give frames their places, one above the other; VOID stands for the place that it names. -/
def numberFrames (epoch : Nat) : Nat → List (Nat × Frame) → List (Nat × Frame) × Nat
  | p, [] => ([], p)
  | p, (id, f) :: t =>
    if f.kind = 0x21 then
      let r := numberFrames epoch p t
      ((id, { f with epoch := epoch }) :: r.1, r.2)
    else
      let r := numberFrames epoch (p + 1) t
      ((id, { f with place := p + 1, epoch := epoch }) :: r.1, r.2)

/-- Transmit at most 8 frames from the head of the λ0 queue. DEDUCED, log entry 21. -/
def transmit (s : State) : State :=
  let go := (s.prism.sendq.takeWhile fun q => maySend s q.2).take 8
  let r := numberFrames s.prism.epoch s.prism.seen go
  let n := Tab.get 0 0 s.prism.counts
  let l := r.1.zipIdx.map fun (q, i) => (q.1, { s.prism with counts := Tab.set 0 (n + i) s.prism.counts }.seal q.2)
  { s with prism := { s.prism with
    sendq := s.prism.sendq.drop go.length, seen := r.2, counts := Tab.set 0 (n + go.length) s.prism.counts
    air := s.prism.air ++ (l.filter fun q => q.1 != 0).map fun q => (q.2.place, q.1)
    sentLog := (l.reverse.map (·.2) ++ s.prism.sentLog).take 4096 } }

/-- A data frame as it is transmitted on its wavelength: with the epoch, the `n`-th count and the tag. -/
def sealData (s : State) (f : DataFrame) (n : Nat) : DataFrame :=
  let g := { f with epoch := waveEpoch s.prism f.wave, count := n }
  { g with tag := dataTag g s.prism.key }

/-- Transmit at most 8 data frames from the head of a wavelength's queue (R350, R352). -/
def transmitData (w : Nat) (s : State) : State :=
  if !sending s then s
  else
    let q := Tab.get [] w s.prism.dataq
    let n := Tab.get 0 w s.prism.counts
    let l := (q.take 8).zipIdx.map fun (f, i) => sealData s f (n + i)
    { s with
      outbox := s.outbox ++ l.map .dataFrame
      prism := { s.prism with
        dataq := Tab.set w (q.drop 8) s.prism.dataq, counts := Tab.set w (n + l.length) s.prism.counts
        dataLog := Tab.set w ((l.reverse ++ Tab.get [] w s.prism.dataLog).take 4096) s.prism.dataLog } }

/-- The holder of a wavelength's Glint. A package that is outside the rotation and has a control frame to transmit, a JOIN above
all, is given the slot (log entry 21). DEDUCED, log entry 21. -/
def slotHolder (s : State) (w : Nat) : Nat :=
  if w = 0 ∧ bit s.prism.live s.prism.self = false ∧ s.prism.sendq.any (fun q => q.2.kind != 1 && q.2.kind != 2) = true then s.prism.self
  else Tab.get s.prism.self w s.prism.glint

/-- The package's own slot of a wavelength (R352): its marker, with its index, the epoch and its Reticle reading, then its frames; the Glint
goes to the next live member. -/
def ownSlot (w : Nat) (s : State) : State :=
  let p := s.prism
  let s1 := { s with outbox := s.outbox ++ [.marker w ⟨p.self, waveEpoch p w, s.rt⟩] }
  let s2 := if w = 0 then transmit s1 else transmitData w s1
  { s2 with prism := { s2.prism with
    marker := Tab.set w s.rt p.marker, glint := Tab.set w (nextMember p.live p.self) p.glint } }

/-- Another member's marker arrives (R352, R358, R361): the Glint goes to the live member after it. -/
def markerArrives (w : Nat) (mk : Marker) (s : State) : State :=
  let p := s.prism
  glintStamp mk { s with prism := { p with
    marker := Tab.set w s.rt p.marker, glint := Tab.set w (nextMember p.live mk.holder) p.glint
    regenSeen := if p.regenSeen.any fun q => q.1 == w then none else p.regenSeen } }

/-- GLINT_SLOT (R352, R354): a slot of 92 ticks. Either another member's marker arrives, whose frames arrive as frames of their own; or the
package holds the Glint, and the slot is its own. DESIGN CHOICE, log entry 36. -/
def execGlintSlot (g : GlintEv) (s : State) : Out :=
  let w := g.wave
  let lost := match s.prism.regen with | some (v, _) => v == w | none => false
  if !receives s || decide (8 ≤ w) || lost then .next s
  else
    match g.marker with
    | some m => .next (if m.holder = s.prism.self ∨ m.epoch ≠ waveEpoch s.prism w then s else markerArrives w m s)
    | none => .next (if slotHolder s w = s.prism.self then ownSlot w s else s)

/-! ## Lost frames (R356) -/

/-- A place below one seen, neither applied nor held. DEDUCED, log entry 22. -/
def isLost (s : State) (k : Nat) : Bool :=
  decide (s.prism.applied < k) && decide (k ≤ s.prism.seen) && !s.prism.held.any fun f => f.place == k

/-- The live members other than the package. -/
def otherMembers (s : State) : List Nat := (setBits 64 s.prism.live).filter fun m => m != s.prism.self

/-- Ask a set of members for a frame of λ0. -/
def askFrame (l : List Nat) (place : Nat) (s : State) : State := l.foldl (fun t m => postPacket (.frameRequest m 0 place) t) s

/-- Change a recovery. -/
def updRecov (place : Nat) (f : Recov → Recov) (s : State) : State :=
  { s with prism := { s.prism with recov := s.prism.recov.map fun r => if r.place = place then f r else r } }

/-- FRAME_RECOVERY_REQUEST (R356): the lost frame is requested over the facet fabric from its sender, which the receiver knows by the slot
in which the frame was due (R352). DEDUCED, log entry 22. -/
def execFrameRecoveryRequest (q : LostFrame) (s : State) : Out :=
  let place := q.place
  if !receives s || s.prism.left || !isLost s place || s.prism.recov.any (fun q => q.place == place) then .next s
  else
    .next (askFrame [q.sender] place { s with prism := { s.prism with recov := s.prism.recov ++ [{ place := place, since := s.rt }] } })

/-- The lowest live member transmits VOID for a place once every other live member has answered that it lacks the frame (R356). -/
def tryVoid (place : Nat) (s : State) : State :=
  match s.prism.recov.find? fun q => q.place == place with
  | some r =>
    if r.stage = 1 ∧ lowest s.prism.live = some s.prism.self ∧ (otherMembers s).all (bit r.lacks) = true then
      sendFrame { controlFrame s 0x21 0 0 with place := place } (updRecov place (fun r => { r with stage := 2 }) s)
    else s
  | none => s

/-- The lowest live member, which lacks a frame too, asks every other live member for it (R356). DEDUCED, log entry 22. -/
def searchFrame (place : Nat) (s : State) : State := tryVoid place (askFrame (otherMembers s) place s)

/-- FRAME_RECOVERY_TIMEOUT (R356): after 20 µs the lowest live member is asked; after 200 µs the package leaves.
DEDUCED, log entry 22. -/
def execFrameRecoveryTimeout (place : Nat) (s : State) : Out :=
  if !receives s || !isLost s place then .next s
  else
    match s.prism.recov.find? fun q => q.place == place with
    | none => .next s
    | some r =>
      let age := (s.rt - r.since).toNat
      if 800000 ≤ age then .next (leaveGroup s)
      else if age < 80000 ∨ r.stage ≠ 0 then .next s
      else
        let s1 := updRecov place (fun r => { r with stage := 1 }) s
        let low := (lowest s.prism.live).getD s.prism.self
        .next (if low = s.prism.self then searchFrame place s1 else askFrame [low] place s1)

/-- FRAME_RECOVERY_SERVE (R356, R358): a member that sent or applied the frame, and still keeps it, answers with it. One that does not have
it says so, and where it is the lowest live member looks for it itself. -/
def execFrameRecoveryServe (q : FrameName) (requester : Nat) (s : State) : Out :=
  let n := q.n
  if !receives s then .next s
  else if q.wave ≠ 0 then
    .next (postPacket (.dataAnswer requester n ((Tab.get [] q.wave s.prism.dataLog).find? fun f => f.count == n)) s)
  else
    match (s.prism.sentLog ++ s.prism.appliedLog).find? fun f => f.place == n && f.kind != 0x20 with
    | some f => .next (postPacket (.frameAnswer requester n (some f)) s)
    | none =>
      let s1 := postPacket (.frameAnswer requester n none) s
      if lowest s.prism.live = some s.prism.self ∧ s.prism.applied < n ∧ s.prism.left = false
          ∧ s.prism.recov.any (fun r => r.place == n && r.stage != 0) = false then
        let recov := s.prism.recov.filter fun r => r.place != n
        .next (searchFrame n { s1 with prism := { s.prism with
          seen := max n s.prism.seen, recov := recov ++ [{ place := n, stage := 1, since := s.rt }] } })
      else .next s1

/-! ## Regeneration (R358, R406) -/

/-- The group key of the new epoch has gone to every live member (R406): none waits to be sent. -/
def keysSent (s : State) : Bool := s.replyq.all fun m => match m with | .groupKey _ _ _ => false | _ => true

/-- Every live member has answered, no frame is lacking and the new key has gone out: the regenerator transmits the first marker of the new
epoch, in a slot of its own. -/
def tryRegen (s : State) : State :=
  match s.prism.regen with
  | none => s
  | some (w, l) =>
    let top := l.foldl (fun m q => max m q.2) s.prism.seen
    let s1 := { s with prism := { s.prism with seen := top } }
    let all := (otherMembers s).all fun m => l.any fun q => q.1 == m
    if all && keysSent s && (sending s || restored s) && (w != 0 || s.prism.applied == top || (prismCtx s).isNone) then
      ownSlot w { s1 with prism := { s1.prism with
        regen := none, applied := if (prismCtx s).isNone && w == 0 then top else s.prism.applied } }
    else s1

/-- A REGEN as it is transmitted: with the next EPOCH of its wavelength, under the group key so far. DEDUCED, log entry 22. -/
def regenFrame (s : State) (w e : Nat) : Frame :=
  let f : Frame := { controlFrame s 0x20 0 0 with epoch := e, wave := w }
  { f with tag := frameTag f s.prism.key }

/-- GLINT_TIMEOUT: the lowest live member has seen no marker for 20 µs. It transmits REGEN with the wavelength's next EPOCH; on λ0 it draws
the group key of that epoch, which goes to every live member. DEDUCED, log entry 22. -/
def execGlintTimeout (w : Nat) (key : BitVec 256) (s : State) : Out :=
  let p := s.prism
  if !receives s || decide (8 ≤ w) || p.regen.isSome || lowest p.live != some p.self
      || decide ((s.rt - Tab.get 0 w p.marker).toNat < 80000) then .next s
  else
    let e := (waveEpoch p w + 1) % 2 ^ 16
    let q : Prism := { p with
      regen := some (w, []), regenAt := s.rt, sentLog := (regenFrame s w e :: p.sentLog).take 4096, counts := Tab.del w p.counts }
    if w ≠ 0 then .next (tryRegen { s with prism := { q with epochs := Tab.set w e p.epochs } })
    else
      .next (tryRegen (sendKeys (otherMembers s) e key
        { s with prism := { q with epoch := e, key := key, keyEpoch := e, prevKey := p.key, prevEpoch := p.epoch } }))

/-- The highest place that the package holds: applied, held or sent by itself. DEDUCED, log entry 22. -/
def highestHeld (s : State) : Nat :=
  (s.prism.held ++ s.prism.sentLog).foldl (fun m f => max m f.place) s.prism.applied

/-- REGEN arrives: the package answers with its highest place, and what still comes of the wavelength's old epoch is discarded. Its tag is
one under the group key so far, which a new key may have followed. -/
def execRegen (f : Frame) (s : State) : Out :=
  let p := s.prism
  if !receives s || f.kind != 0x20 || !(f.tag == frameTag f p.key || f.tag == frameTag f p.prevKey) || f.sender == p.self || decide (8 ≤ f.wave)
      || f.epoch != (waveEpoch p f.wave + 1) % 2 ^ 16 then .next s
  else
    let q : Prism := { p with
      glint := Tab.set f.wave f.sender p.glint, marker := Tab.set f.wave s.rt p.marker, regen := none
      regenSeen := some (f.wave, s.rt), counts := Tab.del f.wave p.counts }
    .next (postPacket (.regenAnswer f.sender (highestHeld s))
      { s with prism := if f.wave = 0 then { q with epoch := f.epoch } else { q with epochs := Tab.set f.wave f.epoch p.epochs } })

/-- REGEN_ANSWER: a live member's answer. -/
def execRegenAnswer (m place : Nat) (s : State) : Out :=
  match s.prism.regen with
  | some (w, l) =>
    if receives s && bit s.prism.live m && !l.any fun q => q.1 == m then
      .next (tryRegen { s with prism := { s.prism with regen := some (w, l ++ [(m, place)]) } })
    else .next s
  | none => .next s

/-- REGEN_ANSWER_TIMEOUT: a member that has not answered within 20 µs is removed from the rotation and has left, at the regenerator, at
every other member, and at itself by the exit of R357. DEDUCED, log entry 22. -/
def execRegenAnswerTimeout (m : Nat) (s : State) : Out :=
  if !receives s || !bit s.prism.live m then .next s
  else
    match s.prism.regen, s.prism.regenSeen with
    | some (_, l), _ =>
      if m ≠ s.prism.self ∧ l.any (fun q => q.1 == m) = false ∧ 80000 ≤ (s.rt - s.prism.regenAt).toNat then
        .next (tryRegen (removeMember m s))
      else .next s
    | none, some (_, t) =>
      if (s.rt - t).toNat < 80000 then .next s
      else .next (if m = s.prism.self then leaveGroup s else removeMember m s)
    | none, none => .next s

/-- GROUP_KEY_DELIVERY (R406). -/
def execGroupKeyDelivery (epoch : Nat) (key : BitVec 256) (s : State) : Out :=
  if receives s then
    .next { s with prism := { s.prism with
      key := key, keyEpoch := epoch % 2 ^ 16, prevKey := s.prism.key, prevEpoch := s.prism.keyEpoch } }
  else .next s

/-- FRAME_RECOVERY_REPLY (R356): member `m` answers. The frame applies, whatever its epoch, and then the held frames after it; a member that
lacks the epoch's key recovers nothing (R406). Or the member lacks it too. -/
def execFrameRecoveryReply (a : FrameReply) (s : State) : Out :=
  let m := a.member
  let place := a.place
  if receives s && s.prism.keyEpoch == s.prism.epoch && s.prism.recov.any (fun q => q.place == place) then
    match a.frame with
    | some f =>
      if f.place = place then
        .next (tryRegen (acceptFrame f { s with prism := { s.prism with recov := s.prism.recov.filter fun q => q.place != place } }))
      else .next s
    | none => .next (tryVoid place (updRecov place (fun r => { r with lacks := if bit r.lacks m then r.lacks else r.lacks + 2 ^ m }) s))
  else .next s

/-! ## The replica (R351, R383) -/

/-- Whether the package may take a copy as it stood after `place`: the copy is not behind what the package has applied, no frame up to it
is lost, and it does not already hold an atomic of the package itself, whose old value the copy does not show.
DEDUCED, log entry 22. -/
def copyServes (s : State) (place : Nat) : Bool :=
  decide (s.prism.applied ≤ place)
    && (List.range (place - s.prism.applied)).all (fun i => !isLost s (s.prism.applied + 1 + i))
    && !s.prism.held.any fun f => decide (f.place ≤ place) && f.kind == 0x02 && (ownAcc f s).isSome

/-- What a frame does whose place the copy has passed: all but its write, which the copy holds. -/
def applyCopied (f : Frame) (s : State) : State :=
  match f.kind with
  | 0x01 => match ownAcc f s with | some a => finishAcc a s | none => s
  | 0x02 => s
  | _ => applyKind f s

/-- PRISM_REPLICA_COPY (R351, R383): the copy is complete, with the live members and those that had joined where it was made. The frames up to
its place act but for their writes, later places apply from here on, and waiting BLDs proceed. -/
def execPrismReplicaCopy (bytes : List Host.Cell) (q : CopyPoint) (s : State) : Out :=
  let place := q.place
  if receives s && s.prism.copying && copyServes s place then
    let m := bytes.foldl (fun m q => if q.1 < 2 ^ 20 then Memory.writeL m q.1 [q.2] else m) []
    let past := (List.range (place - s.prism.applied)).filterMap fun i =>
      s.prism.held.find? fun f => f.place == s.prism.applied + 1 + i
    let s1 := past.foldl (fun t f => applyCopied f t) s
    let s2 := { s1 with prism := { s1.prism with
      replica := m, copying := false, applied := place, seen := max place s1.prism.seen
      live := q.live % 2 ^ 64, joined := q.joined % 2 ^ 64
      air := s1.prism.air.filter fun q => decide (place < q.1)
      held := s1.prism.held.filter fun f => decide (place < f.place)
      appliedLog := (past.reverse ++ s1.prism.appliedLog).take 4096 } }
    .next (applyHeld (s2.prism.held.length + 1) s2)
  else .next s

end Sys2Proof.Machine
end

