-- ==== Sys2Proof/Machine/QueueEvents.lean ====
section
/-! DEFINITION. The commands of the die queues (R300 to R304) and pre-emption: requests, forced freezes, saves and restores (R305 to
R314). -/

namespace Sys2Proof.Machine

open Sys2Proof

/-! ## Starting a command (R300, R302, R303) -/

/-- A field that a command requires to be zero is nonzero, or an address is not aligned as its command requires (R301, R302).
DEDUCED, log entry 27. -/
def cmdFieldBad (r : DieCmd) : Bool :=
  let raw := r.raw.toNat
  let addr := (cmdAddr r).toNat
  let arg := (cmdArg r).toNat
  let mask := cmdMask r
  let always := bits raw 15 10 != 0 || bits raw 31 16 != 0 || bits raw 63 40 != 0 || bits raw 511 384 != 0
  let sem := if cmdSig r || cmdOpc r == 2 then (cmdSaddr r).toNat % 8 != 0 else cmdSaddr r != 0 || cmdSval r != 0
  let hold := cmdHold r && cmdOpc r != 1
  let own := match cmdOpc r with
    | 1 => addr % 256 != 0 || mask != 0 || arg != 0
    | 2 => addr != 0 || mask != 0 || arg != 0 || cmdSig r
    | 3 => addr != 0 || mask != 0 || arg != 0 || !cmdSig r
    | 4 => addr % 4096 != 0 || mask / 2 ^ 16 != 0 || bits arg 15 1 != 0 || bits arg 63 48 != 0
    | 5 => addr % 4096 != 0 || mask != 0 || bits arg 15 0 != 0 || bits arg 63 48 != 0
    | 6 => addr != 0 || mask != 0 || arg != 0
    | 7 => addr % 64 != 0 || mask != 0 || arg / 8 != 0
    | 8 => addr % 64 != 0 || mask != 0 || arg / 8 != 0
    | _ => true
  always || sem || hold || own

/-- With the head of a queue, if it is a command of the given OPC that may start or go on: one of no command, or with a bad field,
fails instead. A queue whose context is not LIVE starts nothing, but a RESTORE in it fails (R291, R312). DEDUCED, log entry 27. -/
def onHead (die q opc : Nat) (s : State) (f : DieCmd → State) : Out :=
  if s.landing || bit s.err.fencedDies die then .next s
  else
    match (s.dieq die q).recs with
    | [] => .next s
    | r :: _ =>
      let known := 1 ≤ cmdOpc r && cmdOpc r ≤ 8
      if known && cmdOpc r != opc then .next s
      else if (s.ctxOf (cmdCtx r)).st != .live then .next (if cmdOpc r = 5 then failHead die q 0x0104 s else s)
      else if cmdFieldBad r && !(s.dieq die q).started then .next (failHead die q 0x0101 s)
      else .next (f r)

/-- Note that the head has started. -/
def startHead (die q : Nat) (s : State) : State := s.updDieq die q fun y => { y with started := true }

/-! ## RUN (R300, R302) -/

/-- Every record of a launch has completed. -/
def launchDone (s : State) (ctx l : Nat) : Bool := !s.recs.any fun r => r.ctx == ctx && r.launch == l

/-- A RUN that had released its queue completes. DEDUCED, log entry 27. -/
def endRun (die q : Nat) (e : Nat × Nat × DieCmd) (s : State) : State :=
  let s1 := s.updDieq die q fun y => { y with running := y.running.filter fun g => g != e }
  match signalDone e.2.2 s1 with
  | (.ok t, _) => t
  | (.error c, t) => queueRecord die q e.2.1 (cmdCtx e.2.2) c t

/-- A RUN starts: its chain is read and checked, and accepted where it has room. -/
def startRun (die q : Nat) (r : DieCmd) (s : State) : State :=
  let ctx := cmdCtx r
  match launchRead ctx r.task (cmdAddr r) s with
  | (.error _, s) => failHead die q 0x0107 s
  | (.ok raw, s) =>
    let ((l, cut), s) := chainRest ctx r.task 16 raw 1 s
    let recs := (cmdAddr r, raw) :: l
    match chainCode s (s.ctxOf ctx) (some die) (recs.map (·.2)) cut with
    | some c => failHead die q c s
    | none =>
      let s1 := startHead die q s
      if chainRoom s ctx recs.length then
        let (n, s2) := acceptChain ctx recs (some (8 * die + q)) s1
        releaseRun die q (s2.updDieq die q fun y => { y with run := some n })
      else
        { s1 with
          seq := s1.seq + 2
          chains := s1.chains ++ [{ id := s1.seq, ctx := ctx, agent := none, byQ := some (8 * die + q), addr := cmdAddr r, recs := recs }] }

/-- RUN (R302): starts at the head, and completes when every record of its launch has. -/
def execRun (die q : Nat) (s : State) : Out :=
  match (s.dieq die q).running.find? fun e => launchDone s (cmdCtx e.2.2) e.1 with
  | some e => .next (if s.landing || bit s.err.fencedDies die then s else endRun die q e s)
  | none =>
    onHead die q 1 s fun r =>
      let y := s.dieq die q
      if !y.started then startRun die q r s
      else match y.run with
        | some l => if launchDone s (cmdCtx r) l then completeHead die q s else s
        | none => s

/-! ## WAIT, SIGNAL, RDCINV (R302) -/

/-- WAIT (R302): completes when the semaphore has reached the target, as SEMW does. DEDUCED, log entry 37. -/
def execWait (die q : Nat) (s : State) : Out :=
  onHead die q 2 s fun r =>
    match hubRead (cmdCtx r) r.task (cmdSaddr r) 8 s with
    | (.error _, s) => failHead die q 0x0107 s
    | (.ok v, s) =>
      let s1 := startHead die q s
      if (BitVec.ofNat 64 v - cmdSval r).toInt < 0 then s1
      else completeHead die q (rdcBump (cmdCtx r) die s1)

/-- SIGNAL (R302): once every earlier record of the queue has completed. -/
def execSignal (die q : Nat) (s : State) : Out :=
  onHead die q 3 s fun _ => if (s.dieq die q).running.isEmpty then completeHead die q s else s

/-- RDCINV (R302). -/
def execRdcinv (die q : Nat) (s : State) : Out :=
  onHead die q 6 s fun r => completeHead die q (rdcBump (cmdCtx r) die s)

/-! ## QMOVE and QLOAD (R304) -/

/-- A queue of a die is bound to a context (R292). -/
def queueBound (s : State) (ctx die q : Nat) : Bool := bit ((s.ctxOf ctx).qbind / 256 ^ die % 256) q

/-- The image of a queue. -/
def queueImage (y : DieQ) : List Byte :=
  leBytes 4 y.head.toNat ++ leBytes 4 y.tail.toNat ++ leBytes 56 0 ++ y.recs.flatMap fun r => leBytes 64 r.raw.toNat

/-- QMOVE (R304). -/
def execQmove (die q : Nat) (s : State) : Out :=
  onHead die q 7 s fun r =>
    let t := (cmdArg r).toNat % 8
    let y := s.dieq die t
    if t = q ∨ queueBound s (cmdCtx r) die t = false then failHead die q 0x0106 s
    else if y.started then startHead die q s
    else
      let l := queueImage y
      match hubWriteRuns (cmdCtx r) r.task (pageRuns (cmdAddr r) l.length) l s with
      | (.error _, s) => failHead die q 0x0107 s
      | (.ok s, _) => completeHead die q (s.updDieq die t fun y => { y with head := y.tail, recs := [] })

/-- QLOAD (R304): the engine writes the context into each record, as for one that was appended (R301). DEDUCED, log entry 27. -/
def execQload (die q : Nat) (s : State) : Out :=
  onHead die q 8 s fun r =>
    let t := (cmdArg r).toNat % 8
    let ctx := cmdCtx r
    if t = q ∨ queueBound s ctx die t = false ∨ (s.dieq die t).recs.isEmpty = false then failHead die q 0x0106 s
    else
      match hubRead ctx r.task (cmdAddr r) 64 s with
      | (.error _, s) => failHead die q 0x0107 s
      | (.ok h, s) =>
        let head : BitVec 32 := BitVec.ofNat 32 h
        let tail : BitVec 32 := BitVec.ofNat 32 (h / 2 ^ 32)
        let n := (tail - head).toNat
        if h / 2 ^ 64 ≠ 0 ∨ 32 < n then failHead die q 0x0101 s
        else
          match hubRead ctx r.task (cmdAddr r + 64) (64 * n) s with
          | (.error _, s) => failHead die q 0x0107 s
          | (.ok v, s) =>
            let recs := (List.range n).map fun i =>
              let w := fieldAt v (64 * i) 64
              { raw := BitVec.ofNat 512 (w - bits w 39 32 * 2 ^ 32 + ctx * 2 ^ 32), task := r.task : DieCmd }
            completeHead die q (s.updDieq die t fun y => { y with head := head, tail := tail, recs := recs })

/-! ## PREEMPT (R305, R306) -/

/-- The set of a PREEMPT: the tasks of the context in the cells named, and the members of their lockstep rounds (R305). -/
def preemptSet (s : State) (die mask ctx : Nat) : List (Nat × Nat) :=
  let named := (tasksOf s ctx).filter fun (c, _) => c / 16 == die && bit mask (c % 16)
  (named ++ named.flatMap fun (c, k) => lockMembers s c k).eraseDups

/-- Make a request pending for a task of the set; under FORCE it freezes at once. The request of a task that a fault has frozen is pending
when ERET resumes it before it is saved; one in PRELOAD receives it when it enters RUN. DEDUCED, log entry 13. DEDUCED, log entry 27. -/
def askSave (n : Nat) (force : Bool) (c k : Nat) (s : State) : State :=
  s.updSlot c k fun y =>
    let y := { y with preBy := some n }
    let due := s.rt.toNat + (if force then 0 else (s.ctxOf y.ctx).prebnd.toNat)
    if y.st = .ending then y
    else if y.st = .frozen then { y with preReq := some due, preClk := s.clk }
    else if force then { y with freezing := some (y.freezing.getD .forced), preReq := some due, preClk := s.clk }
    else if y.st = .preload then y
    else { y with preReq := some due, preClk := s.clk }

/-- Another PREEMPT of the context that has started and not finished names one of the cells. -/
def preemptClash (s : State) (die q : Nat) (r : DieCmd) : Bool :=
  (List.range 8).any fun p => p != q && (s.dieq die p).started && match (s.dieq die p).recs with
    | t :: _ => cmdOpc t == 4 && cmdCtx t == cmdCtx r && cmdMask t &&& cmdMask r != 0
    | [] => false

/-- PREEMPT (R305). -/
def execPreempt (die q : Nat) (s : State) : Out :=
  onHead die q 4 s fun r =>
    if (s.dieq die q).started then s
    else
      let mask := cmdMask r
      if mask = 0 ∨ mask &&& (s.err.fencedCells / 2 ^ (16 * die) % 2 ^ 16) ≠ 0 then failHead die q 0x0102 s
      else if preemptClash s die q r then failHead die q 0x0105 s
      else
        let l := preemptSet s die mask (cmdCtx r)
        let cells := (List.range 128).filter fun c => l.any fun t => t.1 == c
        let s1 := l.foldl (fun t (c, k) => askSave (8 * die + q) (bit (cmdArg r).toNat 0) c k t) s
        s1.updDieq die q fun y => { y with started := true, cells := cells }

/-- PREBND_EXPIRY (R306): PREBND ticks have passed since the request. DEDUCED, log entry 13. -/
def execPrebndExpiry (cell slot : Nat) (s : State) : Out :=
  if s.landing then .next s
  else
    let y := s.slot cell slot
    match y.preReq with
    | some t =>
      if s.rt.toNat < t ∨ y.freezing.isSome = true ∨ (y.st ≠ .run ∧ y.st ≠ .parked) then .next s
      else .next (s.updSlot cell slot fun y => { y with freezing := some .forced })
    | none => .next s

/-- Bytes of the area that a command gives. -/
def areaLen (r : DieCmd) : Nat := bits (cmdArg r).toNat 47 16 * 4096

/-- The lowest task of a context in a cell that a queue's PREEMPT named. -/
def nextSaved (s : State) (n ctx c : Nat) : Option Nat :=
  (List.range 8).find? fun k => (s.slot c k).st != .free && (s.slot c k).preBy == some n && (s.slot c k).ctx == ctx

/-- Save one task of a PREEMPT (R306). DEDUCED, log entry 28. -/
def saveTask (die q : Nat) (r : DieCmd) (c k : Nat) (s : State) : State :=
  if !savable s c k then s
  else
    let s := ungrant c k s
    let y := s.dieq die q
    let n := blockLen (s.cell c) k (s.slot c k)
    if areaLen r < y.len + n ∨ 256 ≤ y.toffs.length then failHead die q 0x0103 s
    else
      match taskBlock c k s with
      | (.error _, s) => failHead die q 0x0107 s
      | (.ok l, s) =>
        match hubPut (cmdCtx r) r.task (cmdAddr r + BitVec.ofNat 64 y.len) l s with
        | (.error _, s) => failHead die q 0x0107 s
        | (.ok s, _) => (leaveSlot c k s).updDieq die q fun z => { z with toffs := z.toffs ++ [y.len], len := y.len + n }

/-- Every task of the set has left a cell: its deferral paths are saved where no task of the context is left there (R307). -/
def saveCell (die q : Nat) (r : DieCmd) (c : Nat) (s : State) : State :=
  let ctx := cmdCtx r
  let x := s.cell c
  let next (s : State) : State := s.updDieq die q fun z => { z with cells := z.cells.drop 1 }
  if x.slots.any (fun (_, y) => y.st != .free && y.ctx == ctx) || (List.range 8).all fun p => (pathEnts x ctx p).isEmpty then next s
  else
    let y := s.dieq die q
    if areaLen r < y.len + cellBlockLen then failHead die q 0x0103 s
    else
      match hubPut ctx r.task (cmdAddr r + BitVec.ofNat 64 y.len) (cellBlock c ctx x) s with
      | (.error _, s) => failHead die q 0x0107 s
      | (.ok s, _) => (next (clearPaths c ctx s)).updDieq die q fun z => { z with coffs := z.coffs ++ [y.len], len := y.len + cellBlockLen }

/-- The area header is written, and the PREEMPT completes. DEDUCED, log entry 28. -/
def saveHeader (die q : Nat) (r : DieCmd) (s : State) : State :=
  let y := s.dieq die q
  if areaLen r < 4096 then failHead die q 0x0103 s
  else
    match hubPut (cmdCtx r) r.task (cmdAddr r) [(0, areaHeader (ctxidOf s (cmdCtx r)) s.rt y.len y.toffs y.coffs)] s with
    | (.error _, s) => failHead die q 0x0107 s
    | (.ok s, _) => completeHead die q s

/-- TASK_SAVE (R306): the next block of the PREEMPT at the head, in ascending cell and slot order, or the header. -/
def execTaskSave (die q : Nat) (s : State) : Out :=
  onHead die q 4 s fun r =>
    if !(s.dieq die q).started then s
    else
      match (s.dieq die q).cells with
      | [] => saveHeader die q r s
      | c :: _ =>
        match nextSaved s (8 * die + q) (cmdCtx r) c with
        | some k => saveTask die q r c k s
        | none => saveCell die q r c s

/-! ## RESTORE (R312) -/

/-- The task id of a saved task (R309). -/
def SavedTask.taskId (t : SavedTask) : Nat := if t.sweep then 2 ^ 64 - 1 else t.pos

/-- The saved task that a block describes. -/
def savedFor (s : State) (ctx b : Nat) : Option SavedTask :=
  (s.ctxOf ctx).savedTasks.find? fun t =>
    t.cell == fieldAt b 0x10 1 && t.slot == fieldAt b 0x11 1 && t.taskId == fieldAt b 0 8 && t.recAddr.toNat == fieldAt b 8 8

/-- An offset and a length lie in the area as blocks do. -/
def blockOk (r : DieCmd) (o n : Nat) : Bool := o % 4096 == 0 && decide (4096 ≤ o) && decide (o + n ≤ areaLen r)

/-- Check the task blocks of an area; the cells they name, or the failure. -/
def checkTasks (r : DieCmd) : List Nat → State → Except Nat (List Nat) × State
  | [], s => (.ok [], s)
  | o :: os, s =>
    if !blockOk r o 128 then (.error 0x0104, s)
    else
      match hubRead (cmdCtx r) r.task (cmdAddr r + BitVec.ofNat 64 o) 128 s with
      | (.error _, s) => (.error 0x0107, s)
      | (.ok b, s) =>
        let av := fieldAt b 0x28 8
        if !blockOk r o (fieldAt b 0x38 8) || decide (fieldAt b 0x38 8 < 0x16000 + 0x10000 * bits av 27 24)
            || (savedFor s (cmdCtx r) b).isNone then (.error 0x0104, s)
        else
          match checkTasks r os s with
          | (.ok l, s) => (.ok (fieldAt b 0x10 1 :: l), s)
          | e => e

/-- Check the cell blocks of an area likewise. -/
def checkCells (r : DieCmd) : List Nat → State → Except Nat (List Nat) × State
  | [], s => (.ok [], s)
  | o :: os, s =>
    if !blockOk r o cellBlockLen then (.error 0x0104, s)
    else
      match hubRead (cmdCtx r) r.task (cmdAddr r + BitVec.ofNat 64 o) 64 s with
      | (.error _, s) => (.error 0x0107, s)
      | (.ok b, s) =>
        if 128 ≤ fieldAt b 0 8 ∨ (List.range 8).any (fun p => decide (512 < fieldAt b (8 + 2 * p) 2)) = true then (.error 0x0104, s)
        else
          match checkCells r os s with
          | (.ok l, s) => (.ok (fieldAt b 0 8 :: l), s)
          | e => e

/-- A RESTORE starts: the header and the offsets are checked. -/
def startRestore (die q : Nat) (r : DieCmd) (s : State) : State :=
  if areaLen r < 4096 then failHead die q 0x0104 s
  else
    match hubRead (cmdCtx r) r.task (cmdAddr r) 4096 s with
    | (.error _, s) => failHead die q 0x0107 s
    | (.ok b, s) =>
      let nt := fieldAt b 0 8
      let nc := fieldAt b 8 8
      if fieldAt b 0x10 8 ≠ ctxidOf s (cmdCtx r) ∨ 256 < nt ∨ 128 < nc then failHead die q 0x0104 s
      else
        let toffs := (List.range nt).map fun i => fieldAt b (0x40 + 8 * i) 8
        let coffs := (List.range nc).map fun i => fieldAt b (0x840 + 8 * i) 8
        match checkTasks r toffs s with
        | (.error c, s) => failHead die q c s
        | (.ok cells, s) =>
          match checkCells r coffs s with
          | (.error c, s) => failHead die q c s
          | (.ok more, s) =>
            s.updDieq die q fun y => { y with started := true, toffs := toffs, coffs := coffs, cells := (cells ++ more).eraseDups }

/-- Restore the next task block, once its slot is FREE and its regions are free. DEDUCED, log entry 28. -/
def restoreTask (die q : Nat) (r : DieCmd) (o : Nat) (s : State) : State :=
  let ctx := cmdCtx r
  match hubRead ctx r.task (cmdAddr r + BitVec.ofNat 64 o) 128 s with
  | (.error _, s) => failHead die q 0x0107 s
  | (.ok h, s) =>
    match savedFor s ctx h with
    | none => failHead die q 0x0104 s
    | some t =>
      match hubRead ctx r.task (cmdAddr r + BitVec.ofNat 64 o) (fieldAt h 0x38 8) s with
      | (.error _, s) => failHead die q 0x0107 s
      | (.ok b, s) =>
        let y := getSlot b s.seq ctx (8 * die + q) t
        if (s.slot t.cell t.slot).st != .free || bit s.err.fencedCells t.cell || !regionsFree (s.cell t.cell) ctx (spanRegions (savedSpans y)) then s
        else (placeTask b t.cell t.slot ctx (8 * die + q) t s).updDieq die q fun y =>
          { y with toffs := y.toffs.drop 1, back := y.back ++ [(t.cell, t.slot)] }

/-- Restore the next cell block, once its paths hold no entry of another context and have room. -/
def restoreCell (die q : Nat) (r : DieCmd) (o : Nat) (s : State) : State :=
  let ctx := cmdCtx r
  match hubRead ctx r.task (cmdAddr r + BitVec.ofNat 64 o) cellBlockLen s with
  | (.error _, s) => failHead die q 0x0107 s
  | (.ok b, s) =>
    let c := fieldAt b 0 8 % 128
    let x := s.cell c
    let fits := (List.range 8).all fun p =>
      let es := getPath b p s.clk
      let d := Tab.get {} p x.defq
      es.isEmpty || ((d.ents.isEmpty || d.ctx == ctx) && decide (d.ents.length + es.length ≤ 512))
    if !fits then s
    else
      let s1 := s.updCell c fun x =>
        { x with defq := (List.range 8).foldl (fun m p =>
            let es := getPath b p s.clk
            if es.isEmpty then m else Tab.set p { ctx := ctx, ents := (pathEnts x ctx p) ++ es } m) x.defq }
      s1.updDieq die q fun y => { y with coffs := y.coffs.drop 1 }

/-- Every block is restored: the RDC generations are bumped and the tasks that no fault froze resume in one clk (R312 step 5). -/
def endRestore (die q : Nat) (r : DieCmd) (s : State) : State :=
  let l := (s.dieq die q).back.filter fun (c, k) => (s.slot c k).preBy == some (8 * die + q) && (s.slot c k).ctx == cmdCtx r
  let s1 := rdcBumpAll (cmdCtx r) s
  let g := l.foldl (fun n (c, k) => max n (restartClk s1 c k)) 0
  let s2 := l.foldl (fun t (c, k) =>
    let t1 := t.updSlot c k fun y => { y with preBy := none }
    if (t1.slot c k).frozenBy = some .forced then resumeSlot false g c k t1 else t1) s1
  completeHead die q s2

/-- RESTORE (R312). -/
def execRestore (die q : Nat) (s : State) : Out :=
  onHead die q 5 s fun r =>
    let y := s.dieq die q
    if !y.started then startRestore die q r s
    else
      match y.toffs, y.coffs with
      | o :: _, _ => restoreTask die q r o s
      | [], o :: _ => restoreCell die q r o s
      | [], [] => endRestore die q r s

end Sys2Proof.Machine
end

