-- ==== Sys2Proof/Machine/ScalarFloat.lean ====
section
/-! DEFINITION. The scalar float instructions (R98 to R102). -/

namespace Sys2Proof.Machine

open Sys2Proof

/-- The format of F[9] (R98). -/
def fty (f : Nat) : ETy := if bit f 9 then .f64 else .f32
/-- The rounding mode of F[11:10] (R98). -/
def fmode (f : Nat) : Nat := bits f 11 10
/-- An operand of a scalar float instruction: the F32 in bits [31:0], or the whole register (R98). -/
def fval (t : ETy) (a : Word) : XR := decodeF t a.toNat

/-- A scalar float instruction of format A, with latency `ls` in .s and `ld` in .d (R93, R98). -/
def fpuA (ls ld : Nat) (f : ETy → Nat → Word → Word → Word → Nat) (x : FmtA) (s : State) : Out :=
  let t := fty x.f
  let l := if t = .f64 then ld else ls
  .next (retireIn l (writeS x.d (BitVec.ofNat 64 (f t (fmode x.f) (s.rs x.a) (s.rs x.b) (s.rs x.c))) l s))

/-- Take the agent's float divide and square-root unit (R93). -/
def takeFloatDivider (l : Nat) (s : State) : State :=
  match s.cur.agent with
  | .strand c k x => s.updStrand c k x fun y => { y with fdivFree := s.clk + l }
  | .cond n => s.updCond n fun y => { y with fdivFree := s.clk + l }

/-- FDIV and FSQRT: as `fpuA`, on the float divide and square-root unit. -/
def fpuDiv (ls ld : Nat) (f : ETy → Nat → Word → Word → Nat) (x : FmtA) (s : State) : Out :=
  let t := fty x.f
  let l := if t = .f64 then ld else ls
  .next (retireIn l (takeFloatDivider l (writeS x.d (BitVec.ofNat 64 (f t (fmode x.f) (s.rs x.a) (s.rs x.b))) l s)))

/-- Round once to the precision (R98). -/
def rnd (t : ETy) (m : Nat) (v : XR) : Nat := roundFmt t m v

/-- The minimum and maximum of R64, as an encoding: a NaN result is canonical. -/
def fminV (t : ETy) (a b : Word) : Nat := roundFmt t 0 (minX (fval t a) (fval t b))
def fmaxV (t : ETy) (a b : Word) : Nat := roundFmt t 0 (maxX (fval t a) (fval t b))

/-- FCMP (R100). −0 and +0 compare equal. -/
def fcmpV (t : ETy) (p : Nat) (a b : Word) : Nat :=
  let x := fval t a
  let y := fval t b
  let eq := eqX x y
  if fpred p (x.isNan || y.isNan) (ltX x y && !eq) eq then 1 else 0

/-- The other format of FCVT (R101) as a source: its exact value. -/
def cvtSource (o : Nat) (a : Word) : XR :=
  match o with
  | 0 => decodeF .f32 a.toNat
  | 1 => decodeF .bf16 a.toNat
  | 2 => decodeF .f16 a.toNat
  | 3 => decodeF .f64 a.toNat
  | 4 => XR.ofInt a.toInt
  | 5 => XR.ofInt (a.toNat : Int)
  | 6 => XR.ofInt (sext a.toNat 32)
  | _ => XR.ofInt ((a.toNat % 2 ^ 32 : Nat) : Int)

/-- The other format of FCVT (R101) as a result: the register value. -/
def cvtResult (o m : Nat) (v : XR) : Nat :=
  match o with
  | 0 => roundFmt .f32 m v
  | 1 => roundFmt .bf16 m v
  | 2 => roundFmt .f16 m v
  | 3 => roundFmt .f64 m v
  | 4 => wrap 64 (toIntSat m (-(2 ^ 63 : Int)) (2 ^ 63 - 1) v)
  | 5 => wrap 64 (toIntSat m 0 (2 ^ 64 - 1) v)
  | 6 => wrap 64 (toIntSat m (-(2 ^ 31 : Int)) (2 ^ 31 - 1) v)
  | _ => wrap 64 (toIntSat m 0 (2 ^ 32 - 1) v)

/-- FCVT (R101). -/
def fcvtV (f : Nat) (a : Word) : Nat :=
  if bit f 8 then roundFmt (fty f) (fmode f) (cvtSource (f % 16) a) else cvtResult (f % 16) (fmode f) (fval (fty f) a)

/-- FCLASS (R102): the class bit of an encoding. -/
def fclassV (t : ETy) (a : Word) : Nat :=
  let x := a.toNat % 2 ^ t.width
  let e := x / 2 ^ t.mant % 2 ^ (t.width - 1 - t.mant)
  match decodeF t x with
  | .nan => 2 ^ 8
  | .inf s => if s then 2 ^ 0 else 2 ^ 7
  | .zero s => if s then 2 ^ 3 else 2 ^ 4
  | .fin q => if q.num < 0 then (if e = 0 then 2 ^ 2 else 2 ^ 1) else (if e = 0 then 2 ^ 5 else 2 ^ 6)

def execFadd (x : FmtA) (s : State) : Out :=
  fpuA 4 5 (fun t m a b _ => rnd t m (addX m (fval t a) (fval t b))) x s
def execFsub (x : FmtA) (s : State) : Out :=
  fpuA 4 5 (fun t m a b _ => rnd t m (addX m (fval t a) (fval t b).neg)) x s
def execFmul (x : FmtA) (s : State) : Out :=
  fpuA 4 5 (fun t m a b _ => rnd t m (mulX (fval t a) (fval t b))) x s
def execFdiv (x : FmtA) (s : State) : Out :=
  fpuDiv 12 22 (fun t m a b => rnd t m (divX (fval t a) (fval t b))) x s
def execFsqrt (x : FmtA) (s : State) : Out :=
  fpuDiv 12 24 (fun t m a _ => rnd t m (sqrtX (fval t a))) x s
def execFfma (x : FmtA) (s : State) : Out :=
  fpuA 4 5 (fun t m a b c => rnd t m (addX m (mulX (fval t a) (fval t b)) (fval t c))) x s
def execFmin (x : FmtA) (s : State) : Out := fpuA 2 2 (fun t _ a b _ => fminV t a b) x s
def execFmax (x : FmtA) (s : State) : Out := fpuA 2 2 (fun t _ a b _ => fmaxV t a b) x s
def execFcmp (x : FmtA) (s : State) : Out := fpuA 2 2 (fun t _ a b _ => fcmpV t (x.f % 8) a b) x s
def execFcvt (x : FmtA) (s : State) : Out := fpuA 3 3 (fun _ _ a _ _ => fcvtV x.f a) x s
def execFclass (x : FmtA) (s : State) : Out := fpuA 2 2 (fun t _ a _ _ => fclassV t a) x s

end Sys2Proof.Machine
end

