-- ==== Sys2Proof/Machine/TransEvents.lean ====
section
/-! DEFINITION. The walkers (R321 to R323), next-page fills (R325) and the completion of a shootdown (R334 to R336). -/

namespace Sys2Proof.Machine

open Sys2Proof

/-! ## Walks (R320 to R323) -/

/-- The cell and slot of a waiting walk. -/
def walkPlace (w : WalkReq) : Option (Nat × Nat) := match w.agent with | .strand c k _ => some (c, k) | .cond _ => none

/-- Set a stream's next-page register, or empty it (R325). -/
def setNext (c k stream : Nat) (t : Option Trans) (s : State) : State :=
  s.updSlot c k fun y => { y with pages := match t with
    | some t => Tab.set (2 * stream + 1) t y.pages
    | none => Tab.del (2 * stream + 1) y.pages }

/-- The walk of a request ends: a translation is installed, a refusal waits for its instruction, a speculative one is dropped. -/
def endWalk (w : WalkReq) (merge : Option Nat) (s : State) : State :=
  let set := (agentDie w.agent).getD hubSet
  let r := walk s set w.ctx w.va w.kind w.task w.spec merge
  let s := noteWalk set w.ctx w.va s
  match walkPlace w, w.stream, r with
  | some (c, k), some st, .ok t _ => setNext c k st (some t) s
  | some (c, k), some st, _ => setNext c k st none s
  | some (c, _), none, .ok t upd =>
    let s := installTlb c t (setAD upd s)
    if w.line then lineVia w.agent t w.va s else s
  | some _, none, .fail cause l => { s with refusals := s.refusals ++ [⟨w.agent, w.va, w.kind, cause, l⟩] }
  | _, _, _ => s

/-- Of the requests before the one at `k`, those of the same die. -/
def walksBefore (s : State) (k : Nat) (w : WalkReq) : Nat :=
  ((s.walks.take k).filter fun q => agentDie q.agent == agentDie w.agent).length

/-- PAGE_WALK (R321): the request at place `k`, one of the 192 that its die's walkers serve; `merge` is the entry of a 64 KiB group
that the device uses (R320). DESIGN CHOICE, log entry 12. -/
def execPageWalk (k : Nat) (merge : Option Nat) (s : State) : Out :=
  if s.landing then .next s
  else
    match s.walks[k]? with
    | none => .next s
    | some w =>
      if 192 ≤ walksBefore s k w then .next s
      else .next (endWalk w merge { s with walks := s.walks.take k ++ s.walks.drop (k + 1) })

/-! ## Next-page fills (R325) -/

/-- The distance of a stream in bytes, from NEXTDIST. -/
def streamDist (s : State) (stream : Nat) : Nat :=
  let v := s.host.nextdist.toNat
  64 * (if stream ≤ 3 then bits v 11 0 else if stream ≤ 6 then bits v 23 12 else bits v 35 24)

/-- The address that a stream's next-page fill translates, where one is due: the first byte of the page above or the last of
the page below. -/
def nextPage (s : State) (y : Slot) (stream : Nat) : Option Word :=
  match Tab.find (2 * stream) y.pages, Tab.find (2 * stream) y.lastVa with
  | some t, some v =>
    let down := match Tab.find (2 * stream + 1) y.lastVa with | some p => decide (v < p) | none => false
    let d := streamDist s stream
    if v / 2 ^ t.sz * 2 ^ t.sz != t.va then none
    else if down then (if v - t.va < d then some (BitVec.ofNat 64 (t.va + 2 ^ 64 - 1)) else none)
    else if t.va + 2 ^ t.sz - v < d then some (BitVec.ofNat 64 (t.va + 2 ^ t.sz))
    else none
  | _, _ => none

/-- NEXT_PAGE_FILL (R325): from the TLB where it holds the page, otherwise by a speculative walk. DEDUCED, log entry 29. -/
def execNextPageFill (cell slot stream : Nat) (s : State) : Out :=
  if s.landing || 9 ≤ stream then .next s
  else
    let y := s.slot cell slot
    if y.st = .free then .next s
    else
      match nextPage s y stream with
      | none => .next s
      | some va =>
        let asid := (s.ctxOf y.ctx).asid
        let kind := if stream ≤ 3 then 3 else 0
        let here : Bool := match Tab.find (2 * stream + 1) y.pages with | some t => t.covers asid va | none => false
        let busy := s.walks.any fun w => w.stream == some stream && walkPlace w == some (cell, slot)
        if here || busy then .next s
        else
          match (s.cell cell).tlb.find? (fun t => t.serves asid va kind) with
          | some t => .next (setNext cell slot stream (if (t.refuses kind true).isSome then none else some t) s)
          | none =>
            .next { s with walks := s.walks ++
              [{ agent := .strand cell slot .S, ctx := y.ctx, va := va, kind := kind, task := true, spec := true, stream := some stream }] }

/-! ## Shootdown (R334 to R336) -/

/-- A translation that a shootdown removes (R334). -/
def Shoot.removes (h : Shoot) (t : Trans) : Bool :=
  match h.mode with
  | 0 => t.asid == h.asid
  | 1 => t.covers h.asid h.va
  | _ => true

/-- The translations that cells, slots and the launch translation cache hold. -/
def heldTrans (s : State) : List Trans :=
  s.lcache ++ s.cells.flatMap fun (_, x) => x.tlb ++ x.slots.flatMap fun (_, y) => y.pages.map (·.2)

/-- Contexts that a shootdown names. -/
def Shoot.names (h : Shoot) (x : Ctx) : Bool := h.mode == 2 || x.asid == h.asid

/-- An access in flight that a removed translation translated (R335). DEDUCED, log entry 29. -/
def shotAccess (s : State) (h : Shoot) (gone : List Trans) (a : Acc) : Bool :=
  let asid := (s.ctxOf a.ctx).asid
  a.id != h.id && !a.elems.isEmpty && match h.mode with
    | 0 => asid == h.asid
    | 1 => asid == h.asid && a.elems.any fun e =>
        e.va.toNat / 2 ^ e.sz == h.va.toNat / 2 ^ e.sz || gone.any fun t => t.covers asid e.va
    | _ => true

/-- An engine has written a part of a granule of a drain or of the row of a TSCT (R335). -/
def LensOp.inGranule (o : LensOp) : Bool := !o.reported && o.done.any fun b => (List.range 16).any fun i => !o.done.contains (b / 16 * 16 + i)

/-- A drain or a scatter of a named context is inside a granule: it finishes it, and then translates again (R335). -/
def shotRows (s : State) (h : Shoot) : Bool :=
  s.cells.any fun (_, x) => x.ops.any fun o => match o.cmd with
    | .drain e _ => o.inGranule && (x.entry e).any fun g => h.names (s.ctxOf g.ctx)
    | .tsct e _ => o.inGranule && (x.entry e).any fun g => h.names (s.ctxOf g.ctx)
    | _ => false

/-- A copy command of a named context that has a piece in progress (R335). -/
def shotPiece (s : State) (h : Shoot) : Bool :=
  let cut (q : CopyCmd) : Bool := q.buf.isSome && h.names (s.ctxOf q.ctx)
  s.cells.any (fun (_, x) => x.copyq.any cut) || s.conds.any fun (_, y) => y.copyq.any cut

/-- Every access that was translated with a removed translation has performed, and engines have finished the pieces that they are moving
(R335). DEDUCED, log entry 29. -/
def shootReady (s : State) (h : Shoot) : Bool :=
  let gone := (heldTrans s).filter h.removes
  s.accs.all (fun a => !shotAccess s h gone a) && !shotRows s h && !shotPiece s h

/-- Remove the translations from TLBs, page registers and the launch translation cache, and empty the walker caches (R322, R334). What
walks of the contexts have refused is forgotten: such an access walks afresh (R334, R336). -/
def dropTrans (h : Shoot) (s : State) : State :=
  { s with refusals := s.refusals.filter (fun r => !h.names (s.ctxOf (s.ctxNum r.agent)))
           wcache := [], lcache := s.lcache.filter (fun t => !h.removes t), cells := s.cells.map fun (c, x) =>
      (c, { x with
        tlb := x.tlb.filter fun t => !h.removes t
        slots := x.slots.map fun (k, y) => (k, { y with pages := y.pages.filter fun q => !h.removes q.2 }) }) }

/-- Fetch of every cell sees the present bytes: of the frames that were mapped, or for .asid and .all of all memory, so that no earlier word
is left to fetch (R75, R335). DEDUCED, log entry 29. -/
def refreshFetch (h : Shoot) (gone : List Trans) (s : State) : State :=
  if h.mode = 1 then
    { s with oldWords := s.oldWords.map fun (w, a, v) =>
        (w, if gone.any fun t => decide (t.pa ≤ a) && decide (a < t.pa + 2 ^ t.sz) then 2 ^ 60 else a, v) }
  else { s with oldWords := [], cells := s.cells.map fun (c, x) => (c, { x with flushedOwn := 0, flushedAll := 0 }) }

/-- SHOOTDOWN_COMPLETE (R335): TLBI performs; fault records and completion writes of its contexts are tried again (R227, R407). -/
def execShootdownComplete (id : Nat) (s : State) : Out :=
  if s.landing then .next s
  else
    match s.shoots.find? (fun h => h.id == id), s.acc id with
    | some h, some a =>
      if !mayPerform s a || !shootReady s h then .next s
      else
        let gone := (heldTrans s).filter h.removes
        let ctxs := (s.ctxs.filter fun (_, x) => h.names x).map (·.1)
        let s1 := refreshFetch h gone (dropTrans h { s with shoots := s.shoots.filter fun q => q.id != id })
        let s2 := ctxs.foldl (fun t n => rdcBumpAll n (retryRecs n (t.updCtx n fun x => { x with blocked := false }))) s1
        .next (finishAcc a s2)
    | _, _ => .next s

end Sys2Proof.Machine
end

