-- ==== Sys2Proof/Machine/Vector.lean ====
section
/-! DEFINITION. The vector instructions (R146 to R169): element arithmetic, logic, comparison, lane movement, conversion,
packing, transcendentals, reductions, top-k and the deferral queue. -/

namespace Sys2Proof.Machine

open Sys2Proof

/-! ## Shapes of vector instructions -/

/-- Put an encoding of a type in its lane (R146): sign copies for I types, zero otherwise. -/
def placeLane (t : ETy) (v : Nat) : Nat :=
  if t.isSigned then wrap 32 (sext v t.width) else v % 2 ^ t.width

/-- A vector value whose lanes of `mask` are `f i`. -/
def vecOf (mask : Nat) (f : Nat → Nat) : Nat := ofLanes ((List.range 64).map fun i => if bit mask i then f i else 0)

/-- A lane-wise instruction of latency `l` (R149, R151): lane i of vD becomes `f` of i and the lanes i of vA, vB and vC. -/
def vlanes (l : Nat) (f : Nat → Nat → Nat → Nat → Nat) (x : FmtV) (s : State) : Out :=
  let m := s.laneMask x.mask
  let a := s.rv x.va
  let b := s.rv x.vb
  let c := s.rv x.vc
  .next (retireIn l (writeV x.vd m (vecOf m fun i => f i (laneOf a i) (laneOf b i) (laneOf c i)) l s))

/-- Wrap or saturate an exact integer result to a type (R148). -/
def fitInt (t : ETy) (sat : Bool) (x : Int) : Nat := wrap t.width (if sat then clampI t.imin t.imax x else x)

/-- A typed lane operation: on exact values rounded once, or on integers wrapped or saturated (R148). -/
def typedLane (x : FmtV) (ff : XR → XR → XR → XR) (fi : Int → Int → Int → Int) (a b c : Nat) : Nat :=
  let t := ETy.ofCode x.ty
  if t.isFloat then placeLane t (roundFmt t x.rnd (ff (decodeF t a) (decodeF t b) (decodeF t c)))
  else placeLane t (fitInt t (x.rnd == 1) (fi (decodeI t a) (decodeI t b) (decodeI t c)))

/-- A typed lane-wise instruction. -/
def vtyped (l : Nat) (ff : Nat → XR → XR → XR → XR) (fi : Int → Int → Int → Int) (x : FmtV) (s : State) : Out :=
  vlanes l (fun _ a b c => typedLane x (ff x.rnd) fi a b c) x s

/-! ## Element arithmetic (R152) -/

def execVadd (x : FmtV) (s : State) : Out := vtyped 3 (fun m a b _ => addX m a b) (fun a b _ => a + b) x s
def execVsub (x : FmtV) (s : State) : Out := vtyped 3 (fun m a b _ => addX m a b.neg) (fun a b _ => a - b) x s
def execVmul (x : FmtV) (s : State) : Out := vtyped 5 (fun _ a b _ => mulX a b) (fun a b _ => a * b) x s
def execVfma (x : FmtV) (s : State) : Out :=
  vtyped 5 (fun m a b c => addX m (mulX a b) c) (fun a b c => a * b + c) x s
def execVfms (x : FmtV) (s : State) : Out :=
  vtyped 5 (fun m a b c => addX m (mulX a b) c.neg) (fun a b c => a * b - c) x s
def execVmin (x : FmtV) (s : State) : Out :=
  vtyped 3 (fun _ a b _ => minX a b) (fun a b _ => if b < a then b else a) x s
def execVmax (x : FmtV) (s : State) : Out :=
  vtyped 3 (fun _ a b _ => maxX a b) (fun a b _ => if a < b then b else a) x s

/-- A sign operation on a float encoding: a NaN becomes canonical, every other encoding changes only its sign bit (R152). -/
def signLane (t : ETy) (f : Bool → Bool) (a : Nat) : Nat :=
  if (decodeF t a).isNan then nanOf t
  else a % 2 ^ (t.width - 1) + (if f (bit a (t.width - 1)) then 2 ^ (t.width - 1) else 0)

/-- VABS and VNEG. -/
def vsign (f : Bool → Bool) (fi : Int → Int) (x : FmtV) (s : State) : Out :=
  let t := ETy.ofCode x.ty
  vlanes 3 (fun _ a _ _ => placeLane t
    (if t.isFloat then signLane t f a else fitInt t (x.rnd == 1) (fi (decodeI t a)))) x s
def execVabs (x : FmtV) (s : State) : Out := vsign (fun _ => false) (fun a => (a.natAbs : Int)) x s
def execVneg (x : FmtV) (s : State) : Out := vsign (fun b => !b) (fun a => -a) x s

/-! ## Fused add-minimum, add-maximum, dot products (R153, R154) -/

/-- VFAM and VFAX: `pickF` and `pickI` take the smaller or the larger. -/
def vfused (pickF : XR → XR → XR) (pickI : Int → Int → Int) (x : FmtV) (s : State) : Out :=
  let t := ETy.ofCode x.ty
  vlanes 5 (fun _ a b c =>
    if t.isFloat then roundFmt t x.rnd (pickF (addX x.rnd (decodeF t a) (decodeF t b)) (decodeF t c))
    else placeLane t (fitInt t true (pickI (decodeI t a + decodeI t b) (decodeI t c)))) x s
def execVfam (x : FmtV) (s : State) : Out := vfused minX (fun a b => if b < a then b else a) x s
def execVfax (x : FmtV) (s : State) : Out := vfused maxX (fun a b => if a < b then b else a) x s

/-- One lane of VDOT4. -/
def dot4Lane (x : FmtV) (a b c : Nat) : Nat :=
  let t := ETy.ofCode x.ty
  let el (v j : Nat) : Nat := v / 256 ^ j % 256
  if t.isFloat then
    let sum := sumX ((List.range 4).map fun j => mulX (decodeF t (el a j)) (decodeF t (el b j)))
    roundFmt .f32 x.rnd (addX x.rnd (decodeF .f32 c) sum)
  else
    let u : ETy := if t.isSigned then .i32 else .n32
    let sum := (List.range 4).foldl (fun n j => n + decodeI t (el a j) * decodeI t (el b j)) (decodeI u c)
    fitInt u (x.rnd == 1) sum
def execVdot4 (x : FmtV) (s : State) : Out := vlanes 5 (fun _ a b c => dot4Lane x a b c) x s

/-! ## Logic, shifts and moves (R155) -/

def execVand (x : FmtV) (s : State) : Out := vlanes 2 (fun _ a b _ => a &&& b) x s
def execVor (x : FmtV) (s : State) : Out := vlanes 2 (fun _ a b _ => a ||| b) x s
def execVxor (x : FmtV) (s : State) : Out := vlanes 2 (fun _ a b _ => a ^^^ b) x s
def execVnot (x : FmtV) (s : State) : Out := vlanes 2 (fun _ a _ _ => 2 ^ 32 - 1 - a) x s
def execVshl (x : FmtV) (s : State) : Out := vlanes 2 (fun _ a b _ => a * 2 ^ (b % 32) % 2 ^ 32) x s
def execVshr (x : FmtV) (s : State) : Out := vlanes 2 (fun _ a b _ => a / 2 ^ (b % 32)) x s
def execVsha (x : FmtV) (s : State) : Out :=
  vlanes 2 (fun _ a b _ => wrap 32 (sext a 32 / ((2 ^ (b % 32) : Nat) : Int))) x s
def execVsel (x : FmtV) (s : State) : Out :=
  let c := (s.rs x.vc).toNat
  vlanes 2 (fun i a b _ => if bit c i then a else b) x s
def execVmov (x : FmtV) (s : State) : Out := vlanes 2 (fun _ a _ _ => a) x s
def execVbcst (x : FmtV) (s : State) : Out :=
  let a := (s.rs x.va).toNat % 2 ^ 32
  vlanes 2 (fun _ _ _ _ => a) x s
def execViota (x : FmtV) (s : State) : Out :=
  let a := (s.rs x.va).toNat
  let b := (s.rs x.vb).toNat
  vlanes 2 (fun i _ _ _ => (a + i * b) % 2 ^ 32) x s

/-! ## Compare (R156) -/

/-- A VCMP predicate on two elements. -/
def vpred (x : FmtV) (a b : Nat) : Bool :=
  let t := ETy.ofCode x.ty
  if t.isFloat then
    let p := decodeF t a
    let q := decodeF t b
    let eq := eqX p q
    fpred x.sub (p.isNan || q.isNan) (ltX p q && !eq) eq
  else
    let p := decodeI t a
    let q := decodeI t b
    fpred x.sub false (decide (p < q)) (decide (p = q))

def execVcmp (x : FmtV) (s : State) : Out :=
  let m := s.laneMask x.mask
  let a := s.rv x.va
  let b := s.rv x.vb
  let r := ofBits ((setBits 64 m).filter fun i => vpred x (laneOf a i) (laneOf b i))
  .next (retireIn 3 (writeVS x.vd (BitVec.ofNat 64 r) 3 s))

/-! ## Lane movement (R157) -/

def execVperm (x : FmtV) (s : State) : Out :=
  let v := s.rv x.va
  vlanes 3 (fun _ _ b _ => laneOf v (b % 64)) x s

def execVlsh (x : FmtV) (s : State) : Out :=
  let v := s.rv x.va
  let n := (s.rs x.vb).toInt
  let c := (s.rs x.vc).toNat % 2 ^ 32
  if n < -64 ∨ 64 < n then .next (illegal 7 s)
  else vlanes 3 (fun i _ _ _ =>
    let j := (i : Int) - n
    if 0 ≤ j ∧ j ≤ 63 then laneOf v j.toNat else c) x s

def execVlrot (x : FmtV) (s : State) : Out :=
  let v := s.rv x.va
  let n := (s.rs x.vb).toNat % 64
  vlanes 3 (fun i _ _ _ => laneOf v ((i + 64 - n) % 64)) x s

def execVext (x : FmtV) (s : State) : Out :=
  let v := s.rv x.va
  let i := (s.rs x.vb).toNat % 64
  .next (retireIn 3 (writeVS x.vd (BitVec.ofNat 64 (laneOf v i)) 3 s))

def execVins (x : FmtV) (s : State) : Out :=
  let a := (s.rs x.va).toNat % 2 ^ 32
  let i := (s.rs x.vb).toNat % 64
  .next (retireIn 2 (writeV x.vd (2 ^ i) (a * 2 ^ (32 * i)) 2 s))

/-! ## Conversion and packing (R158 to R160) -/

def execVcvt (x : FmtV) (s : State) : Out :=
  let t := ETy.ofCode x.ty
  let u := ETy.ofCode x.sub
  vlanes 4 (fun _ a _ _ => placeLane t (convert t u x.rnd (bit x.vb 0) a)) x s

def execVcvts (x : FmtV) (s : State) : Out :=
  let t := ETy.ofCode x.ty
  let key := (s.rs x.vb).toNat
  vlanes 4 (fun i a _ _ => placeLane t (convertS t key (4 * i) a)) x s

/-- Bytes that a part of a packed register spans (R160). -/
def packSpan (t : ETy) : Nat := 8 * t.width

def execVpack (x : FmtV) (s : State) : Out :=
  let t := ETy.ofCode x.ty
  let a := s.rv x.va
  let n := packSpan t
  let part := (List.range 64).foldr (fun i v => laneOf a i % 2 ^ t.width + 2 ^ t.width * v) 0
  let lanes := ofBits ((List.range (n / 4)).map fun j => x.sub * n / 4 + j)
  .next (retireIn 4 (writeV x.vd lanes (part * 256 ^ (x.sub * n)) 4 s))

def execVunpk (x : FmtV) (s : State) : Out :=
  let t := ETy.ofCode x.ty
  let part := s.rv x.va / 256 ^ (x.sub * packSpan t)
  vlanes 4 (fun i _ _ _ => placeLane t (part / 2 ^ (t.width * i) % 2 ^ t.width)) x s

/-! ## Transcendentals (R161) -/

/-- A transcendental by its number in R67. -/
def vtrans (op : Nat) (x : FmtV) (s : State) : Out :=
  let t := ETy.ofCode x.ty
  vlanes 10 (fun _ a _ _ => transLane op t (a % 2 ^ t.width)) x s
def execVrcp (x : FmtV) (s : State) : Out := vtrans 0 x s
def execVrsq (x : FmtV) (s : State) : Out := vtrans 1 x s
def execVexp2 (x : FmtV) (s : State) : Out := vtrans 2 x s
def execVlog2 (x : FmtV) (s : State) : Out := vtrans 3 x s
def execVsin (x : FmtV) (s : State) : Out := vtrans 4 x s
def execVtanh (x : FmtV) (s : State) : Out := vtrans 5 x s

/-! ## Reductions, scans and top-k (R162 to R164) -/

/-- An integer or rounded float sum of elements as a 64-bit value (R162). -/
def vsum (x : FmtV) (l : List Nat) : Nat :=
  let t := ETy.ofCode x.ty
  if t.isFloat then roundFmt t x.rnd (sumX (l.map (decodeF t)))
  else wrap 64 (l.foldl (fun n a => n + decodeI t a) 0)

def execVreds (x : FmtV) (s : State) : Out :=
  let v := s.rv x.va
  let r := vsum x ((setBits 64 (s.laneMask x.mask)).map (laneOf v))
  .next (retireIn 8 (writeVS x.vd (BitVec.ofNat 64 r) 8 s))

/-- The minimum or maximum of VREDM (R163). -/
def vredm (x : FmtV) (l : List Nat) : Nat :=
  let t := ETy.ofCode x.ty
  let isMax := bit x.sub 0
  if t.isFloat then
    roundFmt t 0 (l.foldl (fun r a => if isMax then maxX r (decodeF t a) else minX r (decodeF t a)) .nan)
  else
    wrap 64 (l.foldl (fun r a =>
      let v := decodeI t a
      if isMax then (if r < v then v else r) else (if v < r then v else r)) (if isMax then t.imin else t.imax))

def execVredm (x : FmtV) (s : State) : Out :=
  let v := s.rv x.va
  let r := vredm x ((setBits 64 (s.laneMask x.mask)).map (laneOf v))
  .next (retireIn 8 (writeVS x.vd (BitVec.ofNat 64 r) 8 s))

/-- One prefix of VSCAN over the selected lanes below `n`. -/
def scanLane (x : FmtV) (m v n : Nat) : Nat :=
  let t := ETy.ofCode x.ty
  let l := (setBits n m).map (laneOf v)
  if t.isFloat then placeLane t (roundFmt t x.rnd (sumX (l.map (decodeF t))))
  else placeLane t (fitInt t (x.rnd == 1) (l.foldl (fun k a => k + decodeI t a) 0))

def execVscan (x : FmtV) (s : State) : Out :=
  let v := s.rv x.va
  let m := s.laneMask x.mask
  let excl := bit x.sub 0
  vlanes 10 (fun i _ _ _ => scanLane x m v (if excl then i else i + 1)) x s

/-- Whether element `a` ranks strictly before `b` (R164). -/
def topBefore (t : ETy) (lo : Bool) (a b : Nat) : Bool :=
  if t.isFloat then
    let p := decodeF t a
    let q := decodeF t b
    if p.isNan then false
    else if q.isNan then true
    else if lo then ltX p q else ltX q p
  else if lo then decide (decodeI t a < decodeI t b) else decide (decodeI t b < decodeI t a)

/-- Insert a (lane, element) pair after every pair that it does not rank strictly before. -/
def topInsert (t : ETy) (lo : Bool) (p : Nat × Nat) : List (Nat × Nat) → List (Nat × Nat)
  | [] => [p]
  | q :: r => if topBefore t lo p.2 q.2 then p :: q :: r else q :: topInsert t lo p r

/-- VTOPK (R164). With .val of F32 a NaN lane is delivered as the element it is, its own bits and not those of R54's canonical NaN: the
instruction moves elements and produces none. DEDUCED, log entry 52. -/
def execVtopk (x : FmtV) (s : State) : Out :=
  let k := (s.rs x.vb).toInt
  if k < 1 ∨ 64 < k then .next (illegal 7 s)
  else
    let t := ETy.ofCode x.ty
    let v := s.rv x.va
    let ranked := (setBits 64 (s.laneMask x.mask)).foldl (fun r i => topInsert t (bit x.sub 1) (i, laneOf v i) r) []
    let out := ofLanes ((List.range 64).map fun j =>
      match ranked[j]? with
      | some (i, e) => if bit x.sub 0 then e else i
      | none => 0xFFFFFFFF)
    .next (retireIn 16 (writeV x.vd (2 ^ k.toNat - 1) out 16 s))

/-! ## The deferral queue (R165 to R169) -/

/-- Path `p` of a cell. -/
def Cell.path (x : Cell) (p : Nat) : DefPath := Tab.get {} p x.defq

/-- Whether a VDEFQ of `k` lanes finds room. -/
def defRoom (q : DefPath) (k : Nat) : Bool := decide (q.ents.length + k ≤ 512)

/-- VDEFQ (R166). A strand is not ready until every wait holds (R46), so a path with too little room holds it whoever's entries are there.
DEDUCED, log entry 68. -/
def execVdefq (x : FmtV) (s : State) : Out :=
  match s.cur.agent with
  | .cond _ => .next s
  | .strand c k _ =>
    let sl := s.slot c k
    let p := x.vd % 8
    let q := (s.cell c).path p
    let lanes := setBits 64 (s.laneMask x.mask)
    if !defRoom q lanes.length then .next s
    else if !q.ents.isEmpty && q.ctx != sl.ctx then .next (illegal 7 s)
    else
      let n := x.sub % 4 + 1
      let val (m i : Nat) : BitVec 32 := if m < n then BitVec.ofNat 32 (laneOf (s.rv (x.va + m)) i) else 0
      let new := lanes.map fun i =>
        { v0 := val 0 i, v1 := val 1 i, v2 := val 2 i, v3 := val 3 i
          o := BitVec.ofNat 32 (sl.taskId % 2 ^ 23 * 512 + k * 64 + i), clk := s.clk : DefEntry }
      .next (retire .now (.clk (s.clk + 1)) (s.updCell c fun cl =>
        { cl with defq := Tab.set p { ctx := if new.isEmpty then q.ctx else sl.ctx, ents := q.ents ++ new } cl.defq }))

/-- Value word `m` of an entry. -/
def DefEntry.v (e : DefEntry) (m : Nat) : Nat :=
  (match m with | 0 => e.v0 | 1 => e.v1 | 2 => e.v2 | _ => e.v3).toNat

def execVdefd (x : FmtV) (s : State) : Out :=
  match s.cur.agent with
  | .cond _ => .next s
  | .strand c k st =>
    let sl := s.slot c k
    let p := x.vb % 8
    let n := defCount s c p sl.ctx
    let part := bit x.sub 2
    if !part && decide (n < 64) then .next s
    else
      let j := min n 64
      let q := (s.cell c).path p
      let out := q.ents.take j
      let mask := 2 ^ j - 1
      let s1 := s.updCell c fun cl => { cl with defq := Tab.set p { q with ents := q.ents.drop j } cl.defq }
      let s2 := s1.updStrand c k st fun y => { y with defsel := p }
      let s3 := (List.range (x.sub % 4 + 1)).foldl
        (fun t m => writeV (x.vd + m) mask (ofLanes (out.map fun e => e.v m)) 4 t) s2
      let s4 := writeV x.va mask (ofLanes (out.map fun e => e.o.toNat)) 4 s3
      .next (retireIn 4 (writeVS x.vc (BitVec.ofNat 64 mask) 4 s4))

def execVdefn (x : FmtV) (s : State) : Out :=
  match s.cur.agent with
  | .cond _ => .next s
  | .strand c k _ =>
    .next (retireIn 2 (writeVS x.vd (BitVec.ofNat 64 (defCount s c (x.vb % 8) (s.slot c k).ctx)) 2 s))

end Sys2Proof.Machine
end

