-- ==== Sys2Proof/Machine/Dispatch.lean ====
section
/-! DEFINITION. The dispatch: one arm per instruction, each one direct call of its meaning. -/

namespace Sys2Proof.Machine

open Sys2Proof

/-- The meaning of an instruction in a state. -/
def exec (i : Instr) (s : State) : Host.Outcome State Fault Refusal :=
  match i with
  | .add x0 => Sys2Proof.Machine.execAdd x0 s
  | .addi x0 => Sys2Proof.Machine.execAddi x0 s
  | .sub x0 => Sys2Proof.Machine.execSub x0 s
  | .mul x0 => Sys2Proof.Machine.execMul x0 s
  | .mulh x0 => Sys2Proof.Machine.execMulh x0 s
  | .mulhn x0 => Sys2Proof.Machine.execMulhn x0 s
  | .madd x0 => Sys2Proof.Machine.execMadd x0 s
  | .div x0 => Sys2Proof.Machine.execDiv x0 s
  | .divn x0 => Sys2Proof.Machine.execDivn x0 s
  | .rem x0 => Sys2Proof.Machine.execRem x0 s
  | .remn x0 => Sys2Proof.Machine.execRemn x0 s
  | .and x0 => Sys2Proof.Machine.execAnd x0 s
  | .andi x0 => Sys2Proof.Machine.execAndi x0 s
  | .or x0 => Sys2Proof.Machine.execOr x0 s
  | .ori x0 => Sys2Proof.Machine.execOri x0 s
  | .xor x0 => Sys2Proof.Machine.execXor x0 s
  | .andn x0 => Sys2Proof.Machine.execAndn x0 s
  | .shl x0 => Sys2Proof.Machine.execShl x0 s
  | .shli x0 => Sys2Proof.Machine.execShli x0 s
  | .shr x0 => Sys2Proof.Machine.execShr x0 s
  | .shri x0 => Sys2Proof.Machine.execShri x0 s
  | .sha x0 => Sys2Proof.Machine.execSha x0 s
  | .shai x0 => Sys2Proof.Machine.execShai x0 s
  | .rol x0 => Sys2Proof.Machine.execRol x0 s
  | .clz x0 => Sys2Proof.Machine.execClz x0 s
  | .ctz x0 => Sys2Proof.Machine.execCtz x0 s
  | .pcnt x0 => Sys2Proof.Machine.execPcnt x0 s
  | .min x0 => Sys2Proof.Machine.execMin x0 s
  | .max x0 => Sys2Proof.Machine.execMax x0 s
  | .minn x0 => Sys2Proof.Machine.execMinn x0 s
  | .maxn x0 => Sys2Proof.Machine.execMaxn x0 s
  | .slt x0 => Sys2Proof.Machine.execSlt x0 s
  | .sltn x0 => Sys2Proof.Machine.execSltn x0 s
  | .seq x0 => Sys2Proof.Machine.execSeq x0 s
  | .sel x0 => Sys2Proof.Machine.execSel x0 s
  | .li x0 => Sys2Proof.Machine.execLi x0 s
  | .liw x0 x1 => Sys2Proof.Machine.execLiw x0 x1 s
  | .bext x0 => Sys2Proof.Machine.execBext x0 s
  | .bins x0 => Sys2Proof.Machine.execBins x0 s
  | .fadd x0 => Sys2Proof.Machine.execFadd x0 s
  | .fsub x0 => Sys2Proof.Machine.execFsub x0 s
  | .fmul x0 => Sys2Proof.Machine.execFmul x0 s
  | .fdiv x0 => Sys2Proof.Machine.execFdiv x0 s
  | .fsqrt x0 => Sys2Proof.Machine.execFsqrt x0 s
  | .ffma x0 => Sys2Proof.Machine.execFfma x0 s
  | .fmin x0 => Sys2Proof.Machine.execFmin x0 s
  | .fmax x0 => Sys2Proof.Machine.execFmax x0 s
  | .fcmp x0 => Sys2Proof.Machine.execFcmp x0 s
  | .fcvt x0 => Sys2Proof.Machine.execFcvt x0 s
  | .fclass x0 => Sys2Proof.Machine.execFclass x0 s
  | .beq x0 => Sys2Proof.Machine.execBeq x0 s
  | .bne x0 => Sys2Proof.Machine.execBne x0 s
  | .blt x0 => Sys2Proof.Machine.execBlt x0 s
  | .bge x0 => Sys2Proof.Machine.execBge x0 s
  | .bltn x0 => Sys2Proof.Machine.execBltn x0 s
  | .bgen x0 => Sys2Proof.Machine.execBgen x0 s
  | .jmp x0 => Sys2Proof.Machine.execJmp x0 s
  | .jal x0 => Sys2Proof.Machine.execJal x0 s
  | .jr x0 => Sys2Proof.Machine.execJr x0 s
  | .loopi x0 => Sys2Proof.Machine.execLoopi x0 s
  | .loop x0 => Sys2Proof.Machine.execLoop x0 s
  | .rep x0 => Sys2Proof.Machine.execRep x0 s
  | .repRepetition x0 => Sys2Proof.Machine.execRepRepetition x0 s
  | .yield x0 => Sys2Proof.Machine.execYield x0 s
  | .endStrand x0 => Sys2Proof.Machine.execEndStrand x0 s
  | .nop x0 => Sys2Proof.Machine.execNop x0 s
  | .ld x0 => Sys2Proof.Machine.execLd x0 s
  | .st x0 => Sys2Proof.Machine.execSt x0 s
  | .prefL1 x0 => Sys2Proof.Machine.execPrefL1 x0 s
  | .prefL2 x0 => Sys2Proof.Machine.execPrefL2 x0 s
  | .cinvLine x0 => Sys2Proof.Machine.execCinvLine x0 s
  | .cinvDie x0 => Sys2Proof.Machine.execCinvDie x0 s
  | .cinvPkg x0 => Sys2Proof.Machine.execCinvPkg x0 s
  | .amo x0 => Sys2Proof.Machine.execAmo x0 s
  | .cas x0 => Sys2Proof.Machine.execCas x0 s
  | .fence x0 => Sys2Proof.Machine.execFence x0 s
  | .vld x0 => Sys2Proof.Machine.execVld x0 s
  | .vst x0 => Sys2Proof.Machine.execVst x0 s
  | .vgth x0 => Sys2Proof.Machine.execVgth x0 s
  | .vsct x0 => Sys2Proof.Machine.execVsct x0 s
  | .stat x0 => Sys2Proof.Machine.execStat x0 s
  | .ldnb x0 => Sys2Proof.Machine.execLdnb x0 s
  | .pld x0 => Sys2Proof.Machine.execPld x0 s
  | .pst x0 => Sys2Proof.Machine.execPst x0 s
  | .pamo x0 => Sys2Proof.Machine.execPamo x0 s
  | .pcas x0 => Sys2Proof.Machine.execPcas x0 s
  | .pstat x0 => Sys2Proof.Machine.execPstat x0 s
  | .pldnb x0 => Sys2Proof.Machine.execPldnb x0 s
  | .mcst x0 => Sys2Proof.Machine.execMcst x0 s
  | .bst x0 => Sys2Proof.Machine.execBst x0 s
  | .bamo x0 => Sys2Proof.Machine.execBamo x0 s
  | .bld x0 => Sys2Proof.Machine.execBld x0 s
  | .mcpy x0 => Sys2Proof.Machine.execMcpy x0 s
  | .mcpyFp x0 => Sys2Proof.Machine.execMcpyFp x0 s
  | .mcpyHash x0 => Sys2Proof.Machine.execMcpyHash x0 s
  | .mcmp x0 => Sys2Proof.Machine.execMcmp x0 s
  | .vadd x0 => Sys2Proof.Machine.execVadd x0 s
  | .vsub x0 => Sys2Proof.Machine.execVsub x0 s
  | .vmul x0 => Sys2Proof.Machine.execVmul x0 s
  | .vfma x0 => Sys2Proof.Machine.execVfma x0 s
  | .vfms x0 => Sys2Proof.Machine.execVfms x0 s
  | .vmin x0 => Sys2Proof.Machine.execVmin x0 s
  | .vmax x0 => Sys2Proof.Machine.execVmax x0 s
  | .vabs x0 => Sys2Proof.Machine.execVabs x0 s
  | .vneg x0 => Sys2Proof.Machine.execVneg x0 s
  | .vand x0 => Sys2Proof.Machine.execVand x0 s
  | .vor x0 => Sys2Proof.Machine.execVor x0 s
  | .vxor x0 => Sys2Proof.Machine.execVxor x0 s
  | .vnot x0 => Sys2Proof.Machine.execVnot x0 s
  | .vshl x0 => Sys2Proof.Machine.execVshl x0 s
  | .vshr x0 => Sys2Proof.Machine.execVshr x0 s
  | .vsha x0 => Sys2Proof.Machine.execVsha x0 s
  | .vcmp x0 => Sys2Proof.Machine.execVcmp x0 s
  | .vsel x0 => Sys2Proof.Machine.execVsel x0 s
  | .vmov x0 => Sys2Proof.Machine.execVmov x0 s
  | .vbcst x0 => Sys2Proof.Machine.execVbcst x0 s
  | .viota x0 => Sys2Proof.Machine.execViota x0 s
  | .vext x0 => Sys2Proof.Machine.execVext x0 s
  | .vins x0 => Sys2Proof.Machine.execVins x0 s
  | .vcvt x0 => Sys2Proof.Machine.execVcvt x0 s
  | .vcvts x0 => Sys2Proof.Machine.execVcvts x0 s
  | .vpack x0 => Sys2Proof.Machine.execVpack x0 s
  | .vunpk x0 => Sys2Proof.Machine.execVunpk x0 s
  | .vrcp x0 => Sys2Proof.Machine.execVrcp x0 s
  | .vrsq x0 => Sys2Proof.Machine.execVrsq x0 s
  | .vexp2 x0 => Sys2Proof.Machine.execVexp2 x0 s
  | .vlog2 x0 => Sys2Proof.Machine.execVlog2 x0 s
  | .vsin x0 => Sys2Proof.Machine.execVsin x0 s
  | .vtanh x0 => Sys2Proof.Machine.execVtanh x0 s
  | .vreds x0 => Sys2Proof.Machine.execVreds x0 s
  | .vredm x0 => Sys2Proof.Machine.execVredm x0 s
  | .vscan x0 => Sys2Proof.Machine.execVscan x0 s
  | .vperm x0 => Sys2Proof.Machine.execVperm x0 s
  | .vlsh x0 => Sys2Proof.Machine.execVlsh x0 s
  | .vlrot x0 => Sys2Proof.Machine.execVlrot x0 s
  | .vfam x0 => Sys2Proof.Machine.execVfam x0 s
  | .vfax x0 => Sys2Proof.Machine.execVfax x0 s
  | .vdot4 x0 => Sys2Proof.Machine.execVdot4 x0 s
  | .vtopk x0 => Sys2Proof.Machine.execVtopk x0 s
  | .vdefq x0 => Sys2Proof.Machine.execVdefq x0 s
  | .vdefd x0 => Sys2Proof.Machine.execVdefd x0 s
  | .vdefn x0 => Sys2Proof.Machine.execVdefn x0 s
  | .thndLd x0 => Sys2Proof.Machine.execThndLd x0 s
  | .thndSetc x0 => Sys2Proof.Machine.execThndSetc x0 s
  | .thndAddc x0 => Sys2Proof.Machine.execThndAddc x0 s
  | .thndGetc x0 => Sys2Proof.Machine.execThndGetc x0 s
  | .tfill x0 => Sys2Proof.Machine.execTfill x0 s
  | .tfillm x0 x1 => Sys2Proof.Machine.execTfillm x0 x1 s
  | .talloc x0 => Sys2Proof.Machine.execTalloc x0 s
  | .tdrain x0 => Sys2Proof.Machine.execTdrain x0 s
  | .tpost x0 => Sys2Proof.Machine.execTpost x0 s
  | .thint x0 => Sys2Proof.Machine.execThint x0 s
  | .tpref x0 => Sys2Proof.Machine.execTpref x0 s
  | .titin x0 => Sys2Proof.Machine.execTitin x0 s
  | .tinv x0 => Sys2Proof.Machine.execTinv x0 s
  | .tld x0 => Sys2Proof.Machine.execTld x0 s
  | .tst x0 => Sys2Proof.Machine.execTst x0 s
  | .tgth x0 => Sys2Proof.Machine.execTgth x0 s
  | .tsct x0 => Sys2Proof.Machine.execTsct x0 s
  | .tver x0 => Sys2Proof.Machine.execTver x0 s
  | .tqrel x0 => Sys2Proof.Machine.execTqrel x0 s
  | .mma x0 => Sys2Proof.Machine.execMma x0 s
  | .mmas x0 => Sys2Proof.Machine.execMmas x0 s
  | .aclr x0 => Sys2Proof.Machine.execAclr x0 s
  | .acommit x0 => Sys2Proof.Machine.execAcommit x0 s
  | .adiscard x0 => Sys2Proof.Machine.execAdiscard x0 s
  | .amov x0 => Sys2Proof.Machine.execAmov x0 s
  | .adrn x0 => Sys2Proof.Machine.execAdrn x0 s
  | .kset x0 => Sys2Proof.Machine.execKset x0 s
  | .kget x0 => Sys2Proof.Machine.execKget x0 s
  | .launch x0 => Sys2Proof.Machine.execLaunch x0 s
  | .qpush x0 => Sys2Proof.Machine.execQpush x0 s
  | .semw x0 => Sys2Proof.Machine.execSemw x0 s
  | .semadd x0 => Sys2Proof.Machine.execSemadd x0 s
  | .bara x0 => Sys2Proof.Machine.execBara x0 s
  | .barw x0 => Sys2Proof.Machine.execBarw x0 s
  | .barm x0 => Sys2Proof.Machine.execBarm x0 s
  | .coll x0 => Sys2Proof.Machine.execColl x0 s
  | .collw x0 => Sys2Proof.Machine.execCollw x0 s
  | .sysr x0 => Sys2Proof.Machine.execSysr x0 s
  | .sysw x0 => Sys2Proof.Machine.execSysw x0 s
  | .trap x0 => Sys2Proof.Machine.execTrap x0 s
  | .eret x0 => Sys2Proof.Machine.execEret x0 s
  | .eretKill x0 => Sys2Proof.Machine.execEretKill x0 s
  | .eretSkip x0 => Sys2Proof.Machine.execEretSkip x0 s
  | .ppt x0 => Sys2Proof.Machine.execPpt x0 s
  | .time x0 => Sys2Proof.Machine.execTime x0 s
  | .timeNbt x0 => Sys2Proof.Machine.execTimeNbt x0 s
  | .tlbiAsid x0 => Sys2Proof.Machine.execTlbiAsid x0 s
  | .tlbiPage x0 => Sys2Proof.Machine.execTlbiPage x0 s
  | .tlbiAll x0 => Sys2Proof.Machine.execTlbiAll x0 s
  | .iflush x0 => Sys2Proof.Machine.execIflush x0 s
  | .brk x0 => Sys2Proof.Machine.execBrk x0 s
  | .waite x0 => Sys2Proof.Machine.execWaite x0 s
  | .resultWriteback x0 => Sys2Proof.Machine.execResultWriteback x0 s
  | .accessPerform x0 x1 => Sys2Proof.Machine.execAccessPerform x0 x1 s
  | .remoteReply x0 x1 => Sys2Proof.Machine.execRemoteReply x0 x1 s
  | .peerAccessArrive x0 => Sys2Proof.Machine.execPeerAccessArrive x0 s
  | .timeTaggedStoreAccept x0 => Sys2Proof.Machine.execTimeTaggedStoreAccept x0 s
  | .heldStorePerform x0 => Sys2Proof.Machine.execHeldStorePerform x0 s
  | .lateStoreReport x0 => Sys2Proof.Machine.execLateStoreReport x0 s
  | .ldnbRelease x0 => Sys2Proof.Machine.execLdnbRelease x0 s
  | .mcstComplete x0 => Sys2Proof.Machine.execMcstComplete x0 s
  | .asyncFaultRaise x0 => Sys2Proof.Machine.execAsyncFaultRaise x0 s
  | .faultReportAfterIssue x0 => Sys2Proof.Machine.execFaultReportAfterIssue x0 s
  | .faultRecordWrite x0 => Sys2Proof.Machine.execFaultRecordWrite x0 s
  | .slateLanding x0 => Sys2Proof.Machine.execSlateLanding x0 s
  | .endingComplete x0 x1 => Sys2Proof.Machine.execEndingComplete x0 x1 s
  | .copyPiece x0 x1 => Sys2Proof.Machine.execCopyPiece x0 x1 s
  | .lensAllocate x0 x1 => Sys2Proof.Machine.execLensAllocate x0 x1 s
  | .frameScan x0 => Sys2Proof.Machine.execFrameScan x0 s
  | .pinExhaustion x0 x1 => Sys2Proof.Machine.execPinExhaustion x0 x1 s
  | .spill x0 x1 => Sys2Proof.Machine.execSpill x0 x1 s
  | .spillReadback x0 x1 => Sys2Proof.Machine.execSpillReadback x0 x1 s
  | .fillResolve x0 x1 x2 => Sys2Proof.Machine.execFillResolve x0 x1 x2 s
  | .lensTransferServe x0 x1 => Sys2Proof.Machine.execLensTransferServe x0 x1 s
  | .fillGranuleLand x0 x1 x2 => Sys2Proof.Machine.execFillGranuleLand x0 x1 x2 s
  | .drainGrant x0 x1 => Sys2Proof.Machine.execDrainGrant x0 x1 s
  | .drainPublish x0 x1 => Sys2Proof.Machine.execDrainPublish x0 x1 s
  | .versionNotice x0 => Sys2Proof.Machine.execVersionNotice x0 s
  | .tqrelRecord x0 => Sys2Proof.Machine.execTqrelRecord x0 s
  | .replayHandoff x0 => Sys2Proof.Machine.execReplayHandoff x0 s
  | .mmaAccept x0 => Sys2Proof.Machine.execMmaAccept x0 s
  | .arrayRowWrite x0 => Sys2Proof.Machine.execArrayRowWrite x0 s
  | .accumRowWrite x0 => Sys2Proof.Machine.execAccumRowWrite x0 s
  | .launchAccept x0 => Sys2Proof.Machine.execLaunchAccept x0 s
  | .blockRequest x0 x1 => Sys2Proof.Machine.execBlockRequest x0 x1 s
  | .dieWalkerPlace x0 => Sys2Proof.Machine.execDieWalkerPlace x0 s
  | .taskHandoff x0 => Sys2Proof.Machine.execTaskHandoff x0 s
  | .preloadComplete x0 x1 => Sys2Proof.Machine.execPreloadComplete x0 x1 s
  | .stealRequest x0 x1 => Sys2Proof.Machine.execStealRequest x0 x1 s
  | .stealAnswer x0 => Sys2Proof.Machine.execStealAnswer x0 s
  | .stealReply x0 => Sys2Proof.Machine.execStealReply x0 s
  | .lockstepRound x0 => Sys2Proof.Machine.execLockstepRound x0 s
  | .deferralSweepHandoff x0 x1 x2 => Sys2Proof.Machine.execDeferralSweepHandoff x0 x1 x2 s
  | .recordComplete x0 => Sys2Proof.Machine.execRecordComplete x0 s
  | .barrierGenerationComplete x0 x1 => Sys2Proof.Machine.execBarrierGenerationComplete x0 x1 s
  | .semaphoreWake x0 => Sys2Proof.Machine.execSemaphoreWake x0 s
  | .hostLaunch => Sys2Proof.Machine.execHostLaunch s
  | .create x0 x1 => Sys2Proof.Machine.execCreate x0 x1 s
  | .destroy => Sys2Proof.Machine.execDestroy s
  | .dyingComplete x0 => Sys2Proof.Machine.execDyingComplete x0 s
  | .mirprep => Sys2Proof.Machine.execMirprep s
  | .mirDrainTimeout => Sys2Proof.Machine.execMirDrainTimeout s
  | .mircommit x0 => Sys2Proof.Machine.execMircommit x0 s
  | .fwload => Sys2Proof.Machine.execFwload s
  | .suspend => Sys2Proof.Machine.execSuspend s
  | .suspendResume => Sys2Proof.Machine.execSuspendResume s
  | .run x0 x1 => Sys2Proof.Machine.execRun x0 x1 s
  | .wait x0 x1 => Sys2Proof.Machine.execWait x0 x1 s
  | .signal x0 x1 => Sys2Proof.Machine.execSignal x0 x1 s
  | .preempt x0 x1 => Sys2Proof.Machine.execPreempt x0 x1 s
  | .restore x0 x1 => Sys2Proof.Machine.execRestore x0 x1 s
  | .rdcinv x0 x1 => Sys2Proof.Machine.execRdcinv x0 x1 s
  | .qmove x0 x1 => Sys2Proof.Machine.execQmove x0 x1 s
  | .qload x0 x1 => Sys2Proof.Machine.execQload x0 x1 s
  | .prebndExpiry x0 x1 => Sys2Proof.Machine.execPrebndExpiry x0 x1 s
  | .taskSave x0 x1 => Sys2Proof.Machine.execTaskSave x0 x1 s
  | .registerRegionScrub x0 x1 => Sys2Proof.Machine.execRegisterRegionScrub x0 x1 s
  | .pageWalk x0 x1 => Sys2Proof.Machine.execPageWalk x0 x1 s
  | .nextPageFill x0 x1 x2 => Sys2Proof.Machine.execNextPageFill x0 x1 x2 s
  | .shootdownComplete x0 => Sys2Proof.Machine.execShootdownComplete x0 s
  | .linkDead x0 => Sys2Proof.Machine.execLinkDead x0 s
  | .linkRetrain x0 => Sys2Proof.Machine.execLinkRetrain x0 s
  | .facetPortDown x0 => Sys2Proof.Machine.execFacetPortDown x0 s
  | .keyUpdate x0 x1 => Sys2Proof.Machine.execKeyUpdate x0 x1 s
  | .verifyNewKey x0 => Sys2Proof.Machine.execVerifyNewKey x0 s
  | .keyUpdateStart x0 x1 => Sys2Proof.Machine.execKeyUpdateStart x0 x1 s
  | .bankLimit x0 => Sys2Proof.Machine.execBankLimit x0 s
  | .sessionRenewal x0 x1 => Sys2Proof.Machine.execSessionRenewal x0 x1 s
  | .glintSlot x0 => Sys2Proof.Machine.execGlintSlot x0 s
  | .bstFrame x0 => Sys2Proof.Machine.execBstFrame x0 s
  | .bamoFrame x0 => Sys2Proof.Machine.execBamoFrame x0 s
  | .suspendAt x0 => Sys2Proof.Machine.execSuspendAt x0 s
  | .resumeAt x0 => Sys2Proof.Machine.execResumeAt x0 s
  | .regen x0 => Sys2Proof.Machine.execRegen x0 s
  | .void x0 => Sys2Proof.Machine.execVoid x0 s
  | .join x0 => Sys2Proof.Machine.execJoin x0 s
  | .leave x0 => Sys2Proof.Machine.execLeave x0 s
  | .frameRecoveryRequest x0 => Sys2Proof.Machine.execFrameRecoveryRequest x0 s
  | .frameRecoveryTimeout x0 => Sys2Proof.Machine.execFrameRecoveryTimeout x0 s
  | .glintTimeout x0 x1 => Sys2Proof.Machine.execGlintTimeout x0 x1 s
  | .regenAnswerTimeout x0 => Sys2Proof.Machine.execRegenAnswerTimeout x0 s
  | .groupKeyDelivery x0 x1 => Sys2Proof.Machine.execGroupKeyDelivery x0 x1 s
  | .collectiveMatch x0 x1 x2 => Sys2Proof.Machine.execCollectiveMatch x0 x1 x2 s
  | .collectiveComplete x0 x1 x2 x3 => Sys2Proof.Machine.execCollectiveComplete x0 x1 x2 x3 s
  | .twoWayExchange x0 x1 x2 x3 x4 => Sys2Proof.Machine.execTwoWayExchange x0 x1 x2 x3 x4 s
  | .exchangeTimeout => Sys2Proof.Machine.execExchangeTimeout s
  | .groupFormation x0 => Sys2Proof.Machine.execGroupFormation x0 s
  | .hctlGo x0 x1 => Sys2Proof.Machine.execHctlGo x0 x1 s
  | .cmdtailWrite x0 x1 => Sys2Proof.Machine.execCmdtailWrite x0 x1 s
  | .evheadWrite x0 => Sys2Proof.Machine.execEvheadWrite x0 s
  | .dbell x0 => Sys2Proof.Machine.execDbell x0 s
  | .errclr x0 => Sys2Proof.Machine.execErrclr x0 s
  | .registerWrite x0 x1 => Sys2Proof.Machine.execRegisterWrite x0 x1 s
  | .hostWindowWrite x0 x1 => Sys2Proof.Machine.execHostWindowWrite x0 x1 s
  | .hostWindowRead x0 => Sys2Proof.Machine.execHostWindowRead x0 s
  | .bar4Write x0 x1 => Sys2Proof.Machine.execBar4Write x0 x1 s
  | .bar4Read x0 => Sys2Proof.Machine.execBar4Read x0 s
  | .eventRecordWrite x0 => Sys2Proof.Machine.execEventRecordWrite x0 s
  | .powerGood x0 => Sys2Proof.Machine.execPowerGood x0 s
  | .powerRemoval => Sys2Proof.Machine.execPowerRemoval s
  | .patrolScrub x0 x1 => Sys2Proof.Machine.execPatrolScrub x0 x1 s
  | .tjMeasurement x0 => Sys2Proof.Machine.execTjMeasurement x0 s
  | .throttleStepDown x0 x1 => Sys2Proof.Machine.execThrottleStepDown x0 x1 s
  | .throttleStepUp => Sys2Proof.Machine.execThrottleStepUp s
  | .thermalTrip => Sys2Proof.Machine.execThermalTrip s
  | .suspendFreeze => Sys2Proof.Machine.execSuspendFreeze s
  | .cutMarker x0 x1 => Sys2Proof.Machine.execCutMarker x0 x1 s
  | .suspendSave => Sys2Proof.Machine.execSuspendSave s
  | .resumeAtTPrime => Sys2Proof.Machine.execResumeAtTPrime s
  | .keyset x0 => Sys2Proof.Machine.execKeyset x0 s
  | .spdmRequest x0 => Sys2Proof.Machine.execSpdmRequest x0 s
  | .dataWavelengthFrame x0 x1 x2 => Sys2Proof.Machine.execDataWavelengthFrame x0 x1 x2 s
  | .frameRecoveryServe x0 x1 => Sys2Proof.Machine.execFrameRecoveryServe x0 x1 s
  | .frameRecoveryReply x0 => Sys2Proof.Machine.execFrameRecoveryReply x0 s
  | .regenAnswer x0 x1 => Sys2Proof.Machine.execRegenAnswer x0 x1 s
  | .prismReplicaCopy x0 x1 => Sys2Proof.Machine.execPrismReplicaCopy x0 x1 s
  | .tpostPublication x0 => Sys2Proof.Machine.execTpostPublication x0 s

end Sys2Proof.Machine
end

