-- ==== Sys2Proof/Machine/Issue.lean ====
section
/-! DEFINITION. The issue of one instruction by an agent: fetch, decode, readiness, the choice among the slots of a cell,
guard and execution (R26 to R30, R46 to R48, R51, R83, R108). -/

namespace Sys2Proof.Machine

open Sys2Proof

/-! ## Fetch and decode -/

/-- What an agent finds at its PC: nothing yet, a fault of the fetch of its word or of a word after it, a word that traps at decode,
or an instruction. -/
inductive Look where
  | wait
  | badFetch (cur : Cur) (code : Nat) (va cause : Word)
  | badRest (cur : Cur) (code : Nat) (va cause : Word)
  | reject (cur : Cur) (sub : Nat)
  | instr (cur : Cur) (i : Instr)
deriving DecidableEq, Repr

/-- Fetch the words that the instruction `w` at `pc` needs after it: its literal, and for REP the word after it (R74, R107). R107 names
the next word only: a literal of that word, which the repetitions need, is fetched with it, and a fault on it is taken at the REP and
names the literal's address. DEDUCED, log entry 50. -/
def fetchRest (a : Agent) (cur : Cur) (s : State) : Except (Look × State) Cur × State :=
  let lit : Except (Look × State) Word × State :=
    if hasLit (opOf cur.word.toNat) then
      match fetchWord a (cur.pc + 8) s with
      | (.word v, s) => (.ok v, s)
      | (.wait, s) => (.error (.wait, s), s)
      | (.bad code cause, s) => (.error (.badRest cur code (cur.pc + 8) cause, s), s)
    else (.ok 0, s)
  match lit with
  | (.error e, s) => (.error e, s)
  | (.ok l, s) =>
    let cur := { cur with lit := l, len := wordsOf (opOf cur.word.toNat) }
    if opOf cur.word.toNat = 0x47 then
      match fetchWord a (cur.pc + 8) s with
      | (.word v, s) =>
        if hasLit (opOf v.toNat) then
          match fetchWord a (cur.pc + 16) s with
          | (.word u, s) => (.ok { cur with next := v, nextLit := u }, s)
          | (.wait, s) => (.error (.wait, s), s)
          | (.bad code cause, s) => (.error (.badRest cur code (cur.pc + 16) cause, s), s)
        else (.ok { cur with next := v }, s)
      | (.wait, s) => (.error (.wait, s), s)
      | (.bad code cause, s) => (.error (.badRest cur code (cur.pc + 8) cause, s), s)
    else (.ok cur, s)

/-- The sub-code that a word fails with before its literal is looked at: of a TFILLM, whose literal R83 checks among the field values,
a check before those. DEDUCED, log entry 17. -/
def rejectsEarly (s : State) (a : Agent) (w : Nat) : Option Nat :=
  (wordSub s a w 0).filter fun n => opOf w != 0xB2 || decide (n ≤ 4)

/-- Fetch and decode the instruction at an agent's PC. DEDUCED, log entry 17. -/
def lookAt (a : Agent) (s : State) : Look × State :=
  let pc := s.pcOf a
  match fetchWord a pc s with
  | (.wait, s) => (.wait, s)
  | (.bad code cause, s) => (.badFetch { agent := a, pc := pc } code pc cause, s)
  | (.word w, s) =>
    let cur : Cur :=
      { agent := a, pc := pc, hdr := Hdr.dec w.toNat, word := w, seq := s.seq, len := wordsOf (opOf w.toNat) }
    match rejectsEarly s a w.toNat with
    | some sub => (.reject cur sub, s)
    | none =>
      match fetchRest a cur s with
      | (.error (l, s'), _) => (l, s')
      | (.ok cur, s) =>
        match wordSub s a w.toNat cur.lit.toNat, decode (agentKind a) w.toNat cur.lit.toNat with
        | some sub, _ => (.reject cur sub, s)
        | none, .error r => (.reject cur r.sub, s)
        | none, .ok (_, i) => (.instr cur i, s)

/-! ## Readiness (R46) -/

/-- Whether an agent may issue in this clk, whatever its instruction. -/
def mayIssue (s : State) (a : Agent) : Bool :=
  s.powered && !s.landing && (s.susp == .none || (match s.susp with | .armed _ => true | _ => false)) &&
    match a with
    | .strand c k x =>
      let sl := s.slot c k
      let y := sl.strand x
      sl.st == .run && !y.ended && !y.stopped && y.block.isNone && decide (y.gate ≤ s.clk)
        && !(s.cell c).issued.any (fun q => q.1 == x) && x != .C
    | .cond n =>
      let y := s.condOf n
      y.st == .running && y.issuedClk != some s.clk && y.block.isNone && decide (y.gate ≤ s.clk)

/-- The divider or float divide unit that an instruction needs is free (R93). -/
def unitFree (s : State) (a : Agent) (op : Nat) : Bool :=
  let d := match a with | .strand c k x => (s.strand c k x).divFree | .cond n => (s.condOf n).divFree
  let f := match a with | .strand c k x => (s.strand c k x).fdivFree | .cond n => (s.condOf n).fdivFree
  (!(0x08 ≤ op && op ≤ 0x0B) || d ≤ s.clk) && (!(op == 0x33 || op == 0x34) || f ≤ s.clk)

/-- Whether an MCST has a member to send to: one with an empty set performs at once (R346). -/
def mcstSends (s : State) (w : Nat) : Bool :=
  let ctx := s.ctxNum s.cur.agent
  let j := (s.rs (FmtP.dec w).x).toNat
  decide (j < 256) && !(mcstPeers s ctx (mcastSet s ctx j)).isEmpty

/-- Whether an instruction would send a facet packet (R46, R347). -/
def sendsFacet (s : State) (w : Nat) : Bool :=
  let op := opOf w
  (0x5C ≤ op && op ≤ 0x61 && s.peer (FmtP.dec w).peer != s.selfIdx) || (op == 0x62 && mcstSends s w)

/-- Whether an instruction may park (R177): it needs a free entry of the replay queue before it is ready (R46). -/
def mayPark (op : Nat) : Bool :=
  (0xB1 ≤ op && op ≤ 0xB4) || (0xBA ≤ op && op ≤ 0xBD) || op == 0xC0 || op == 0xC1 || op == 0xC6

/-- The physical accumulators that an X instruction other than ADISCARD names (R36, R45). -/
def accsNamed (sl : Slot) (op w : Nat) : List (Option Nat) :=
  let x := FmtX.dec w
  if op == 0xC0 || op == 0xC1 then [accOff sl x.ad, if x.mode = 2 then accOff sl x.ab else none]
  else if op == 0xC2 then [accOff sl x.ad]
  else if op == 0xC3 || op == 0xC5 then [accOff sl x.ad, accOff sl x.ab]
  else if op == 0xC6 then [accOff sl x.ab]
  else []

/-- Whether every earlier access of a conductor has performed, as its ERET needs (R331). -/
def accessesDone (s : State) (a : Agent) : Bool := s.accs.all (fun q => q.orphan || q.agent != a) && (copyOf s a).isEmpty

/-- The terms of R46 that do not lie in the instruction's own effect. -/
def termsMet (s : State) : Bool :=
  let i := s.cur
  let w := i.word.toNat
  let op := opOf w
  waitMet s i.agent i.hdr && sourcesLanded s i.agent op w && unitFree s i.agent op
    && (match i.agent with
      | .strand c k x => decide (slateInFlight s c k x + slateCount op w ≤ 32)
          && (!mayPark op || replayRoom s c 1) && !accBusy (s.cell c) s.clk (accsNamed (s.slot c k) op w)
      | .cond _ => op != 0xE3 || accessesDone s i.agent)
    && !(s.mirHold && sendsFacet s w)
    && (!(op == 0x63 || op == 0x64) || decide (queuedOps s < 64))

/-- The instruction that ERET stands for under the conductor's ERCTL (R221). -/
def resolveEret (i : Instr) (s : State) : Instr :=
  match i with
  | .eret x => match erAct s.ercl with | 1 => .eretKill x | 2 => .eretSkip x | _ => .eret x
  | i => i

/-- Whether an agent has been stopped by a fault. -/
def agentStopped (s : State) (a : Agent) : Bool :=
  match a with
  | .strand c k x => (s.strand c k x).stopped
  | .cond n => (s.condOf n).st == .halted

/-- What an attempt to issue comes to: the agent waits, or it takes its place in the clk. -/
inductive Try where
  | waits (s : State)
  | takes (o : Out)

/-- Execute the current instruction, ready and unguarded; under an active REP its repetition is counted (R108). -/
def execute (i : Instr) (s : State) : Out :=
  let rep := s.repeating s.cur.agent
  match exec (resolveEret i s) s with
  | .next t => if rep && t.cur.done then exec (.repRepetition t.cur.agent) t else .next t
  | o => o

/-- Whether the word of a control instruction that is guarded off was predicted to lead elsewhere than to the next word (R104). -/
def predictedAway (w : Nat) : Bool :=
  let op := opOf w
  (0x3C ≤ op && op ≤ 0x41 && predictTaken (FmtB.dec w)) || (0x42 ≤ op && op ≤ 0x44) || op == 0x46

/-- What an instruction that is guarded off does: it takes its place in the clk and its signal, and goes on at the next word, which a
control instruction may have predicted wrong (R30, R104, R112). -/
def guardedOff (s : State) : State := predicted (!predictedAway s.cur.word.toNat) (retireNow s)

/-- An instruction that issues under the bar condition has made an acquire at package scope (R208). -/
def barAcquire (a : Agent) (ctx : Nat) (o : Out) : Out :=
  match o with
  | .next u => .next (if u.cur.done && bits u.cur.hdr.wb 2 0 == 3 then acquireBump a ctx 2 u else u)
  | o => o

/-- Attempt to issue at an agent's PC (R27, R46), the choice among slots apart. -/
def attempt (a : Agent) (s : State) : Try :=
  if !mayIssue s a then .waits s
  else
    match lookAt a s with
    | (.wait, t) => .waits t
    | (.badFetch cur code va cause, t) => .takes (.next (raise code 0 va cause 0 { t with cur := cur }))
    | (.badRest cur code va cause, t) =>
      let t := { t with cur := cur }
      if termsMet t then .takes (.next (raise code 0 va cause 0 t)) else .waits t
    | (.reject cur sub, t) => .takes (.next (illegal sub { t with cur := cur }))
    | (.instr cur i, t) =>
      let t := { t with cur := cur, seq := t.seq + 2 }
      if !termsMet t then .waits { t with seq := t.seq - 2 }
      else
        let bar := barAcquire a (t.ctxNum a)
        if !guardHolds (t.qpred a) cur.hdr.gd then
          let u := guardedOff t
          .takes (bar (if t.repeating a then exec (.repRepetition a) u else .next u))
        else
          match badSource t a (opOf cur.word.toNat) cur.word.toNat with
          | some off => .takes (.next (raise fUncorrectable 0 (BitVec.ofNat 64 off) 0x06 0 t))
          | none =>
            match execute i t with
            | .next u => if u.cur.done || agentStopped u a then .takes (bar (.next u)) else .waits u
            | o => .takes o

/-! ## The choice of R47 -/

/-- Whether an agent would take its place in this clk if it were chosen. -/
def ready (a : Agent) (s : State) : Bool :=
  match attempt a s with
  | .takes _ => true
  | .waits _ => false

/-- Whether the strand of slot `j` comes before that of slot `k` in the choice of R47, R109 and R288. -/
def ranksBefore (s : State) (c : Nat) (x : Kind) (j k : Nat) : Bool :=
  let a := s.strand c j x
  let b := s.strand c k x
  let pa := (s.slot c j).prio
  let pb := (s.slot c k).prio
  let starve (y : Strand) : Bool := decide (4096 ≤ y.age)
  let older : Bool := decide (b.age < a.age) || (a.age == b.age && decide (j < k))
  if starve a != starve b then starve a
  else if starve a then older
  else if pa ≠ pb then decide (pb < pa)
  else
    let ya := decide (s.clk < a.yieldUntil)
    let yb := decide (s.clk < b.yieldUntil)
    if ya != yb then yb else older

/-- Whether another slot's strand of the kind is ready and comes first. -/
def outranked (s : State) (a : Agent) : Bool :=
  match a with
  | .strand c k x => (s.cell c).slots.any fun (j, _) => j != k && ranksBefore s c x j k && ready (.strand c j x) s
  | .cond _ => false

/-- An agent's move: it issues if it is ready and chosen; otherwise only what its wait has started remains. -/
def issueMove (a : Agent) (s : State) : Out :=
  match attempt a s with
  | .waits t => .next t
  | .takes o => if outranked s a then .next s else o

end Sys2Proof.Machine
end

