-- ==== Sys2Proof/Machine/Clock.lean ====
section
/-! DEFINITION. The end of a clk: the writes that land in it, the pushes that fall due (R20 to R25), writes of system and
shape registers, freezes (R220, R223), ready ages (R47) and the advance of Reticle time (R4, R5). -/

namespace Sys2Proof.Machine

open Sys2Proof

/-- Insert by issue number, equal numbers in their order. -/
def insertSeq {α : Type} (f : α → Nat) (a : α) : List α → List α
  | [] => [a]
  | b :: t => if f a < f b then a :: b :: t else b :: insertSeq f a t

/-- Sort by issue number. -/
def sortSeq {α : Type} (f : α → Nat) (l : List α) : List α := l.foldl (fun t a => insertSeq f a t) []

/-! ## The landing of this clk's writes -/

/-- The parts of a write into an entry by the granules they lie in, each granule once. -/
def byGranule (g : Nat × Nat × Nat → Nat) (l : List (Nat × Nat × Nat)) : List (Nat × List (Nat × Nat × Nat)) :=
  ((l.map g).foldl (fun acc n => if acc.contains n then acc else acc ++ [n]) []).map fun n => (n, l.filter fun p => g p == n)

/-- The granules that the TLD.Cs of a clk have read are empty at its end (R192). -/
def landEmpties (c : Nat) (s : State) : State :=
  ((s.cell c).lensWr.filter fun w => w.empties && decide (w.due ≤ s.clk)).foldl (fun t w =>
    updEntry c w.eid (fun e => { e with full := w.parts.foldl (fun f p => f &&& ((2 ^ 4096 - 1) ^^^ 2 ^ (p.1 / 16))) e.full }) t) s

/-- Land the writes into the Lens of a cell that are due and that R195 does not hold, each granule of a write at once, and before them the
emptying of granules (R177, R192, R195). R44 does not place such writes among the strands' and the engines': they land in issue order.
DEDUCED, log entry 46. -/
def landLens (c : Nat) (s : State) : State :=
  let s := landEmpties c s
  let due := sortSeq (·.seq) ((s.cell c).lensWr.filter fun w => w.due ≤ s.clk && !w.empties)
  let g (p : Nat × Nat × Nat) : Nat := if p.1 < 16 * scaleG then p.1 / 16 else scaleG + (p.1 - 16 * scaleG) / 16
  let stays (s : State) (w : LensWrite) (p : Nat × Nat × Nat) : Bool := granuleHeld (s.cell c) w.eid (g p) s.clk
  let rest := (due.map fun w => { w with parts := w.parts.filter (stays s w) }).filter fun w => !w.parts.isEmpty
  let s1 := due.foldl (fun t w =>
    (byGranule g (w.parts.filter fun p => !stays s w p)).foldl (fun t q => landGranule c w.eid q.1 q.2 t) t) s
  let s1 := due.foldl (fun t w => completeFill c w.eid t) s1
  s1.updCell c fun x => { x with lensWr := x.lensWr.filter (fun w => !(w.due ≤ s.clk)) ++ rest }

/-- What happens at the end of a clk in a cell that holds work: its engines' steps, then its register writes.
DEDUCED, log entry 8. -/
def cellMoves (s : State) (c : Nat) (x : Cell) : List Move :=
  (if x.ops.isEmpty then [] else [.event (.replayHandoff c), .event (.mmaAccept c)])
    ++ (if x.scanLeft = 0 then [] else [.event (.frameScan c)])
    ++ (if x.rows.isEmpty then [] else [.event (.arrayRowWrite c), .event (.accumRowWrite c)])
    ++ (if x.wr.any (fun w => w.resumed && decide (w.due ≤ s.clk)) then [.event (.slateLanding c)] else [])
    ++ (if x.wr.any (fun w => decide (w.due ≤ s.clk)) then [.event (.resultWriteback c)] else [])

/-- Ready ages (R47): a strand that was ready and did not issue is one clk older; one that was not ready starts again. -/
def ageCell (s : State) (c : Nat) (x : Cell) : Cell :=
  { x with slots := x.slots.map fun (k, sl) =>
      (k, kinds4.foldl (fun t q =>
        let y := sl.strand q
        if sl.st != .run || y.ended || x.issued.contains (q, k) then t
        else t.setStrand q { y with age := if ready (.strand c k q) s then y.age + 1 else 0 }) sl) }

/-- The ages at the end of a clk; that another strand of a kind issued does not make one unready. -/
def ages (s : State) : State :=
  let s' := { s with cells := s.cells.map fun (c, x) => (c, { x with issued := [] }) }
  { s with cells := s.cells.map fun (c, x) => (c, ageCell s' c x) }

/-- Begin the end of a clk: nothing more issues in it, writes into the Lenses land, and the cells' moves follow.
DEDUCED, log entry 8. -/
def beginLanding (s : State) : State :=
  let s := { ages s with landing := true }
  let s1 := s.cells.foldl (fun t (c, x) => if x.lensWr.isEmpty then t else landLens c t) s
  { s1 with agenda := s1.cells.flatMap (fun (c, x) => cellMoves s1 c x) ++ (.tick :: s1.agenda) }

/-! ## Pushes (R22, R25) -/

/-- Whether an instruction's operation has performed: nothing numbered `q` is outstanding in its cell. -/
def performed (s : State) (x : Cell) (q : Nat) : Bool :=
  s.accs.all (fun a => a.id != q) && x.copyq.all (fun a => a.id != q) && x.ops.all (fun o => o.seq != q)
    && x.rows.all (fun o => o.seq != q) && x.wr.all (fun w => w.seq != q) && x.lensWr.all (fun w => w.seq != q)

/-- Whether its operands have been consumed (R25, R197). -/
def consumed (s : State) (x : Cell) (q : Nat) : Bool :=
  x.ops.all (fun o => o.seq != q) && x.rows.all fun o => o.seq != q || o.consumed || match o.kind with
    | .mma m _ => decide (o.start + m.d ≤ s.clk)
    | .adrn _ _ m _ _ _ _ => decide (o.start + m ≤ s.clk)
    | _ => true

/-- Whether a reserved push has reached its signal point. -/
def pushDue (s : State) (x : Cell) (p : Push) : Bool :=
  match p.due with
  | .now => true
  | .clk t => decide (t ≤ s.clk)
  | .perform q => performed s x q
  | .consumed q => consumed s x q
  | .rel _ => false
  | .lost => false

/-- The release of R22: every earlier access of the strand and every earlier interlocked write have performed; a write that a freeze has
put into the strand's slate has not (R223). -/
def released (s : State) (c k : Nat) (x : Cell) (p : Push) : Bool :=
  let a : Agent := .strand c k p.src
  s.accs.all (fun q => q.orphan || q.agent != a || decide (p.seq ≤ q.id))
    && x.copyq.all (fun q => q.orphan || q.agent != a || decide (p.seq ≤ q.id))
    && ((x.slot k).strand p.src).slate.all (fun e => e.len != 8 || decide (p.seq ≤ e.seq))
    && x.wr.all (fun w => !(w.interlock || w.async) || w.slot != k || w.k != p.src || decide (p.seq ≤ w.seq))
    && x.ops.all fun o => o.slot != k || o.k != p.src || decide (p.seq ≤ o.seq) || (match o.cmd with
      | .tgth _ _ => false | .tsct _ _ => false | _ => true)

/-- Make the pushes of a slot that have fallen due, and fold the clk's pushes and pops into the counts (R20, R21). -/
def pushSlot (s : State) (c : Nat) (x : Cell) (k : Nat) (sl : Slot) : Slot :=
  let go (p : Push) : Bool := pushDue s x p && released s c k x p
  let sl1 := (sl.pushes.filter go).foldl (fun t p =>
    t.updQueue p.src p.dst fun q => { q with res := q.res - p.m, push := q.push + p.m }) sl
  { sl1 with
    pushes := sl.pushes.filter fun p => !go p
    q := sl1.q.map fun (key, q) => (key, { cnt := q.cnt + q.push - q.pop, push := 0, pop := 0, res := q.res }) }

/-! ## Shape registers, freezes -/

/-- Make the KSETs of a slot (R42, R202). -/
def ksetSlot (sl : Slot) : Slot :=
  let sl1 := sl.ksets.foldl (fun t w => t.setStrand w.k
    (let y := t.strand w.k
     { y with ks := Tab.set w.reg (setFld (Tab.get 0 w.reg y.ks) w.field w.val) y.ks })) sl
  { sl1 with ksets := [] }

/-- Make the ACOMMITs of a slot (R199). -/
def swapSlot (sl : Slot) : Slot :=
  { sl with aview := sl.swaps.foldl (fun v (a, b) => swapAmap v a b) sl.aview, swaps := [] }

/-- The slate of a strand at a freeze in clk `f`: its writes due after `f` (R223). -/
def slateOf (x : Cell) (k : Nat) (q : Kind) (f : Nat) : List SlateEntry :=
  (x.wr.filter fun w => w.slate && w.slot == k && w.k == q && decide (f < w.due)).map fun w =>
    { seq := w.seq, engine := w.engine, off := w.off, len := w.len, mask := w.mask, val := w.val, r := w.due - f }

/-- Whether a slot that is marked freezes now: a pre-emption waits while the task is parked (R306), and in PRELOAD a freeze
waits for RUN (R16); a task that has executed END on all four strands is not frozen for a save (R305). DEDUCED, log entry 8. -/
def freezesNow (sl : Slot) : Option FreezeWhy :=
  match sl.st, sl.freezing with
  | .free, _ => none
  | .preload, _ => none
  | .parked, some (.ppt _) => none
  | .parked, some .forced => none
  | .ending, some (.ppt _) => none
  | .ending, some .forced => none
  | _, w => w

/-- A slot with no mark of a save where its task has executed END on all four strands: it ends, and is not saved (R305). -/
def unmarkEnded (sl : Slot) : Slot :=
  match sl.st, sl.freezing with
  | .ending, some (.ppt _) => { sl with freezing := none }
  | .ending, some .forced => { sl with freezing := none }
  | _, _ => sl

/-- Freeze a slot at clk f = t + 1: its pending writes enter the slates, its timed pushes are held (R220, R223, R224).
DEDUCED, log entry 13. -/
def freezeSlot (s : State) (x : Cell) (k : Nat) (why : FreezeWhy) : Cell :=
  let f := s.clk + 1
  let sl := x.slot k
  let take (q : Kind) (y : Strand) : Strand :=
    { y with slate := y.slate ++ slateOf x k q f, divFree := y.divFree - f, fdivFree := y.fdivFree - f }
  let sl1 := { sl with
    st := .frozen, freezing := none, frozenBy := some why, ftime := s.rt
    live := match why with | .ppt l => some l | _ => none
    s := take .S sl.s, a := take .A sl.a, x := take .X sl.x, w := take .W sl.w
    pushes := sl.pushes.map fun p => match p.due with
      | .clk t => if f < t then { p with due := .rel (t - f) } else p
      | _ => p }
  { x.setSlot k sl1 with wr := x.wr.filter fun w => !(w.slate && w.slot == k && decide (f < w.due)) }

/-- The freezes of a cell at the end of the clk. -/
def freezeCell (s : State) (x : Cell) : Cell :=
  x.slots.foldl (fun y (k, sl) => match freezesNow sl with
    | some why => freezeSlot s y k why
    | none => y.setSlot k (unmarkEnded sl)) x

/-! ## Counters of a clk -/

/-- Every candidate of a set is pinned (R238). -/
def setPinned (x : Cell) (set : Nat) : Bool :=
  ((List.range 16).map (16 * set + ·)).all fun t => (x.occupant t).any x.pinnedFast

/-- The count of the clks for which an allocation has been parked with every candidate pinned: one that is bound or filling is not counted,
one that is eligible starts the count again (R238). -/
def LensOp.counted (o : LensOp) (pinned eligible : Bool) : LensOp :=
  if pinned then { o with pinnedFor := o.pinnedFor + 1 } else if eligible then { o with pinnedFor := 0, reported := false } else o

/-- Count the clks for which an allocation has been parked with every candidate pinned (R238). -/
def countPinned (s : State) (c : Nat) (x : Cell) : Cell :=
  { x with ops := x.ops.map fun o => match o.cmd, o.st with
      | .alloc _ t d _ _ _ _, .parked =>
        match allocTry s c t d with
        | .noWay set => o.counted (setPinned x set) false
        | .noFrames _ => o.counted (x.lens.all fun e => !e.here || x.pinnedFast e) (x.lens.any fun e => e.here && x.eligible e)
        | _ => o.counted false true
      | _, _ => o }

/-- Whether a parked command is short of frames: an allocation that has its ways, or one that waits for a read-back (R236, R237). -/
def wantsFrames (s : State) (c : Nat) (x : Cell) (o : LensOp) : Bool :=
  o.st == .parked && match o.cmd with
    | .alloc _ t d _ _ _ _ => (match allocTry s c t d with | .noFrames _ => true | _ => false)
    | _ => x.lens.any fun e => e.away && o.needsBytes e.id && (match seatTry s c e with | .noFrames _ => true | _ => false)

/-- A command that has come to be short of frames has the pointer make one full rotation for it (R236). -/
def startScan (s : State) (c : Nat) (x : Cell) : Cell :=
  let fresh (o : LensOp) : Bool := !o.scanned && wantsFrames s c x o
  if x.ops.any fresh then
    { x with scanLeft := 4096, ops := x.ops.map fun o => if fresh o then { o with scanned := true } else o }
  else x

/-- 27ths of a tick in one clk at the step of the clock: 2.25, 1.80, 1.35 and 0.90 GHz (R4, R389). DEDUCED, log entry 8. -/
def tickParts (step : Nat) : Nat := match step with | 0 => 48 | 1 => 60 | 2 => 80 | _ => 120

/-- The advance of Reticle time in one clk, at the steered rate (R4, R360). DEDUCED, log entry 8. -/
def advanceTime (s : State) : Time :=
  let n := s.time.frac + tickParts s.thr.step * (1000000 + s.time.rate).toNat
  { s.time with rt := s.time.rt + BitVec.ofNat 64 (n / 27000000), frac := n % 27000000 }

/-- What a cell does at the end of a clk, after its writes have landed. -/
def tickCell (s : State) (c : Nat) (x : Cell) : Cell :=
  let x1 := { x with slots := x.slots.map fun (k, sl) => (k, swapSlot (ksetSlot (pushSlot s c x k sl))) }
  let x2 := freezeCell s (startScan s c (countPinned s c x1))
  { x2 with issued := [] }

/-- The rest of a conductor's clk: results due land. -/
def tickCond (t : Nat) (y : Cond) : Cond :=
  let due := sortSeq (fun (w : Nat × Nat × Word × Nat) => w.1) (y.wr.filter fun w => decide (w.2.2.2 ≤ t))
  { y with
    regs := due.foldl (fun m w => Tab.set w.2.1 w.2.2.1 m) y.regs
    wr := y.wr.filter fun w => !decide (w.2.2.2 ≤ t) }

/-- The end of a clk (R20, R42, R44, R47, R212, R220). DEDUCED, log entry 8. -/
def tick (s : State) : State :=
  if !s.landing then s
  else
    let s := settleQueues (s.sysws.foldl (fun t w => sysApply w t) { s with sysws := [] })
    let s := { s with cells := s.cells.map fun (c, x) => (c, tickCell s c x)
                      conds := s.conds.map fun (n, y) => (n, tickCond s.clk y) }
    { s with clk := s.clk + 1, time := advanceTime s, landing := false }

end Sys2Proof.Machine
end

