-- ==== Sys2Proof/Machine/Run.lean ====
section
/-! DEFINITION. One move of the agenda: an agent attempts to issue, an engine or the outside world takes a step, a clk
passes, a cached translation is replaced, storage is struck by an error; and where an instruction is put so that the
next move fetches and issues it. -/

namespace Sys2Proof.Machine

open Sys2Proof

/-- Whether a row is a step of an engine, of the hub, of the host or of the group, and not an instruction word.
DESIGN CHOICE, log entry 9. -/
def isEvent (i : Instr) : Bool :=
  match i.code with
  | some _ => false
  | none => match i with
    | .eret _ => false | .eretKill _ => false | .eretSkip _ => false
    | _ => true

/-- Remove element `n` of a list. -/
def dropNth {α : Type} (l : List α) (n : Nat) : List α := l.take n ++ l.drop (n + 1)

/-- A TLB may replace an entry at any time (R323). DESIGN CHOICE, log entry 12. -/
def evictTlb (c n : Nat) (s : State) : State := s.updCell c fun x => { x with tlb := dropNth x.tlb n }

/-- So may the cache of a walker set, and above 8 the launch translation cache (R298, R322). DESIGN CHOICE, log entry 12. -/
def evictWalker (set n : Nat) (s : State) : State :=
  if hubSet < set then { s with lcache := dropNth s.lcache n }
  else { s with wcache := let l := dropNth (Tab.get [] set s.wcache) n; if l.isEmpty then Tab.del set s.wcache else Tab.set set l s.wcache }

/-- A page register gives up a translation made from an entry with CH = 1, so that the next access to its group chooses its entry afresh
(R320). DESIGN CHOICE, log entry 12. -/
def evictPage (c k reg : Nat) (s : State) : State :=
  s.updSlot c k fun y => { y with pages := y.pages.filter fun (r, t) => !(r == reg && bit t.pte 3) }

/-- An L1 may give up its copy of a sector at any time (R252). DESIGN CHOICE, log entry 10. -/
def dropL1 (c pa : Nat) (s : State) : State := { s with l1 := s.l1.filter fun q => !(q.cell == c && q.pa == pa / 64 * 64) }

/-- The next word of an agent stays unfetched for `n` clk (R46). DESIGN CHOICE, log entry 2. -/
def stallFetch (a : Agent) (n : Nat) (s : State) : State :=
  updAgent a (fun y => { y with gate := max y.gate (s.clk + n) }) (fun y => { y with gate := max y.gate (s.clk + n) }) s

/-- Bytes of operation `id` arrive (R43, R173, R250): of an access, of a copy command, or of a command of a Lens.
DESIGN CHOICE, log entry 5. -/
def landMove (id lane mask : Nat) (s : State) : State :=
  let sites := s.cells.map (·.1) ++ s.conds.map fun (n, _) => 128 + n
  match s.acc id with
  | some a => landAcc a lane mask s
  | none =>
    match sites.findSome? fun n => ((siteQueue s n).find? fun q => q.id == id).map fun q => (n, q) with
    | some (n, q) => landCopy n q lane mask s
    | none =>
      match s.cells.findSome? fun (c, x) => (x.ops.find? fun o => o.seq == id && o.st != .parked).map fun o => (c, o) with
      | some (c, o) => landOp c o lane mask s
      | none => s

/-- The agents that a clk may not end without: each is ready, and of its kind it is the one that its cell takes (R47, R48). -/
def mustIssue (s : State) : List Agent :=
  let strands : List Agent := s.cells.flatMap fun (c, x) => x.slots.flatMap fun (k, _) => kinds4.map fun q => .strand c k q
  let conds : List Agent := s.conds.map fun (n, _) => .cond n
  (strands ++ conds).filter fun a => ready a s && !outranked s a

/-- A clk passes: the agents that have still to issue in it do, and then its writes land (R47, R48). -/
def passClk (s : State) : State :=
  if s.landing then s
  else
    match mustIssue s with
    | [] => beginLanding s
    | l => { s with agenda := l.map .issue ++ .clk :: s.agenda }

/-- Steps that go on while a suspend is under way: packets and frames are received, engines complete what they had begun, faults
are reported, and the host's registers answer (R392). -/
def goesOn (i : Instr) : Bool :=
  match i with
    | .resultWriteback _ | .slateLanding _ | .accessPerform _ _ | .remoteReply _ _ | .peerAccessArrive _
    | .timeTaggedStoreAccept _ | .lateStoreReport _ | .mcstComplete _ | .asyncFaultRaise _ | .faultReportAfterIssue _
    | .faultRecordWrite _ | .endingComplete _ _ | .preloadComplete _ _ | .fillResolve _ _ _ | .lensTransferServe _ _
    | .fillGranuleLand _ _ _ | .drainGrant _ _ | .drainPublish _ _ | .spill _ _ | .spillReadback _ _ | .versionNotice _
    | .tqrelRecord _ | .arrayRowWrite _ | .accumRowWrite _ | .tpostPublication _ | .pageWalk _ _ | .nextPageFill _ _ _
    | .shootdownComplete _ | .linkDead _ | .linkRetrain _ | .facetPortDown _ | .keyUpdate _ _ | .verifyNewKey _
    | .bankLimit _ | .bstFrame _ | .bamoFrame _ | .suspendAt _ | .resumeAt _ | .regen _ | .void _ | .join _ | .leave _
    | .frameRecoveryReply _ | .regenAnswer _ _ | .groupKeyDelivery _ _ | .prismReplicaCopy _ _ | .dataWavelengthFrame _ _ _
    | .exchangeTimeout | .hctlGo _ _ | .cmdtailWrite _ _ | .evheadWrite _ | .dbell _ | .errclr _ | .registerWrite _ _
    | .hostWindowWrite _ _ | .hostWindowRead _ | .bar4Write _ _ | .bar4Read _ | .eventRecordWrite _ | .powerRemoval
    | .patrolScrub _ _ | .tjMeasurement _ | .throttleStepDown _ _ | .throttleStepUp | .thermalTrip | .suspendFreeze
    | .cutMarker _ _ | .suspendSave | .keyset _ | .spdmRequest _ => true
    | _ => false

/-- Steps that a restored package takes besides, before T′: the Glint rotation runs, and the hub takes host commands (R394, R395).
DEDUCED, log entry 33. -/
def goesOnRestored (i : Instr) : Bool :=
  match i with
    | .keyUpdateStart _ _ | .sessionRenewal _ _ | .glintSlot _ | .frameRecoveryRequest _ | .frameRecoveryTimeout _
    | .frameRecoveryServe _ _ | .glintTimeout _ _ | .regenAnswerTimeout _ | .twoWayExchange _ _ _ _ _ | .groupFormation _
    | .hostLaunch | .create _ _ | .destroy | .dyingComplete _ | .mirprep | .mirDrainTimeout | .mircommit _ | .fwload
    | .suspend | .suspendResume | .resumeAtTPrime => true
    | _ => false

/-- Whether a step may take place in the present phase of power and suspend. DESIGN CHOICE, log entry 9. -/
def mayOccur (s : State) (i : Instr) : Bool :=
  match i with
  | .powerGood _ => true
  | .powerRemoval => true
  | _ => s.powered && match s.susp with
    | .none => true
    | .armed _ => true
    | .frozen => goesOn i
    | .retained => false
    | .restored _ _ => goesOn i || goesOnRestored i

/-- No suspend has frozen the package. -/
def inService (p : SuspPhase) : Bool := p == .none || (match p with | .armed _ => true | _ => false)

/-- A time-tagged store whose visible-at time has come and that has still to perform: of such stores the one that performs next, the first
to arrive of those with the earliest time (R131). DEDUCED, log entry 30. -/
def heldDue (s : State) : Option Nat :=
  if s.powered && !s.landing && inService s.susp then
    (s.held.foldl (fun (m : Option Held) h =>
      if decide (h.t.toNat ≤ (s.homeRt h.die).toNat) then
        (match m with | some g => if h.t.toNat < g.t.toNat then some h else some g | none => some h)
      else m) none).map (·.id)
  else none

/-- The step that Reticle time has brought about: the next time-tagged store that is due, the freeze at T of a suspend, the return at T′
(R131, R392, R394). DEDUCED, log entry 30. -/
def timeDue (s : State) : Option Instr :=
  if s.powered && !s.landing then
    match heldDue s with
    | some id => some (.heldStorePerform id)
    | none =>
      let past (t : Option Word) : Bool := match t with | some t => decide (t.toNat ≤ s.rt.toNat) | none => false
      match s.susp with
      | .armed t => if past (some t) then some .suspendFreeze else none
      | .restored t again =>
        let first : Bool := match t, again with | some t, some u => decide (t.toNat ≤ u.toNat) | some _, none => true | none, _ => false
        if past t && (first || !past again) then some .resumeAtTPrime else if past again then some .suspendFreeze else none
      | _ => none
  else none

/-- Whether a move may come before the step that is due: that step itself, or the loss of power. DEDUCED, log entry 30. -/
def beforeDue (m : Move) (i : Instr) : Bool :=
  match m with
  | .event .powerRemoval => true
  | .event (.powerGood _) => true
  | .event j => j == i
  | _ => false

/-- The package's logic runs: it has power, and is not in retention (R393). -/
def State.up (s : State) : Bool := s.powered && s.susp != .retained

/-- One move, where Reticle time has brought about no step. An event that is not a step of the machine's engines or of the outside world is no
move. In retention Reticle time alone runs (R393). DESIGN CHOICE, log entry 2. DESIGN CHOICE, log entry 9. -/
def moveNow (m : Move) (s : State) : Out :=
  match m with
  | .issue a => issueMove a s
  | .event i => if isEvent i && mayOccur s i then exec i s else .next s
  | .clk => .next (
      if s.up then passClk s
      else if s.susp = .retained then { s with time := advanceTime s }
      else s)
  | .tick => .next (tick s)
  | .evict c n => .next (evictTlb c n s)
  | .evictWalk k n => .next (evictWalker k n s)
  | .evictPage c k r => .next (evictPage c k r s)
  | .land id lane mask => .next (if s.up && !s.landing then landMove id lane mask s else s)
  | .send id src dst vc => .next (if s.up then sendMove id src dst vc s else s)
  | .flit l src vc => .next (if s.up then flitMove l src vc s else s)
  | .flitLost l src => .next (flitLostMove l src s)
  | .facetFlit n v ok => .next (if s.up then facetFlitMove n v ok s else s)
  | .facetFlitIn n f => .next (if s.up then facetFlitIn n f s else s)
  | .dropL1 c pa => .next (dropL1 c pa s)
  | .spillPart c e g m => .next (if s.up then spillPart c e g m s else s)
  | .collPart ctx t peers m => .next (if s.up && inService s.susp then collPart ctx t peers m s else s)
  | .bar0Read off size => .next (if s.up then bar0Read off size s else s)
  | .stall a n => .next (if s.up then stallFetch a n s else s)
  | .upset u => .next (if s.up then strike u s else s)

/-- One move: the step that is due comes first, and the move follows (R131, R392, R394). DEDUCED, log entry 30.
DESIGN CHOICE, log entry 2. DESIGN CHOICE, log entry 9. -/
def moveStep (m : Move) (s : State) : Out :=
  match timeDue s with
  | some i => if beforeDue m i then moveNow m s else .next { s with agenda := .event i :: m :: s.agenda }
  | none => moveNow m s

/-- Take the next move off the agenda; with none there a clk passes. DESIGN CHOICE, log entry 2. -/
def takeMove (s : State) : Move × State :=
  match s.agenda with
  | [] => (.clk, s)
  | m :: t => (m, { s with agenda := t })

/-- What remains of a step: no instruction is issuing any longer, and later free values are fresh. -/
def settle (o : Out) : Out :=
  match o with
  | .next t => .next { t with free := t.free + 1, cur := { t.cur with done := false } }
  | o => o

/-! ## Placing an instruction -/

/-- The agent that runs an instruction whose word is `w` (R82): strand of slot 0 of cell 0, or conductor 0.
DESIGN CHOICE, log entry 7. -/
def fetchAgent (w : Nat) : Agent :=
  match kindFor (opOf (w % 2 ^ 64)) with
  | .C => .cond 0
  | k => .strand 0 0 k

/-- A strand that may issue in this clk. -/
def Strand.free (y : Strand) : Strand := { y with ended := false, stopped := false, block := none, gate := 0 }

/-- The translation that a fetch at `pc` is given: 1 GiB executable at frame 0. -/
def fetchTrans (asid : Nat) (pc : Word) : Trans := ⟨asid, pc.toNat / 2 ^ 30 * 2 ^ 30, 30, 0, 0x37, 3⟩

/-- Put bytes in memory where no key slot and no error changes how they read. -/
def placeBytes (pa : Nat) (l : List Byte) (s : State) : State :=
  { s with
    mem := Memory.writeL s.mem pa l
    keyTag := Tab.del (pa / 64) (Tab.del ((pa + l.length) / 64) s.keyTag)
    err := { s.err with badHbm := [], lost := [], fencedDies := 0 } }

/-- Put 16 bytes, an instruction and its literal, at an agent's PC, and the agent in a state to issue.
DESIGN CHOICE, log entry 7. -/
def placeAt (a : Agent) (l : List Byte) (s : State) : State :=
  let s := { s with powered := true, susp := .none, landing := false, held := [], agenda := .issue a :: s.agenda }
  match a with
  | .strand c k x =>
    let s := s.updCell c fun cl => { cl with issued := [], slots := [], flushedAll := s.oldWords.length }
    let s := s.updSlot c k fun y =>
      let y := y.setStrand x (y.strand x).free
      { y with st := .run, pages := [(2 * fetchStream x, fetchTrans (s.ctxOf 0).asid (y.strand x).pc)] }
    placeBytes ((s.strand c k x).pc.toNat % 2 ^ 30) l s
  | .cond n =>
    s.updCond n fun y =>
      let o := (condMem y.pc).getD 0
      let y := { y with st := .running, issuedClk := none, block := none, gate := 0
                        pc := if (condMem y.pc).isSome then y.pc else 0x00FFFF0000000000#64 }
      if o < 0x100000 then { y with imem := Memory.writeL y.imem o l } else { y with dmem := Memory.writeL y.dmem (o - 0x100000) l }

/-- An instruction whose first word is `w mod 2^64` and whose literal is `w / 2^64`, as the 16 bytes at the PC.
DESIGN CHOICE, log entry 7. -/
def tableBytes (w : Nat) : List Byte := leBytes 8 (w % 2 ^ 64) ++ leBytes 8 (w / 2 ^ 64)

end Sys2Proof.Machine
end

