-- ==== Sys2Proof/Machine/Step.lean ====
section
/-! DEFINITION. One step of the package: the next move of the agenda. -/

namespace Sys2Proof.Machine

open Sys2Proof

/-- One step: the next move of the agenda, or a clk where it is empty. DESIGN CHOICE, log entry 2. -/
def step (s : State) : Host.Outcome State Fault Refusal :=
  settle (moveStep (takeMove s).1 (takeMove s).2)

/-- `s` with the instruction `w` where the next step fetches it, and that step the fetching agent's issue.
DESIGN CHOICE, log entry 7. -/
def State.withFetchWord (s : State) (_nbits w : Nat) : State := placeAt (fetchAgent w) (tableBytes w) s

end Sys2Proof.Machine
end

