-- ==== Sys2Proof/Safety.lean ====
section
/-! DEFINITION. The terms that statements about this machine are written in: what an issue leaves alone, where its result
goes, what an access puts in flight, the canonical form that every step keeps, and which agents and states are in range.
Nothing here is part of the machine. -/

namespace Sys2Proof.Machine

open Sys2Proof

/-! ## Agents -/

/-- An agent of the package (R15, R17, R296): a strand of a slot of a cell, or a conductor. -/
def AgentOk : Agent → Bool
  | .strand c k x => decide (c < 128) && decide (k < 8) && x != .C
  | .cond n => decide (n < 16)

/-- The registers an agent reads as operands: s register `n` is worth `v`. -/
def Holds (s : State) (n : Nat) (v : Word) : Prop := s.rs n = v

/-! ## What an issue leaves alone -/

/-- Every part of the package outside the cells and conductors is as before: memory, contexts, accesses, time, the host
interface, the Prism, keys, links, errors and all the rest. -/
def SameElsewhere (s t : State) : Prop :=
  t = { s with cells := t.cells, conds := t.conds, cur := t.cur }

/-- Outside the issuing strand's slot, its cell's in-flight writes and the cell's record of who issued, nothing of a cell changes;
in the slot nothing changes but token counts, pushes and the issuing strand. For a conductor: no cell and no other conductor. -/
def OnlyIssuer (s t : State) : Prop :=
  match s.cur.agent with
  | .strand c k x =>
    t.conds = s.conds
      ∧ (∀ c', c' ≠ c → t.cell c' = s.cell c')
      ∧ t.cell c = { s.cell c with slots := (t.cell c).slots, wr := (t.cell c).wr, issued := (t.cell c).issued }
      ∧ (∀ k', k' ≠ k → t.slot c k' = s.slot c k')
      ∧ t.slot c k = { s.slot c k with
          q := (t.slot c k).q, pushes := (t.slot c k).pushes
          s := (t.slot c k).s, a := (t.slot c k).a, x := (t.slot c k).x, w := (t.slot c k).w }
      ∧ (∀ y, y ≠ x → y ≠ .C → t.strand c k y = s.strand c k y)
  | .cond n => t.cells = s.cells ∧ (∀ m, m ≠ n → t.condOf m = s.condOf m)

/-- The issuing strand is as `F` makes it, the issuing conductor as `G` does, but for the PC, the strand's ready age, and the
conductor's results in flight and its mark of having issued. -/
def IssuerIs (s t : State) (F : Strand → Strand) (G : Cond → Cond) : Prop :=
  match s.cur.agent with
  | .strand c k x => t.strand c k x = { F (s.strand c k x) with pc := (t.strand c k x).pc, age := 0 }
  | .cond n => t.condOf n = { G (s.condOf n) with pc := (t.condOf n).pc, wr := (t.condOf n).wr, issuedClk := some s.clk }

/-- Nothing changes but what an issue moves, a result in flight, and the clks at which the issuer's divide units fall free. -/
def OnlyResult (s t : State) : Prop :=
  OnlyIssuer s t ∧ ∃ d f, IssuerIs s t (fun y => { y with divFree := d, fdivFree := f }) fun y => { y with divFree := d, fdivFree := f }

/-- The instruction has issued, and the agent goes on at `pc`, or stays at the repeated word while a REP is active (R27, R108). -/
def GoesTo (s t : State) (pc : Word) : Prop :=
  t.cur = { s.cur with done := true } ∧ t.pcOf s.cur.agent = if s.repeating s.cur.agent then s.pcOf s.cur.agent else pc

/-! ## Results -/

/-- One interlocked 64-bit result `v` for s register `d` of the issuing agent is put in flight and lands in clk t + l − 1, at the
place the register's name had at issue; none for s0 (R34, R38, R43, R93). `engine` is the side of the order of R44. -/
def PutsS (engine : Bool) (s t : State) (d : Nat) (v : Word) (l : Nat) : Prop :=
  match s.cur.agent with
  | .strand c k x =>
    (t.cell c).wr = (s.cell c).wr ++
      if d = 0 then [] else
        [{ seq := s.cur.seq, slot := k, k := x, engine := engine, interlock := true, slate := true, due := s.clk + l - 1
           off := sOff (s.slot c k) x d, len := 8, mask := 1, val := v.toNat }]
  | .cond n =>
    (t.condOf n).wr = (s.condOf n).wr ++ if d = 0 then [] else [(s.cur.seq, d, v, s.clk + l - 1)]

/-- The lanes of `mask` of a 256-byte result for v register `d` of the issuing strand are put in flight, to land in clk t + l − 1
(R43, R149, R151). -/
def PutsV (s t : State) (d mask val l : Nat) : Prop :=
  match s.cur.agent with
  | .strand c k x =>
    (t.cell c).wr = (s.cell c).wr ++
      [{ seq := s.cur.seq, slot := k, k := x, engine := true, interlock := false, slate := true, due := s.clk + l - 1
         off := vOff (s.slot c k) x d, len := 256, mask := mask, val := val }]
  | .cond _ => True

/-- Nothing is put in flight in the register space, nor in a conductor's registers. -/
def PutsNothing (s t : State) : Prop :=
  match s.cur.agent with
  | .strand c _ _ => (t.cell c).wr = (s.cell c).wr
  | .cond n => (t.condOf n).wr = (s.condOf n).wr

/-- `i` completes at `s`: it issues, `v` goes to s register `d` with latency `l`, the agent goes on at the next instruction,
and nothing else changes. -/
def CompletesS (i : Instr) (s : State) (d : Nat) (v : Word) (l : Nat) : Prop :=
  ∃ t, exec i s = .next t ∧ PutsS false s t d v l ∧ GoesTo s t s.nextPc ∧ OnlyResult s t ∧ SameElsewhere s t

/-- The same for a result that the vector unit delivers to an s register (R150). -/
def CompletesVS (i : Instr) (s : State) (d : Nat) (v : Word) (l : Nat) : Prop :=
  ∃ t, exec i s = .next t ∧ PutsS true s t d v l ∧ GoesTo s t s.nextPc ∧ OnlyResult s t ∧ SameElsewhere s t

/-- The same for lanes of a v register. -/
def CompletesV (i : Instr) (s : State) (d mask val l : Nat) : Prop :=
  ∃ t, exec i s = .next t ∧ PutsV s t d mask val l ∧ GoesTo s t s.nextPc ∧ OnlyResult s t ∧ SameElsewhere s t

/-- A control instruction `i` completes at `s`: the agent goes on at `pc`, no sooner than clk t + 5 where its prediction was not
right (R104); the issuing strand is otherwise as `F` makes it, the conductor as `G`; `W` says what is put in flight. -/
def Controls (i : Instr) (s : State) (pc : Word) (right : Bool) (F : Strand → Strand) (G : Cond → Cond) (W : State → Prop) : Prop :=
  ∃ t, exec i s = .next t ∧ GoesTo s t pc ∧ OnlyIssuer s t ∧ SameElsewhere s t ∧ W t
    ∧ IssuerIs s t (fun y => { F y with gate := if right then y.gate else s.clk + 5 })
        fun y => { G y with gate := if right then y.gate else s.clk + 5 }

/-- `i` completes at `s` with no result: it issues, the agent goes on at the next instruction, the issuing strand is otherwise as
`F` makes it, the conductor as `G`, and nothing else changes. -/
def CompletesWith (i : Instr) (s : State) (F : Strand → Strand) (G : Cond → Cond) : Prop :=
  ∃ t, exec i s = .next t ∧ GoesTo s t s.nextPc ∧ OnlyIssuer s t ∧ SameElsewhere s t ∧ PutsNothing s t ∧ IssuerIs s t F G

/-- `i` completes at `s` with the result `v` for s register `d`, and with what `F` makes of the issuing strand, `G` of the conductor. -/
def CompletesSWith (i : Instr) (s : State) (d : Nat) (v : Word) (l : Nat) (F : Strand → Strand) (G : Cond → Cond) : Prop :=
  ∃ t, exec i s = .next t ∧ PutsS false s t d v l ∧ GoesTo s t s.nextPc ∧ OnlyIssuer s t ∧ SameElsewhere s t ∧ IssuerIs s t F G

/-- The lanes that a vector instruction with mask field `n` writes (R149). -/
def lanesOf (s : State) (n : Nat) : Nat := if n = 0 then 2 ^ 64 - 1 else (s.rs n).toNat

/-- A vector value whose lanes of mask `m` are `f i` (R35, R149). -/
def onLanes (m : Nat) (f : Nat → Nat) : Nat := ofLanes ((List.range 64).map fun i => if bit m i then f i else 0)

/-- An exact integer result brought into an integer type: saturated, or modulo its width (R148). -/
def intoType (t : ETy) (saturated : Bool) (v : Int) : Nat := wrap t.width (if saturated then max t.imin (min t.imax v) else v)

/-! ## Accesses and commands in flight -/

/-- `t` is `s` after the translation of addresses: page registers, TLB-side notes, walk requests and refusals, the walker caches, and what a
walk made at once by the hub writes (the A and D bits of a leaf, whose copies the L1s give up), but no register, no access and no other
state (R321 to R324). -/
def Translated (s t : State) : Prop :=
  t = { s with
    cells := t.cells, walks := t.walks, refusals := t.refusals, wcache := t.wcache, mem := t.mem, keyTag := t.keyTag, oldWords := t.oldWords
    err := t.err, l1 := t.l1 }
    ∧ (∀ c, t.cell c = { s.cell c with slots := (t.cell c).slots })
    ∧ (∀ c k, t.slot c k = { s.slot c k with pages := (t.slot c k).pages, lastVa := (t.slot c k).lastVa })

/-- `i` starts the access or command `a` at `s`: its addresses are translated, which leads to `s1`; then it issues, `a` is in
flight after every earlier one, each element with the size of the page that translated it, the agent goes on at the next
instruction, held until the operation performs where `holds`, and nothing else changes: no register, no byte of memory (R116, R28). -/
def Starts (i : Instr) (s s1 : State) (a : Acc) (holds : Bool) : Prop :=
  Translated s s1 ∧ ∃ t, exec i s = .next t ∧ t.accs = s1.accs ++ [a.sized s1] ∧ PutsNothing s1 t ∧ GoesTo s1 t s1.nextPc ∧ OnlyIssuer s1 t
    ∧ IssuerIs s1 t (fun y => { y with block := if holds then some s.cur.seq else y.block })
        (fun y => { y with block := if holds then some s.cur.seq else y.block })
    ∧ t = { s1 with cells := t.cells, conds := t.conds, cur := t.cur, accs := t.accs }

/-- The scope that an agent's access has: a conductor's narrow scopes act as the package's (R249). -/
def actingScope (a : Agent) (scope : Nat) : Nat :=
  match a with
  | .strand _ _ _ => scope
  | .cond _ => if scope ≤ 1 then 2 else scope

/-- The access of the current instruction of `s` before its operands are given: numbered as the instruction, of its agent and
context, of a class and a scope, which for a conductor is at least the package (R115, R116, R249). -/
def accessOf (s : State) (kind : AccKind) (cls scope : Nat) : Acc :=
  { id := s.cur.seq, agent := s.cur.agent, ctx := s.ctxNum s.cur.agent, kind := kind, cls := cls
    scope := actingScope s.cur.agent scope
    fpc := s.cur.pc, word := s.cur.word, repst := s.repst s.cur.agent, rt := s.rtOf s.cur.agent }

/-- Bytes of an element of SIZE code 0 to 6 (R79): N8, N16, N32, 64, I8, I16, I32. -/
def widthOf (size : Nat) : Nat := if size % 4 = 0 then 1 else if size % 4 = 1 then 2 else if size % 4 = 2 then 4 else 8

/-- One element at a place. -/
def atPlace (l : Loc) (ea : Word) (data : Nat) : List Elem := [{ loc := l, va := ea, lane := 0, data := data }]

/-- The fault that the current instruction takes before any effect, as the one that its cell has taken for its kind in this clk (R28, R47,
R217, R226). -/
def Faults (i : Instr) (s : State) (code sub : Nat) (addr aux aux2 : Word) : Prop :=
  exec i s = .next (takeFault s.cur.agent
    { kind := 0, code := code, sub := sub, fpc := s.cur.pc, rpc := s.cur.pc, addr := addr, aux := aux, aux2 := aux2, len := s.cur.len } (takePlace s))

/-! ## Memory in its canonical form, and accesses that may perform -/

/-- Memory and the table of key slots are in their one canonical form: addresses strictly rising, no byte listed that an unlisted
address reads as, sectors strictly rising. -/
def MemoryOk (s : State) : Prop := Memory.wf s.mem = true ∧ (s.keyTag.map Prod.fst).Pairwise (· < ·)

/-- Access `a`, numbered `id`, is in flight and every access that is locally ordered before it has performed (R258), and the clk is
not at its end. -/
def MayPerform (s : State) (id : Nat) (a : Acc) : Prop := s.landing = false ∧ s.acc id = some a ∧ mayPerform s a = true

/-- The request of access `a` has arrived at the home of `pa`: its agent is of that die, or the die is fenced and nothing travels to it, or
a packet has carried it there (R337, R338, R340). -/
def Arrived (s : State) (a : Acc) (pa : Nat) : Prop :=
  pa / 2 ^ 36 % 8 = (agentDie a.agent).getD 8 ∨ bit s.err.fencedDies (pa / 2 ^ 36 % 8) = true ∨ a.arrived.contains (pa / 2 ^ 36 % 8) = true

/-- The access `a` is one element at a place in memory. -/
def OneInMemory (a : Acc) (e : Elem) (pa key : Nat) : Prop := a.elems = [e] ∧ e.loc = .mem pa key ∧ e.nib = none ∧ a.size ≤ 6

/-- The value that a load of SIZE code `size` makes of its bytes (R79, R114). -/
def extended (size raw : Nat) : Word :=
  if 4 ≤ size then BitVec.ofInt 64 (sext raw (8 * widthOf size)) else BitVec.ofNat 64 raw

/-- `t` is `s` with the `n` low bytes of `v` at [pa, pa + n) as they read under key slot `key`: every other byte reads as before under
that key slot, and every byte of another sector as before under every key slot (R8, R328, R329). -/
def Wrote (s t : State) (pa n v key : Nat) : Prop :=
  (∀ i < n, t.byteAt (pa + i) key = v / 256 ^ i % 256)
    ∧ (∀ b, b < pa ∨ pa + n ≤ b → t.byteAt b key = s.byteAt b key)
    ∧ (∀ b k, b / 64 < pa / 64 ∨ (pa + n - 1) / 64 < b / 64 → t.byteAt b k = s.byteAt b k)

end Sys2Proof.Machine
end

