-- ==== Sys2Proof/Certificates/Slice0/Obligations.lean ====
section
/-! DEFINITION. The statements about this machine, for the provers. Every one holds in every state that meets its hypotheses,
whether or not a run reaches it. Each docstring names the rules that it rests on. -/

open Sys2Proof Sys2Proof.Machine

/-- Format A integer results (R92 to R97): the value, its register and its latency, for every operand; every other register, every
flag and every byte of memory stays, and the agent goes on at the next instruction. -/
def Obligations.IntegerResults : Prop :=
  ∀ (s : State) (x : FmtA), AgentOk s.cur.agent = true →
    let a := s.rs x.a
    let b := s.rs x.b
    let c := s.rs x.c
    let n := b.toNat % 64
    CompletesS (.add x) s x.d (BitVec.ofNat 64 (a.toNat + b.toNat)) 1
    ∧ CompletesS (.sub x) s x.d (BitVec.ofInt 64 ((a.toNat : Int) - (b.toNat : Int))) 1
    ∧ CompletesS (.mul x) s x.d (BitVec.ofNat 64 (a.toNat * b.toNat)) 3
    ∧ CompletesS (.mulh x) s x.d (BitVec.ofInt 64 (a.toInt * b.toInt / 2 ^ 64)) 4
    ∧ CompletesS (.mulhn x) s x.d (BitVec.ofNat 64 (a.toNat * b.toNat / 2 ^ 64)) 4
    ∧ CompletesS (.madd x) s x.d (BitVec.ofNat 64 (a.toNat * b.toNat + c.toNat)) 4
    ∧ CompletesS (.div x) s x.d (if b = 0 then BitVec.ofInt 64 (-1) else BitVec.ofInt 64 (a.toInt.tdiv b.toInt)) 34
    ∧ CompletesS (.divn x) s x.d (if b = 0 then BitVec.ofInt 64 (-1) else BitVec.ofNat 64 (a.toNat / b.toNat)) 34
    ∧ CompletesS (.rem x) s x.d (if b = 0 then a else BitVec.ofInt 64 (a.toInt.tmod b.toInt)) 34
    ∧ CompletesS (.remn x) s x.d (if b = 0 then a else BitVec.ofNat 64 (a.toNat % b.toNat)) 34
    ∧ CompletesS (.and x) s x.d (a &&& b) 1
    ∧ CompletesS (.or x) s x.d (a ||| b) 1
    ∧ CompletesS (.xor x) s x.d (a ^^^ b) 1
    ∧ CompletesS (.andn x) s x.d (a &&& ~~~b) 1
    ∧ CompletesS (.shl x) s x.d (BitVec.ofNat 64 (a.toNat * 2 ^ n)) 1
    ∧ CompletesS (.shr x) s x.d (BitVec.ofNat 64 (a.toNat / 2 ^ n)) 1
    ∧ CompletesS (.sha x) s x.d (BitVec.ofInt 64 (a.toInt / 2 ^ n)) 1
    ∧ CompletesS (.rol x) s x.d (a.rotateLeft n) 1
    ∧ CompletesS (.clz x) s x.d (BitVec.ofNat 64 (((List.range 64).find? fun i => a.getLsbD (63 - i)).getD 64)) 1
    ∧ CompletesS (.ctz x) s x.d (BitVec.ofNat 64 (((List.range 64).find? fun i => a.getLsbD i).getD 64)) 1
    ∧ CompletesS (.pcnt x) s x.d (BitVec.ofNat 64 ((List.range 64).filter fun i => a.getLsbD i).length) 1
    ∧ CompletesS (.min x) s x.d (if a.toInt ≤ b.toInt then a else b) 1
    ∧ CompletesS (.max x) s x.d (if a.toInt ≤ b.toInt then b else a) 1
    ∧ CompletesS (.minn x) s x.d (if a.toNat ≤ b.toNat then a else b) 1
    ∧ CompletesS (.maxn x) s x.d (if a.toNat ≤ b.toNat then b else a) 1
    ∧ CompletesS (.slt x) s x.d (if a.toInt < b.toInt then 1 else 0) 1
    ∧ CompletesS (.sltn x) s x.d (if a.toNat < b.toNat then 1 else 0) 1
    ∧ CompletesS (.seq x) s x.d (if a = b then 1 else 0) 1
    ∧ CompletesS (.sel x) s x.d (if c = 0 then b else a) 1
    ∧ CompletesS (.bext x) s x.d (BitVec.ofNat 64 (a.toNat / 2 ^ (x.f / 64) % 2 ^ (x.f % 64 + 1))) 1
    ∧ (x.f / 64 + x.f % 64 ≤ 63 → CompletesS (.bins x) s x.d
        (BitVec.ofNat 64 (a.toNat - a.toNat / 2 ^ (x.f / 64) % 2 ^ (x.f % 64 + 1) * 2 ^ (x.f / 64)
          + b.toNat % 2 ^ (x.f % 64 + 1) * 2 ^ (x.f / 64))) 1)

/-- R96: the four divisions complete for every divisor, with the results of its table. -/
def Obligations.DivisionNeverTraps : Prop :=
  ∀ (s : State) (x : FmtA), AgentOk s.cur.agent = true →
    let a := s.rs x.a
    let b := s.rs x.b
    let most := BitVec.ofNat 64 (2 ^ 63)
    let ones := BitVec.ofNat 64 (2 ^ 64 - 1)
    let out (div rem divn remn : Word) : Prop :=
      CompletesS (.div x) s x.d div 34 ∧ CompletesS (.rem x) s x.d rem 34 ∧ CompletesS (.divn x) s x.d divn 34 ∧ CompletesS (.remn x) s x.d remn 34
    (b = 0 → out ones a ones a)
    ∧ (a = most → b = ones → out most 0 0 most)
    ∧ (b ≠ 0 → ¬ (a = most ∧ b = ones) →
        let q := a.toInt.tdiv b.toInt
        out (BitVec.ofInt 64 q) (BitVec.ofInt 64 (a.toInt - q * b.toInt)) (BitVec.ofNat 64 (a.toNat / b.toNat))
          (BitVec.ofNat 64 (a.toNat - a.toNat / b.toNat * b.toNat)))

/-- Format I integer results and LIW (R94, R95), with the latency of R93, as the format A ones. -/
def Obligations.ImmediateResults : Prop :=
  ∀ (s : State) (x : FmtI) (lit : Word), AgentOk s.cur.agent = true →
    let a := s.rs x.a
    let imm := BitVec.ofInt 64 (sext x.imm 24)
    let n := x.imm % 64
    CompletesS (.addi x) s x.d (BitVec.ofNat 64 (a.toNat + imm.toNat)) 1
    ∧ CompletesS (.andi x) s x.d (a &&& imm) 1
    ∧ CompletesS (.ori x) s x.d (a ||| imm) 1
    ∧ CompletesS (.shli x) s x.d (BitVec.ofNat 64 (a.toNat * 2 ^ n)) 1
    ∧ CompletesS (.shri x) s x.d (BitVec.ofNat 64 (a.toNat / 2 ^ n)) 1
    ∧ CompletesS (.shai x) s x.d (BitVec.ofInt 64 (a.toInt / 2 ^ n)) 1
    ∧ CompletesS (.li x) s x.d imm 1
    ∧ CompletesS (.liw x lit) s x.d lit 1

/-- Scalar float results (R52 to R55, R100 to R102): the exact value rounded once in the format and mode that F names, or the
integer or predicate; with the latency of the format. -/
def Obligations.FloatResults : Prop :=
  ∀ (s : State) (x : FmtA), AgentOk s.cur.agent = true →
    let t : ETy := if bit x.f 9 then .f64 else .f32
    let m := bits x.f 11 10
    let l (a b : Nat) := if bit x.f 9 then b else a
    let a := decodeF t (s.rs x.a).toNat
    let b := decodeF t (s.rs x.b).toNat
    let c := decodeF t (s.rs x.c).toNat
    let out (v : Nat) := BitVec.ofNat 64 v
    CompletesS (.fadd x) s x.d (out (roundFmt t m (addX m a b))) (l 4 5)
    ∧ CompletesS (.fsub x) s x.d (out (roundFmt t m (addX m a b.neg))) (l 4 5)
    ∧ CompletesS (.fmul x) s x.d (out (roundFmt t m (mulX a b))) (l 4 5)
    ∧ CompletesS (.fdiv x) s x.d (out (roundFmt t m (divX a b))) (l 12 22)
    ∧ CompletesS (.fsqrt x) s x.d (out (roundFmt t m (sqrtX a))) (l 12 24)
    ∧ CompletesS (.ffma x) s x.d (out (roundFmt t m (addX m (mulX a b) c))) (l 4 5)
    ∧ CompletesS (.fmin x) s x.d (out (roundFmt t 0 (minX a b))) 2
    ∧ CompletesS (.fmax x) s x.d (out (roundFmt t 0 (maxX a b))) 2
    ∧ CompletesS (.fcmp x) s x.d
        (if fpred (x.f % 8) (a.isNan || b.isNan) (ltX a b && !eqX a b) (eqX a b) then 1 else 0) 2
    ∧ CompletesS (.fcvt x) s x.d
        (if bit x.f 8 then out (roundFmt t m (cvtSource (x.f % 16) (s.rs x.a))) else out (cvtResult (x.f % 16) m a)) 3
    ∧ CompletesS (.fclass x) s x.d (out (fclassV t (s.rs x.a))) 2

/-- Conditional branches (R103, R104): the target is taken just when the comparison holds, and an agent whose branch was not
predicted issues next in clk t + 5 at the earliest; that a branch to the next word is judged by its direction too is log entry 59.

Jumps (R103, R104): the target, the link, and the trap of a target that is not a multiple of 8.

Hardware loops (R91, R105, R106, R39): opening a loop, an empty loop, the turn of a loop with its stage predicates and the
rotation of a strand's names, and LOOP with no loop open.

REP and its repetitions (R107, R108, R201): the words it refuses, an ADRN .nan on a tensor of another type than E4M3 among them; the
count 0, the count above 0, and what each repetition that has issued leaves of the count and the PC. -/
def Obligations.ControlFlow : Prop :=
  (∀ (s : State) (x : FmtB), AgentOk s.cur.agent = true →
      let a := s.rs x.a
      let b := s.rs x.b
      let target := s.cur.pc + BitVec.ofInt 64 (8 * sext x.disp 20)
      let predicted := if x.hint = 1 then true else if x.hint = 2 then false else decide (sext x.disp 20 < 0)
      let goes (i : Instr) (taken : Bool) : Prop :=
        Controls i s (if taken then target else s.nextPc) (taken == predicted) (fun y => y) (fun y => y) (PutsNothing s)
      goes (.beq x) (decide (a = b)) ∧ goes (.bne x) (decide (a ≠ b))
      ∧ goes (.blt x) (decide (a.toInt < b.toInt)) ∧ goes (.bge x) (decide (b.toInt ≤ a.toInt))
      ∧ goes (.bltn x) (decide (a.toNat < b.toNat)) ∧ goes (.bgen x) (decide (b.toNat ≤ a.toNat)))
  ∧ (∀ (s : State) (x : FmtB) (y : FmtA), AgentOk s.cur.agent = true →
      let target := s.cur.pc + BitVec.ofInt 64 (8 * sext x.disp 20)
      let same (z : Strand) := z
      let sameC (z : Cond) := z
      Controls (.jmp x) s target true same sameC (PutsNothing s)
      ∧ Controls (.jal x) s target true same sameC (fun t => PutsS false s t x.a (s.cur.pc + 8) 1)
      ∧ ((s.rs y.a).toNat % 8 = 0 → Controls (.jr y) s (s.rs y.a) false same sameC (fun t => PutsS false s t y.d (s.cur.pc + 8) 1))
      ∧ ((s.rs y.a).toNat % 8 ≠ 0 → Faults (.jr y) s 0x02 0 (s.rs y.a) 0 0))
  ∧ (∀ (s : State) (x : FmtI) (y : FmtB), AgentOk s.cur.agent = true →
      let n := (s.rs x.a).toNat % 2 ^ 32
      let stages := x.imm % 16
      let predicates (stg cnt i : Nat) : Word :=
        BitVec.ofNat 64 (((List.range 7).filter fun j => j < stg ∧ j ≤ i ∧ i - j < cnt).foldl (fun v j => v + 2 ^ (j + 1)) 0)
      let loopOpen (act : Bool) (stg cnt : Nat) : Word := BitVec.ofNat 64 ((if act then 2 ^ 63 else 0) + stg * 2 ^ 32 + cnt)
      let stg := (s.lpctl s.cur.agent).toNat / 2 ^ 32 % 16
      let cnt := (s.lpctl s.cur.agent).toNat % 2 ^ 32
      let i := (s.lpidx s.cur.agent).toNat % 2 ^ 33 + 1
      let goesOn := decide (i < cnt + stg - 1)
      let turned (r : Word) : Word :=
        if r.toNat / 2 ^ 30 % 4 = 0 then r
        else BitVec.ofNat 64 (r.toNat % 2 ^ 40 + (r.toNat / 2 ^ 40 % 64 + r.toNat / 2 ^ 32 % 64 - 1) % (r.toNat / 2 ^ 32 % 64) * 2 ^ 40)
      (n = 0 → Controls (.loopi x) s (s.cur.pc + BitVec.ofNat 64 (8 * (x.imm / 16) + 8)) false
          (fun z => { z with lpctl := 0, lpidx := 0, qpred := 0 }) (fun z => { z with lpctl := 0, lpidx := 0, qpred := 0 }) (PutsNothing s))
      ∧ (n ≠ 0 → Controls (.loopi x) s s.nextPc true
          (fun z => { z with lpctl := loopOpen true stages n, lpidx := 0, qpred := predicates stages n 0 })
          (fun z => { z with lpctl := loopOpen true stages n, lpidx := 0, qpred := predicates stages n 0 }) (PutsNothing s))
      ∧ ((s.lpctl s.cur.agent).toNat < 2 ^ 63 → Faults (.loop y) s 0x01 7 0 0 0)
      ∧ (2 ^ 63 ≤ (s.lpctl s.cur.agent).toNat → Controls (.loop y) s
          (if goesOn then s.cur.pc + BitVec.ofInt 64 (8 * sext y.disp 20) else s.nextPc) goesOn
          (fun z => { z with
            lpctl := loopOpen goesOn stg cnt, lpidx := BitVec.ofNat 64 (i % 2 ^ 33), qpred := predicates stg cnt i, rotv := turned z.rotv })
          (fun z => { z with lpctl := loopOpen goesOn stg cnt, lpidx := BitVec.ofNat 64 (i % 2 ^ 33), qpred := predicates stg cnt i })
          (PutsNothing s)))
  ∧ (∀ (s : State) (x : FmtI), AgentOk s.cur.agent = true →
      let a := s.cur.agent
      let n := (s.rs x.a).toNat % 2 ^ 32 + x.imm % 2 ^ 16
      let op := opOf s.cur.next.toNat
      let refused : Prop := (0x3C ≤ op ∧ op ≤ 0x4A) ∨ op = 0xE2 ∨ op = 0xE3 ∨ op = 0xE8
        ∨ (∀ q, decode (agentKind a) s.cur.next.toNat s.cur.nextLit.toNat ≠ .ok q) ∨ nanRefused s a s.cur.next.toNat = true
      let active (l : Nat) : Word := BitVec.ofNat 64 (2 ^ 63 + l)
      let left := (s.repst a).toNat % 2 ^ 33 - 1
      (refused → Faults (.rep x) s 0x01 7 0 0 0)
      ∧ (¬ refused → n = 0 → Controls (.rep x) s (s.nextPc + BitVec.ofNat 64 (if hasLit op then 16 else 8)) false
          (fun y => y) (fun y => y) (PutsNothing s))
      ∧ (¬ refused → 0 < n → Controls (.rep x) s s.nextPc true
          (fun y => { y with repst := active n }) (fun y => { y with repst := active n }) (PutsNothing s))
      ∧ (s.cur.done = true → 2 ^ 63 ≤ (s.repst a).toNat →
          (left ≠ 0 → exec (.repRepetition a) s = .next (setRepst a (active left) s))
          ∧ (left = 0 → exec (.repRepetition a) s = .next ((setRepst a 0 s).setPc a s.nextPc))))

/-- NOP, YIELD, END and PREF (R50, R109 to R111, R120): NOP writes nothing; YIELD gives way for the 16 clk after its issue; END does
what NOP does and ends the strand, and with the fourth strand the task; PREF writes no register, puts no access in flight and reaches no
memory: at most it asks for a speculative walk, and brings into the issuing cell's L1 copies of one line of 256 bytes, none of them
modified, where every cell keeps the sectors that it holds; the line is the named one where the stream holds its page, and PREF.L2 brings
no copy. -/
def Obligations.PlainInstructions : Prop :=
  ∀ (s : State) (x : FmtZ) (y : FmtM), AgentOk s.cur.agent = true →
    let ea := s.rs y.base + BitVec.ofInt 64 (sext y.disp 12)
    let prefetches (i : Instr) (toL1 : Bool) : Prop := ∃ t, exec i s = .next t
      ∧ GoesTo s t s.nextPc ∧ OnlyIssuer s t ∧ PutsNothing s t ∧ IssuerIs s t (fun z => z) (fun z => z)
      ∧ t = { s with cells := t.cells, conds := t.conds, cur := t.cur, walks := t.walks, l1 := t.l1 }
      ∧ (t.walks = s.walks ∨ ∃ w, w.spec = true ∧ t.walks = s.walks ++ [w])
      ∧ (∀ q ∈ t.l1, q.st = .m → q ∈ s.l1) ∧ (toL1 = false → t.l1 = s.l1)
      ∧ (∀ q ∈ s.l1, ∃ r ∈ t.l1, r.cell = q.cell ∧ r.pa = q.pa)
      ∧ (∀ n, s.cur.agent = .cond n → t.l1 = s.l1)
      ∧ (∀ c k z, s.cur.agent = .strand c k z → ∃ line,
          (∀ r ∈ t.l1, (∃ q ∈ s.l1, r.cell = q.cell ∧ r.pa = q.pa) ∨ (r.cell = c ∧ r.pa / 256 = line))
          ∧ ∀ tr, Tab.find (2 * dataStream z) (s.slot c k).pages = some tr → tr.asid = (s.ctxOf (s.slot c k).ctx).asid →
              ea.toNat / 2 ^ tr.sz * 2 ^ tr.sz = tr.va → line = (tr.pa + ea.toNat % 2 ^ tr.sz) / 256)
    CompletesWith (.nop x) s (fun y => y) (fun y => y)
    ∧ CompletesWith (.yield x) s (fun y => { y with yieldUntil := s.clk + 17 }) (fun y => y)
    ∧ prefetches (.prefL1 y) true
    ∧ prefetches (.prefL2 y) false
    ∧ ∀ t, exec (.nop x) s = .next t → exec (.endStrand x) s = .next
        (match s.cur.agent with
          | .strand c k z =>
            let last := [Kind.S, .A, .X, .W].all fun y => y == z || (s.strand c k y).ended
            t.updSlot c k fun sl =>
              { sl.setStrand z { sl.strand z with ended := true } with st := if last then .ending else sl.st }
          | .cond n => t.updCond n fun y => { y with st := .stopped })

/-- Scalar loads, stores, atomics and semaphore additions (R113 to R119, R122, R123, R207): where the address is canonical, aligned
and translated, the access is in flight with the operands read at issue; a load or atomic has its destination's place of issue.

The places of an access (R113, R118, R321 to R324, R408): a canonical, aligned address whose stream holds its page goes to the
physical address of that page, and the stream notes it; an address that is not canonical, or not a multiple of its size, faults,
in that order; for a conductor its own memories come before any translation (R296). -/
def Obligations.ScalarAccesses : Prop :=
  (∀ (s s1 : State) (x : FmtM) (y : FmtP) (q : FmtQ) (l : Loc), AgentOk s.cur.agent = true →
      let ea := s.rs x.base + BitVec.ofInt 64 (sext x.disp 12)
      let ordered := bit y.sub 4
      let dst := dstS s s.cur.agent
      (placeScalar s.dStream 0 (widthOf x.size) ea s = .ok (l, s1) → x.size ≤ 6 →
        Starts (.ld x) s s1 { accessOf s .load x.cls x.scope with
          size := x.size, acq := bit x.qual 0, byp := bit x.qual 1, elems := atPlace l ea 0, dst := dst x.d } false)
      ∧ (placeScalar s.dStream 1 (widthOf x.size) ea s = .ok (l, s1) → x.size ≤ 6 →
        Starts (.st x) s s1 { accessOf s .store x.cls x.scope with
          size := x.size, rel := bit x.qual 0, elems := atPlace l ea (s.rs x.d).toNat } false)
      ∧ (placeScalar s.dStream 2 (widthOf y.size) (s.rs y.base) s = .ok (l, s1) → y.size ≤ 6 →
        Starts (.amo y) s s1 { accessOf s (.amo (y.sub % 16)) y.cls y.scope with
          size := y.size, acq := ordered, rel := ordered, x := s.rs y.x, elems := atPlace l (s.rs y.base) 0, dst := dst y.d } false
        ∧ Starts (.cas y) s s1 { accessOf s .cas y.cls y.scope with
          size := y.size, acq := ordered, rel := ordered, x := s.rs y.x, d := s.rs y.d, elems := atPlace l (s.rs y.base) 0
          dst := dst y.d } false)
      ∧ (placeScalar s.dStream 2 8 (s.rs q.a) s = .ok (l, s1) →
        Starts (.semadd q) s s1 { accessOf s (.amo 0) (q.f % 16) 2 with
          size := 3, acq := true, rel := true, x := s.rs q.b, elems := atPlace l (s.rs q.a) 0, dst := dst q.d } false))
  ∧ (∀ (s : State) (stream kind width : Nat) (ea : Word), 0 < width →
      let h := ea.toNat / 2 ^ 56
      let fault (code : Nat) (aux : Word) : State := takeFault s.cur.agent
        { kind := 0, code := code, fpc := s.cur.pc, rpc := s.cur.pc, addr := ea, aux := aux, len := s.cur.len } (takePlace s)
      (h ≠ 0 ∧ h ≠ 255 → placeScalar stream kind width ea s = .error (fault 0x04 (BitVec.ofNat 64 (6 * 2 ^ 12 + kind))))
      ∧ (h = 0 ∨ h = 255 → ea.toNat % width ≠ 0 → placeScalar stream kind width ea s = .error (fault 0x07 0))
      ∧ (∀ c k z t, h = 0 ∨ h = 255 → ea.toNat % width = 0 → s.cur.agent = .strand c k z →
          Tab.find (2 * stream) (s.slot c k).pages = some t →
          t.asid = (s.ctxOf (s.slot c k).ctx).asid → ea.toNat / 2 ^ t.sz * 2 ^ t.sz = t.va →
          bit t.pte 6 = false → (kind = 0 ∨ (bit t.pte 1 = true ∧ bit t.pte 5 = true)) → kind ≤ 2 →
          placeScalar stream kind width ea s =
            .ok (.mem (t.pa + ea.toNat % 2 ^ t.sz) (t.pte / 2 ^ 52), noteStream c k stream ea t false s))
      ∧ (∀ n, s.cur.agent = .cond n → ea.toNat % width = 0 →
          0x00FFFF0000000000 ≤ ea.toNat → ea.toNat < 0x00FFFF0000000000 + 0x140000 →
          placeScalar stream kind width ea s = .ok (.cond n (ea.toNat - 0x00FFFF0000000000), s)))

/-- Vector loads and stores, gathers and scatters (R125 to R128): element i of a contiguous access lies i element sizes above the
address, and a wrapped element comes first; element i of a gather or scatter is the lane's index scaled by F above the base, or a
nibble; only the lanes that the mask selects are accessed. -/
def Obligations.VectorAccesses : Prop :=
  ∀ (s s1 : State) (x : FmtM) (y : FmtA) (ls : List Loc), AgentOk s.cur.agent = true →
    let ea := s.rs x.base + BitVec.ofInt 64 (sext x.disp 12)
    let at_ (i : Nat) : Word := ea + BitVec.ofNat 64 (widthOf x.size * i)
    let lanes := ((List.range 64).filter fun i => decide ((at_ i).toNat < ea.toNat)) ++ (List.range 64).filter fun i => decide (ea.toNat ≤ (at_ i).toNat)
    let esz := y.f / 2 ^ 9
    let picked := (List.range 64).filter fun i => if y.c = 0 then true else (s.rs y.c).getLsbD i
    let index (i : Nat) : Int := (BitVec.ofNat 32 (s.rv (y.b % 32) / 2 ^ (32 * i))).toInt
    let gat (i : Nat) : Word :=
      s.rs y.a + BitVec.ofInt 64 (if esz = 7 then index i / 2 else index i * 2 ^ (y.f / 2 ^ 7 % 4))
    let nib (i : Nat) : Option Bool := if esz = 7 then some (decide (index i % 2 = 1)) else none
    let gsize : Nat := if esz = 7 then 1 else widthOf esz
    let named (v : Word) : Word := ((picked.find? fun i => gat i == v).map (BitVec.ofNat 64)).getD 0
    let base (kind : AccKind) : Acc := { accessOf s kind (y.f / 2 ^ 3 % 16) (y.f / 2 % 4) with size := esz }
    (placeElems s.dStream 0 (widthOf x.size) (fun _ => 0) (lanes.map at_) s = .ok (ls, s1) → x.size ≤ 6 → x.size ≠ 3 →
      Starts (.vld x) s s1 { accessOf s .vload x.cls x.scope with
        size := x.size, acq := bit x.qual 0, byp := bit x.qual 1, dst := s.dstV x.d
        elems := (lanes.zip ls).map fun (i, l) => { loc := l, va := at_ i, lane := i, data := 0 } } false)
    ∧ (placeElems s.dStream 1 (widthOf x.size) (fun _ => 0) (lanes.map at_) s = .ok (ls, s1) → x.size ≤ 6 → x.size ≠ 3 →
      Starts (.vst x) s s1 { accessOf s .vstore x.cls x.scope with
        size := x.size, rel := bit x.qual 0
        elems := (lanes.zip ls).map fun (i, l) => { loc := l, va := at_ i, lane := i, data := s.rv x.d / 2 ^ (32 * i) % 2 ^ 32 } } false)
    ∧ (placeElems s.dStream 0 gsize named (picked.map gat) s = .ok (ls, s1) → y.f < 2 ^ 12 → esz ≠ 3 →
      Starts (.vgth y) s s1 { base .vload with
        acq := bit y.f 0, dst := s.dstV (y.d % 32)
        elems := (picked.zip ls).map fun (i, l) => { loc := l, va := gat i, lane := i, data := 0, nib := nib i } } false)
    ∧ (placeElems s.dStream 1 gsize named (picked.map gat) s = .ok (ls, s1) → y.f < 2 ^ 12 → esz ≠ 3 →
      Starts (.vsct y) s s1 { base .vstore with
        rel := bit y.f 0
        elems := (picked.zip ls).map fun (i, l) =>
          { loc := l, va := gat i, lane := i, data := s.rv (y.d % 32) / 2 ^ (32 * i) % 2 ^ 32, nib := nib i } } false)

/-- CINV, FENCE, IFLUSH, TLBI, COLLW, BARA and BARM (R121, R124, R208 to R210, R219): each is in flight with what its operands name,
and it is its access that has the effect when it performs; the operands that sub-code 7 refuses; a TLBI has started its shootdown.
IFLUSH and COLLW hold the strand until they have performed.

BARW (R208): once the task's own arrivals at the barrier have been recorded and the generation after the last of them has begun, by at
most 2^31, it completes as an acquire of package scope with the generation that was completed; before that it waits and changes nothing.
That it waits for an arrival which is on its way is the model's reading (log entry 15), and so is its latency of 1 (log entry 16). -/
def Obligations.MaintenanceAndBarriers : Prop :=
  (∀ (s s1 : State) (x : FmtM) (y : FmtI) (z : FmtA) (zz : FmtZ) (q : FmtQ) (l : Loc), AgentOk s.cur.agent = true →
      let ea := s.rs x.base + BitVec.ofInt 64 (sext x.disp 12)
      let asid := (s.rs z.a).toNat
      let shoot (mode asid : Nat) (va : Word) : State := { s with shoots := s.shoots ++ [⟨s.cur.seq, mode, asid, va⟩] }
      let ctx := s.ctxOf (s.ctxNum s.cur.agent)
      let ticket := (s.rs q.a).toNat % 2 ^ 32
      let old := ticket < ctx.tickets ∨ 2 ^ 32 ≤ ctx.tickets
      let mask := (s.rs q.a).toNat + 2 ^ 64 * (s.rs q.b).toNat
      let n := q.idx % 32
      (canonical ea = true → place s.dStream 0 ea s = .ok (l, s1) →
        Starts (.cinvLine x) s s1 { accessOf s (.cinv 0) x.cls 2 with elems := atPlace l ea 0, size := 0 } false)
      ∧ Starts (.cinvDie x) s s (accessOf s (.cinv 1) x.cls 2) false
      ∧ Starts (.cinvPkg x) s s (accessOf s (.cinv 2) x.cls 2) false
      ∧ Starts (.fence y) s s (accessOf s (.fence (y.imm / 2 ^ 4 % 4) (y.imm / 2 ^ 8 % 2 ^ 16)) 0 (y.imm / 2 ^ 6 % 4)) false
      ∧ Starts (.iflush zz) s s (accessOf s .iflush 0 1) true
      ∧ (asid < 2 ^ 16 → exec (.tlbiAsid z) s = .next (issueAcc (accessOf s (.tlbi 0 asid 0) 0 2) (shoot 0 asid 0)))
      ∧ (asid < 2 ^ 16 → exec (.tlbiPage z) s = .next (issueAcc (accessOf s (.tlbi 1 asid (s.rs z.b)) 0 2) (shoot 1 asid (s.rs z.b))))
      ∧ (2 ^ 16 ≤ asid → Faults (.tlbiAsid z) s 0x01 7 0 0 0 ∧ Faults (.tlbiPage z) s 0x01 7 0 0 0)
      ∧ exec (.tlbiAll z) s = .next (issueAcc (accessOf s (.tlbi 2 0 0) 0 2) (shoot 2 0 0))
      ∧ (old → Starts (.collw q) s s { accessOf s (.collw ticket) 0 3 with acq := true, dst := dstS s s.cur.agent q.d } true)
      ∧ (¬ old → Faults (.collw q) s 0x01 7 0 0 0)
      ∧ (∀ c k st, s.cur.agent = .strand c k st →
          let b := (s.ctxOf (s.slot c k).ctx).barrier n
          let noted := s.updStrand c k st fun y => { y with barsel := n }
          (bit b.members c = true → exec (.bara q) s = .next (issueAcc
            { accessOf s (.bara n) 0 2 with rel := true, dst := dstS s s.cur.agent q.d } noted))
          ∧ (bit b.members c = false → Faults (.bara q) s 0x01 7 0 0 0)
          ∧ (mask ≠ 0 → mask &&& s.err.fencedCells = 0 → Starts (.barm q) s s (accessOf s (.barm n mask (q.f + 1)) 0 2) false)
          ∧ (mask = 0 ∨ mask &&& s.err.fencedCells ≠ 0 → Faults (.barm q) s 0x01 7 0 0 0)))
  ∧ (∀ (s : State) (q : FmtQ) (c k : Nat) (st : Kind), AgentOk s.cur.agent = true → s.cur.agent = .strand c k st →
      let n := q.idx % 32
      let g := ((s.ctxOf (s.slot c k).ctx).barrier n).g
      let ahead := (g - Tab.get 0 n (s.slot c k).arrg).toNat
      let onTheWay : Prop := ∃ r ∈ s.accs, r.orphan = false ∧ r.kind = .bara n ∧ ∃ z, r.agent = .strand c k z
      let noted := acquireBump s.cur.agent (s.slot c k).ctx 2 (s.updStrand c k st fun y => { y with barsel := n })
      (¬ onTheWay → 1 ≤ ahead ∧ ahead ≤ 2 ^ 31 →
        exec (.barw q) s = .next (retireIn 1 (writeS q.d (BitVec.ofNat 64 (g - 1).toNat) 1 noted)))
      ∧ (onTheWay ∨ ahead = 0 ∨ 2 ^ 31 < ahead → exec (.barw q) s = .next s))

/-- Launches, command queues, semaphore waits and collectives (R204 to R207, R210): the record that the operand names, read whole, is in
flight as a release or acquire that bypasses the caches; a launch and a semaphore wait hold their agent; a selector of 64 or more is
refused; a full queue, or 16 open collectives, make the instruction wait. -/
def Obligations.EngineInstructions : Prop :=
  ∀ (s s1 : State) (q : FmtQ) (l : Loc), AgentOk s.cur.agent = true →
    let ea := s.rs q.a
    let record (n : Nat) : List Elem := (List.range n).map fun i =>
      { loc := (match l with | .mem pa key => .mem (pa + 8 * i) key | .cond m o => .cond m (o + 8 * i) | l => l)
        va := ea + BitVec.ofNat 64 (8 * i), lane := i, data := 0 }
    let cls := q.f % 16
    let dst := dstS s s.cur.agent q.d
    let sel := (s.rs q.b).toNat
    let dq := s.dieq (sel / 8 % 8) (sel % 8)
    (placeRecord 256 ea s = .ok (l, s1) →
      Starts (.launch q) s s1 { accessOf s .launch cls 2 with rel := true, byp := true, elems := record 32, dst := dst, x := ea } true)
    ∧ (sel < 64 → (dq.tail - dq.head).toNat < 32 → placeRecord 64 ea s = .ok (l, s1) →
      Starts (.qpush q) s s1
        { accessOf s (.qpush sel) cls 2 with rel := true, byp := true, elems := record 8, dst := dst, x := ea } false)
    ∧ (64 ≤ sel → Faults (.qpush q) s 0x01 7 0 0 0)
    ∧ (sel < 64 → 32 ≤ (dq.tail - dq.head).toNat → exec (.qpush q) s = .next s)
    ∧ (placeScalar s.dStream 0 8 ea s = .ok (l, s1) →
      Starts (.semw q) s s1
        { accessOf s (.semw (s.rs q.b)) cls 2 with size := 3, acq := true, byp := true, elems := atPlace l ea 0, dst := dst } true)
    ∧ ((s.ctxOf (s.ctxNum s.cur.agent)).colls.length < 16 → placeRecord 64 ea s = .ok (l, s1) →
      Starts (.coll q) s s1 { accessOf s .coll cls 3 with rel := true, byp := true, elems := record 8, dst := dst, x := ea } false)
    ∧ (16 ≤ (s.ctxOf (s.ctxNum s.cur.agent)).colls.length → exec (.coll q) s = .next s)

/-- Time-tagged stores and not-before loads of the package's own memory (R129, R130, R132, R134): the least lead of each scope, the
faults of a lead that is too short and of a group scope in holdover, and the access in flight. -/
def Obligations.TimeTaggedAccesses : Prop :=
  ∀ (s s1 : State) (y : FmtP) (l : Loc), AgentOk s.cur.agent = true → y.size ≤ 6 →
    let ea := s.rs y.base + BitVec.ofNat 64 (8 * (y.sub % 8))
    let t := s.rs y.x
    let scope := actingScope s.cur.agent y.scope
    let least : Int := if scope = 0 then 16 else if scope = 1 then 120 else if scope = 2 then 800 else 8000
    let lead := (t - s.rtOf s.cur.agent).toInt
    let good := canonical ea = true ∧ ea.toNat % widthOf y.size = 0
    let holdover := scope = 3 ∧ s.time.holdover = true
    (good → ¬ holdover → least ≤ lead → place s.dStream 1 ea s = .ok (l, s1) →
      Starts (.stat y) s s1 { accessOf s (.stat t) y.cls y.scope with
        size := y.size, rel := bit y.sub 3, elems := atPlace l ea (s.rs y.d).toNat } false)
    ∧ (good → holdover → Faults (.stat y) s 0x0A 0 ea 0 0 ∧ Faults (.ldnb y) s 0x0A 0 ea 0 0)
    ∧ (good → ¬ holdover → lead < least → Faults (.stat y) s 0x09 0 ea 0 0)
    ∧ (good → ¬ holdover → place s.dStream 0 ea s = .ok (l, s1) →
      Starts (.ldnb y) s s1 { accessOf s (.ldnb t) y.cls y.scope with
        size := y.size, acq := bit y.sub 3, byp := true, elems := atPlace l ea 0, dst := dstS s s.cur.agent y.d } false)

/-- Peer instructions that name the package itself (R135): each is the local access of its kind, translated; a time-tagged store has the
least lead of its scope and faults on a shorter one, and group scope in holdover faults (R130, R132).

Peer instructions that name another member (R49, R135, R136, R408): the access goes to that member with the address as it stands,
untranslated; a load or atomic parks its task; a scope other than the group, an address outside the symmetric heap and a member that
is not connected fault.

What parking leaves (R49): the slot leaves RUN for PARKED and awaits the reply of this instruction; a conductor goes on. -/
def Obligations.PeerAccesses : Prop :=
  (∀ (s s1 : State) (y : FmtP) (l : Loc), AgentOk s.cur.agent = true → y.size ≤ 6 → s.peer y.peer = s.selfIdx →
      let ea := s.rs y.base + BitVec.ofNat 64 (8 * (y.sub % 8))
      let base := s.rs y.base
      let ordered := bit y.sub 4
      let elems (a : Word) : List Elem := atPlace l a (s.rs y.d).toNat
      let good (a : Word) := canonical a = true ∧ a.toNat % widthOf y.size = 0
      let dst := dstS s s.cur.agent y.d
      let t := s.rs y.x
      let scope := actingScope s.cur.agent y.scope
      let least : Int := if scope = 0 then 16 else if scope = 1 then 120 else if scope = 2 then 800 else 8000
      let lead := (t - s.rtOf s.cur.agent).toInt
      let holdover := scope = 3 ∧ s.time.holdover = true
      (good ea → ¬ holdover → least ≤ lead → place s.dStream 1 ea s = .ok (l, s1) →
        Starts (.pstat y) s s1 { accessOf s (.stat t) y.cls y.scope with
          size := y.size, rel := bit y.sub 3, elems := elems ea, d := s.rs y.d } false)
      ∧ (good ea → ¬ holdover → place s.dStream 0 ea s = .ok (l, s1) →
        Starts (.pldnb y) s s1 { accessOf s (.ldnb t) y.cls y.scope with
          size := y.size, acq := bit y.sub 3, byp := true, elems := elems ea, dst := dst } false)
      ∧ (good ea → holdover → Faults (.pstat y) s 0x0A 0 ea 0 0 ∧ Faults (.pldnb y) s 0x0A 0 ea 0 0)
      ∧ (good ea → ¬ holdover → lead < least → Faults (.pstat y) s 0x09 0 ea 0 0)
      ∧ (good ea → place s.dStream 0 ea s = .ok (l, s1) →
        Starts (.pld y) s s1 { accessOf s .load y.cls y.scope with
          size := y.size, acq := bit y.sub 3, byp := bit y.sub 4, elems := elems ea, dst := dst } false)
      ∧ (good ea → place s.dStream 1 ea s = .ok (l, s1) →
        Starts (.pst y) s s1 { accessOf s .store y.cls y.scope with
          size := y.size, rel := bit y.sub 3, elems := elems ea, d := s.rs y.d } false)
      ∧ (good base → place s.dStream 2 base s = .ok (l, s1) →
        Starts (.pamo y) s s1 { accessOf s (.amo (y.sub % 16)) y.cls y.scope with
          size := y.size, acq := ordered, rel := ordered, x := s.rs y.x, elems := elems base, dst := dst } false
        ∧ Starts (.pcas y) s s1 { accessOf s .cas y.cls y.scope with
          size := y.size, acq := ordered, rel := ordered, x := s.rs y.x, d := s.rs y.d, elems := elems base, dst := dst } false))
  ∧ (∀ (s : State) (y : FmtP), AgentOk s.cur.agent = true → y.size ≤ 6 → s.peer y.peer ≠ s.selfIdx →
      let m := s.peer y.peer
      let ctx := s.ctxNum s.cur.agent
      let ea := s.rs y.base + BitVec.ofNat 64 (8 * (y.sub % 8))
      let base := s.rs y.base
      let ordered := bit y.sub 4
      let elems (a : Word) : List Elem := atPlace (.peer m a) a (s.rs y.d).toNat
      let inReach (a : Word) := canonical a = true ∧ inHeap s ctx a (widthOf y.size) = true
      let good (a : Word) := inReach a ∧ a.toNat % widthOf y.size = 0 ∧ memberPresent s ctx m = true
      let dst := dstS s s.cur.agent y.d
      let parks (i : Instr) (a : Acc) : Prop := exec i s = .next (parkTask (issueAcc a s))
      let t := s.rs y.x
      (y.scope ≠ 3 → Faults (.pld y) s 0x01 7 0 0 0 ∧ Faults (.pst y) s 0x01 7 0 0 0 ∧ Faults (.pamo y) s 0x01 7 0 0 0
        ∧ Faults (.pcas y) s 0x01 7 0 0 0 ∧ Faults (.pstat y) s 0x01 7 0 0 0 ∧ Faults (.pldnb y) s 0x01 7 0 0 0)
      ∧ (y.scope = 3 →
        (canonical ea = true → inHeap s ctx ea (widthOf y.size) = false → Faults (.pld y) s 0x0C 0 ea 0 0 ∧ Faults (.pst y) s 0x0C 0 ea 0 0
          ∧ Faults (.pstat y) s 0x0C 0 ea 0 0 ∧ Faults (.pldnb y) s 0x0C 0 ea 0 0)
        ∧ (canonical base = true → inHeap s ctx base (widthOf y.size) = false →
            Faults (.pamo y) s 0x0C 0 base 0 0 ∧ Faults (.pcas y) s 0x0C 0 base 0 0)
        ∧ (inReach ea → ea.toNat % widthOf y.size = 0 → memberPresent s ctx m = false →
            Faults (.pld y) s 0x0D 0 ea 1 0 ∧ Faults (.pst y) s 0x0D 0 ea 1 0 ∧ Faults (.pstat y) s 0x0D 0 ea 1 0
            ∧ Faults (.pldnb y) s 0x0D 0 ea 1 0)
        ∧ (inReach base → base.toNat % widthOf y.size = 0 → memberPresent s ctx m = false →
            Faults (.pamo y) s 0x0D 0 base 1 0 ∧ Faults (.pcas y) s 0x0D 0 base 1 0)
        ∧ (good ea → parks (.pld y) { accessOf s .load y.cls 3 with
            size := y.size, acq := bit y.sub 3, byp := bit y.sub 4, elems := elems ea, dst := dst })
        ∧ (good ea → Starts (.pst y) s s { accessOf s .store y.cls 3 with
            size := y.size, rel := bit y.sub 3, elems := elems ea, d := s.rs y.d } false)
        ∧ (good base → parks (.pamo y) { accessOf s (.amo (y.sub % 16)) y.cls 3 with
            size := y.size, acq := ordered, rel := ordered, x := s.rs y.x, elems := elems base, dst := dst })
        ∧ (good base → parks (.pcas y) { accessOf s .cas y.cls 3 with
            size := y.size, acq := ordered, rel := ordered, x := s.rs y.x, d := s.rs y.d, elems := elems base, dst := dst })
        ∧ (good ea → s.time.holdover = false → 8000 ≤ (t - s.rtOf s.cur.agent).toInt →
            Starts (.pstat y) s s { accessOf s (.stat t) y.cls 3 with
              size := y.size, rel := bit y.sub 3, elems := elems ea, d := s.rs y.d } false)
        ∧ (good ea → s.time.holdover = false → parks (.pldnb y) { accessOf s (.ldnb t) y.cls 3 with
            size := y.size, acq := bit y.sub 3, byp := true, elems := elems ea, dst := dst })))
  ∧ (∀ (s : State) (a : Acc), AgentOk s.cur.agent = true →
      match s.cur.agent with
      | .strand c k x =>
        (s.slot c k).st = .run →
          let t := parkTask (issueAcc a s)
          (t.slot c k).st = .parked ∧ (t.slot c k).parkSeq = some s.cur.seq ∧ (∀ j, j ≠ k → t.slot c j = s.slot c j)
            ∧ (∀ d, d ≠ c → t.cell d = s.cell d) ∧ t.mem = s.mem ∧ t.accs = s.accs ++ [a.sized s]
            ∧ (t.cell c).regs = (s.cell c).regs ∧ (t.cell c).wr = (s.cell c).wr
            ∧ (s.repeating (.strand c k x) = false → (t.strand c k x).pc = s.nextPc)
      | .cond _ => parkTask (issueAcc a s) = issueAcc a s)

/-- Multicast stores and the Prism region (R138 to R142, R346, R408): an operand that the manual refuses, a member that has left, and
the access in flight with what its operands name; a multicast store to no member is done at once, and one whose entry of the table cannot
be corrected faults with its physical address (the model's reading, log entry 31). -/
def Obligations.MulticastAndPrismAccesses : Prop :=
  ∀ (s s1 : State) (y : FmtP) (l : Loc), AgentOk s.cur.agent = true → y.size ≤ 6 →
    let ea := s.rs y.base + BitVec.ofNat 64 (8 * (y.sub % 8))
    let base := s.rs y.base
    let ctx := s.ctxNum s.cur.agent
    let j := (s.rs y.x).toNat
    let entry := s.memRead ((s.ctxOf ctx).mctab + 16 * j) 16 0
    let set := if entry / 2 ^ 64 = 1 then entry % 2 ^ 64 else 0
    let whole := s.badAt ((s.ctxOf ctx).mctab + 16 * j) 16
    let good := canonical ea = true ∧ inHeap s ctx ea (widthOf y.size) = true ∧ ea.toNat % widthOf y.size = 0
    let own : Elem := { loc := .peer s.selfIdx ea, va := ea, lane := 0, data := (s.rs y.d).toNat }
    let store (more : List Elem) : Acc := { accessOf s (.mcst set 0) y.cls y.scope with
      size := y.size, rel := bit y.sub 3, d := s.rs y.d, dst := dstS s s.cur.agent y.x, elems := own :: more }
    let ordered := bit y.sub 4
    let reach (o : Word) := o.toNat < 0x100000 ∧ o.toNat % widthOf y.size = 0 ∧ prismMember s ctx = true
    (256 ≤ j → Faults (.mcst y) s 0x01 7 0 0 0)
    ∧ (j < 256 → good → whole = none → set = 0 →
        exec (.mcst y) s = .next (retireNow (putAsync (dstS s s.cur.agent y.x) 0 s.cur.seq s)))
    ∧ (∀ code, j < 256 → good → whole = some code →
        Faults (.mcst y) s 0x08 0 (BitVec.ofNat 64 ((s.ctxOf ctx).mctab + 16 * j)) (BitVec.ofNat 64 code) 0)
    ∧ (j < 256 → good → whole = none → set ≠ 0 → bit set s.selfIdx = false → Starts (.mcst y) s s (store []) false)
    ∧ (j < 256 → good → whole = none → bit set s.selfIdx = true → place s.dStream 1 ea s = .ok (l, s1) →
        Starts (.mcst y) s s1 (store [{ loc := l, va := ea, lane := 0, data := (s.rs y.d).toNat }]) false)
    ∧ (2 ^ 16 ≤ j → Faults (.bst y) s 0x01 7 0 0 0)
    ∧ (j < 2 ^ 16 → reach ea → Starts (.bst y) s s { accessOf s (.bst ((2 ^ y.cls) ||| j)) y.cls y.scope with
        size := y.size, rel := bit y.sub 3, d := s.rs y.d, elems := atPlace (.prism ea.toNat) ea (s.rs y.d).toNat } false)
    ∧ (reach base → Starts (.bamo y) s s { accessOf s (.bamo (y.sub % 16)) y.cls y.scope with
        size := y.size, acq := ordered, rel := ordered, x := s.rs y.x, dst := dstS s s.cur.agent y.d
        elems := atPlace (.prism base.toNat) base 0 } false)
    ∧ (reach ea → Starts (.bld y) s s { accessOf s .bld y.cls y.scope with
        size := y.size, acq := bit y.sub 3, dst := dstS s s.cur.agent y.d, elems := atPlace (.prism ea.toNat) ea 0 } false)
    ∧ (0x100000 ≤ ea.toNat → Faults (.bld y) s 0x01 7 0 0 0)
    ∧ (ea.toNat < 0x100000 → ea.toNat % widthOf y.size = 0 → prismMember s ctx = false → Faults (.bld y) s 0x0F 0 ea 0 0)

/-- The four copy-engine instructions (R143, R144): a command appended to the agent's queue with its ranges, its destination and a
fresh digest; a length of 0, done at once; a full queue, at which the instruction waits; a length of 2^40 or more and a copy whose
ranges overlap, which are refused; ranges that pass 2^64 are compared without wrapping (log entry 60). -/
def Obligations.CopyCommands : Prop :=
  ∀ (s : State) (x : FmtA), AgentOk s.cur.agent = true →
    let ag := s.cur.agent
    let n := (s.rs x.c).toNat
    let room := (s.copyQueue ag).length < 16
    let a := (s.rs x.a).toNat
    let b := (s.rs x.b).toNat
    let apart := n = 0 ∨ a + n ≤ b ∨ b + n ≤ a
    let command (kind : CopyKind) (dst : Dst) : CopyCmd :=
      { id := s.cur.seq, agent := ag, ctx := s.ctxNum ag, kind := kind, cls := x.f / 2 ^ 8 % 16
        scope := actingScope ag (x.f / 2 ^ 6 % 4), a := s.rs x.a, b := s.rs x.b, n := n, dst := dst, fpc := s.cur.pc
        word := s.cur.word, sha := shaInit }
    let appends (i : Instr) (kind : CopyKind) (dst : Dst) : Prop := exec i s = .next (retireAccess (addCopy (command kind dst) s))
    let dst := dstS s ag x.d
    let empty := fingerprint (sha256 [])
    let done (i : Instr) (dst : Dst) (v : Word) : Prop := exec i s = .next (retireAccess (putAsync dst v s.cur.seq s))
    (room → n < 2 ^ 40 → 0 < n → apart → appends (.mcpy x) .copy .none ∧ appends (.mcpyFp x) .copyFp dst)
    ∧ (room → n < 2 ^ 40 → 0 < n → appends (.mcpyHash x) .hash dst ∧ appends (.mcmp x) .cmp dst)
    ∧ (room → n = 0 → done (.mcpy x) .none empty ∧ done (.mcpyFp x) dst empty ∧ done (.mcpyHash x) dst empty ∧ done (.mcmp x) dst 0)
    ∧ (¬ room → exec (.mcpy x) s = .next s ∧ exec (.mcpyFp x) s = .next s ∧ exec (.mcpyHash x) s = .next s ∧ exec (.mcmp x) s = .next s)
    ∧ (room → 2 ^ 40 ≤ n → Faults (.mcpy x) s 0x01 7 0 0 0 ∧ Faults (.mcpyFp x) s 0x01 7 0 0 0
        ∧ Faults (.mcpyHash x) s 0x01 7 0 0 0 ∧ Faults (.mcmp x) s 0x01 7 0 0 0)
    ∧ (room → n < 2 ^ 40 → ¬ apart → Faults (.mcpy x) s 0x01 7 0 0 0 ∧ Faults (.mcpyFp x) s 0x01 7 0 0 0)

/-- Element arithmetic (R146 to R153): each selected lane holds the exact result of its operands, rounded once in the element's
format and the mode of RND, or wrapped or saturated to its integer type; lanes that the mask leaves out are not written.

Dot products, conversions and transcendentals (R63 to R68, R154, R158, R159, R161): four products of bytes added exactly to the
lane of vC and rounded once; a lane converted from its type to another, saturated or stochastically rounded with its own counter;
a transcendental's fixed cases, and an approximation within its bound of the function. The rationals that stand for the irrational
results (`sqrtQ`, `exp2Q`, `log2Q`, `sinQ`, `tanhQ`) and which value within the bound is delivered are the model's own: log entry 3. -/
def Obligations.VectorArithmetic : Prop :=
  (∀ (s : State) (x : FmtV), AgentOk s.cur.agent = true →
      let t := ETy.ofCode x.ty
      let m := lanesOf s x.mask
      let lane (v : Nat) : Nat → Nat := laneOf (s.rv v)
      let each (f : Nat → Nat → Nat → Nat) : Nat := onLanes m fun i => f (lane x.va i) (lane x.vb i) (lane x.vc i)
      let exact_ (ff : XR → XR → XR → XR) (fi : Int → Int → Int → Int) : Nat := each fun a b c =>
        placeLane t (if t.isFloat then roundFmt t x.rnd (ff (decodeF t a) (decodeF t b) (decodeF t c))
          else intoType t (x.rnd == 1) (fi (decodeI t a) (decodeI t b) (decodeI t c)))
      let signed (f : Bool → Bool) (fi : Int → Int) : Nat := each fun a _ _ =>
        placeLane t (if t.isFloat then
            (if (decodeF t a).isNan then nanOf t
             else a % 2 ^ (t.width - 1) + (if f (bit a (t.width - 1)) then 2 ^ (t.width - 1) else 0))
          else intoType t (x.rnd == 1) (fi (decodeI t a)))
      let fused (ff : XR → XR → XR) (fi : Int → Int → Int) : Nat := each fun a b c =>
        if t.isFloat then roundFmt t x.rnd (ff (addX x.rnd (decodeF t a) (decodeF t b)) (decodeF t c))
        else placeLane t (intoType t true (fi (decodeI t a + decodeI t b) (decodeI t c)))
      let goes (i : Instr) (v l : Nat) : Prop := CompletesV i s x.vd m v l
      goes (.vadd x) (exact_ (fun a b _ => addX x.rnd a b) fun a b _ => a + b) 3
      ∧ goes (.vsub x) (exact_ (fun a b _ => addX x.rnd a b.neg) fun a b _ => a - b) 3
      ∧ goes (.vmul x) (exact_ (fun a b _ => mulX a b) fun a b _ => a * b) 5
      ∧ goes (.vfma x) (exact_ (fun a b c => addX x.rnd (mulX a b) c) fun a b c => a * b + c) 5
      ∧ goes (.vfms x) (exact_ (fun a b c => addX x.rnd (mulX a b) c.neg) fun a b c => a * b - c) 5
      ∧ goes (.vmin x) (exact_ (fun a b _ => minX a b) fun a b _ => min a b) 3
      ∧ goes (.vmax x) (exact_ (fun a b _ => maxX a b) fun a b _ => max a b) 3
      ∧ goes (.vabs x) (signed (fun _ => false) fun a => if a < 0 then -a else a) 3
      ∧ goes (.vneg x) (signed (fun b => !b) fun a => -a) 3
      ∧ goes (.vfam x) (fused minX min) 5
      ∧ goes (.vfax x) (fused maxX max) 5)
  ∧ (∀ (s : State) (x : FmtV), AgentOk s.cur.agent = true →
      let t := ETy.ofCode x.ty
      let m := lanesOf s x.mask
      let lane (v : Nat) : Nat → Nat := laneOf (s.rv v)
      let byte (v j : Nat) : Nat := v / 256 ^ j % 256
      let four : List Nat := [0, 1, 2, 3]
      let dot (a b c : Nat) : Nat :=
        if t.isFloat then
          roundFmt .f32 x.rnd (addX x.rnd (decodeF .f32 c) (sumX (four.map fun j => mulX (decodeF t (byte a j)) (decodeF t (byte b j)))))
        else
          let u : ETy := if t.isSigned then .i32 else .n32
          intoType u (x.rnd == 1) (four.foldl (fun n j => n + decodeI t (byte a j) * decodeI t (byte b j)) (decodeI u c))
      let approx (op : Nat) : Nat := onLanes m fun i => transLane op t (lane x.va i % 2 ^ t.width)
      let f (op v : Nat) : Nat := transLane op .f32 v
      let one := Q.ofInt 1
      let near (e : Nat) (r bound : Q) : Prop := match decodeF .f32 e with
        | .fin y => (y.sub r).abs.le bound = true
        | .zero _ => r.abs.le bound = true
        | _ => False
      let within (op v ulps : Nat) (r : Q) : Prop := r.abs.lt (Q.pow2 1 128) = true → near (f op v) r ((ulpF32 r).mul (Q.ofInt ulps))
      let atMostOne (e : Nat) : Prop := match decodeF .f32 e with | .fin y => y.abs.le one = true | .zero _ => True | _ => False
      let same (a b : Q) : Prop := a.num * (b.den : Int) = b.num * (a.den : Int)
      let power (n : Int) : Nat := roundFmt .f32 0 (.fin (Q.pow2 1 n))
      (∀ op v, op < 6 → v < 2 ^ 32 → (decodeF .f32 v).isNan = true → f op v = 0x7FC00000)
      ∧ [f 0 0, f 0 0x80000000, f 0 0x7F800000, f 0 0xFF800000] = [0x7F800000, 0xFF800000, 0, 0x80000000]
      ∧ [f 1 0, f 1 0x80000000, f 1 0x7F800000, f 1 0xFF800000] = [0x7F800000, 0xFF800000, 0, 0x7FC00000]
      ∧ [f 2 0, f 2 0x80000000, f 2 0x7F800000, f 2 0xFF800000] = [0x3F800000, 0x3F800000, 0x7F800000, 0]
      ∧ [f 3 0, f 3 0x80000000, f 3 0x7F800000, f 3 0xFF800000] = [0xFF800000, 0xFF800000, 0x7F800000, 0x7FC00000]
      ∧ [f 4 0, f 4 0x80000000, f 4 0x7F800000, f 4 0xFF800000] = [0, 0x80000000, 0x7FC00000, 0x7FC00000]
      ∧ [f 5 0, f 5 0x80000000, f 5 0x7F800000, f 5 0xFF800000] = [0, 0x80000000, 0x3F800000, 0xBF800000]
      ∧ (∀ v q, v < 2 ^ 32 → decodeF .f32 v = .fin q →
          let neg := decide (q.num < 0)
          let signed (e : Nat) : Nat := if neg then e + 2 ^ 31 else e
          (q.abs.lt (Q.pow2 1 (-128)) = true → f 0 v = signed 0x7F800000)
          ∧ ((Q.pow2 1 (-128)).lt q.abs = true → within 0 v 1 (one.div q))
          ∧ (∀ n : Int, -126 ≤ n → n ≤ 126 → same q.abs (Q.pow2 1 n) → f 0 v = signed (power (-n)))
          ∧ (neg = true → f 1 v = 0x7FC00000 ∧ f 3 v = 0x7FC00000)
          ∧ (neg = false → within 1 v 1 (one.div (sqrtQ q)))
          ∧ (∀ n : Int, same q (Q.pow2 1 (2 * n)) → f 1 v = power (-n))
          ∧ ((Q.ofInt 128).le q = true → f 2 v = 0x7F800000) ∧ (q.lt (Q.ofInt (-150)) = true → f 2 v = 0)
          ∧ ((Q.ofInt (-150)).le q = true → q.lt (Q.ofInt 128) = true → within 2 v 2 (exp2Q q))
          ∧ (∀ n : Int, -149 ≤ n → n ≤ 127 → q.num = n * q.den → f 2 v = power n)
          ∧ (∀ n : Int, same q (Q.pow2 1 n) → f 3 v = roundFmt .f32 0 (XR.ofInt n))
          ∧ (neg = false → (∀ n : Int, ¬ same q (Q.pow2 1 n)) →
              (log2Q q).abs.lt (Q.pow2 1 128) = true →
              near (f 3 v) (log2Q q) ((ulpF32 (log2Q q)).mul (Q.ofInt 2))
              ∨ ((Q.pow2 1 (-1)).le q = true ∧ q.le (Q.ofInt 2) = true ∧ near (f 3 v) (log2Q q) (Q.pow2 1 (-22))))
          ∧ (q.abs.le (Q.ofInt 65536) = true → within 4 v 2 (sinQ q))
          ∧ ((sinQ q).abs.le one = true → atMostOne (f 4 v)) ∧ ((tanhQ q).abs.le one = true → atMostOne (f 5 v))
          ∧ ((⟨91, 10⟩ : Q).le q.abs = true → f 5 v = signed 0x3F800000)
          ∧ (q.abs.lt ⟨91, 10⟩ = true → within 5 v 2 (tanhQ q)))
      ∧ (∀ u op v, u ≠ ETy.f32 → transLane op u v = roundFmt u 0 (decodeF .f32 (f op (roundFmt .f32 0 (decodeF u v)))))
      ∧ CompletesV (.vdot4 x) s x.vd m (onLanes m fun i => dot (lane x.va i) (lane x.vb i) (lane x.vc i)) 5
      ∧ CompletesV (.vcvt x) s x.vd m (onLanes m fun i => placeLane t (convert t (ETy.ofCode x.sub) x.rnd (bit x.vb 0) (lane x.va i))) 4
      ∧ CompletesV (.vcvts x) s x.vd m (onLanes m fun i => placeLane t (convertS t (s.rs x.vb).toNat (4 * i) (lane x.va i))) 4
      ∧ CompletesV (.vrcp x) s x.vd m (approx 0) 10 ∧ CompletesV (.vrsq x) s x.vd m (approx 1) 10
      ∧ CompletesV (.vexp2 x) s x.vd m (approx 2) 10 ∧ CompletesV (.vlog2 x) s x.vd m (approx 3) 10
      ∧ CompletesV (.vsin x) s x.vd m (approx 4) 10 ∧ CompletesV (.vtanh x) s x.vd m (approx 5) 10)

/-- Lane logic, shifts, moves and lane movement (R155, R157): every lane by its own formula; a shift of lanes by more than 64 places
is refused.

Results of the vector unit in s registers, single lanes, packing, scans and the k largest or smallest (R150, R156, R160, R162 to
R164): the mask of a comparison, a lane, a sum or an extreme of the selected lanes, prefixes of them, and the first k in rank. That
VTOPK delivers the bits of a NaN lane as they stand, where R54 gives the canonical NaN, is the model's reading: log entry 52. -/
def Obligations.VectorLanesAndReductions : Prop :=
  (∀ (s : State) (x : FmtV), AgentOk s.cur.agent = true →
      let m := lanesOf s x.mask
      let w (v : Nat) : BitVec 32 := BitVec.ofNat 32 v
      let lane (v i : Nat) : BitVec 32 := w (s.rv v / 2 ^ (32 * i))
      let each (f : BitVec 32 → BitVec 32 → BitVec 32) : Nat := onLanes m fun i => (f (lane x.va i) (lane x.vb i)).toNat
      let a := s.rs x.va
      let b := s.rs x.vb
      let n := b.toInt
      let goes (i : Instr) (v l : Nat) : Prop := CompletesV i s x.vd m v l
      goes (.vand x) (each fun a b => a &&& b) 2
      ∧ goes (.vor x) (each fun a b => a ||| b) 2
      ∧ goes (.vxor x) (each fun a b => a ^^^ b) 2
      ∧ goes (.vnot x) (each fun a _ => ~~~a) 2
      ∧ goes (.vshl x) (each fun a b => a <<< (b.toNat % 32)) 2
      ∧ goes (.vshr x) (each fun a b => a >>> (b.toNat % 32)) 2
      ∧ goes (.vsha x) (each fun a b => a.sshiftRight (b.toNat % 32)) 2
      ∧ goes (.vsel x) (onLanes m fun i => if (s.rs x.vc).getLsbD i then (lane x.va i).toNat else (lane x.vb i).toNat) 2
      ∧ goes (.vmov x) (onLanes m fun i => (lane x.va i).toNat) 2
      ∧ goes (.vbcst x) (onLanes m fun _ => a.toNat % 2 ^ 32) 2
      ∧ goes (.viota x) (onLanes m fun i => (a.toNat + i * b.toNat) % 2 ^ 32) 2
      ∧ goes (.vperm x) (onLanes m fun i => (lane x.va ((lane x.vb i).toNat % 64)).toNat) 3
      ∧ goes (.vlrot x) (onLanes m fun i => (lane x.va ((i + 64 - b.toNat % 64) % 64)).toNat) 3
      ∧ (-64 ≤ n → n ≤ 64 → goes (.vlsh x) (onLanes m fun i =>
          if 0 ≤ (i : Int) - n ∧ (i : Int) - n < 64 then (lane x.va ((i : Int) - n).toNat).toNat else (s.rs x.vc).toNat % 2 ^ 32) 3)
      ∧ (n < -64 ∨ 64 < n → Faults (.vlsh x) s 0x01 7 0 0 0))
  ∧ (∀ (s : State) (x : FmtV), AgentOk s.cur.agent = true →
      let t := ETy.ofCode x.ty
      let m := lanesOf s x.mask
      let lane (v i : Nat) : Nat := s.rv v / 2 ^ (32 * i) % 2 ^ 32
      let picked := (List.range 64).filter (bit m)
      let out (v : Nat) : Word := BitVec.ofNat 64 v
      let holds (a b : Nat) : Bool :=
        if t.isFloat then
          fpred x.sub ((decodeF t a).isNan || (decodeF t b).isNan) (ltX (decodeF t a) (decodeF t b) && !eqX (decodeF t a) (decodeF t b))
            (eqX (decodeF t a) (decodeF t b))
        else fpred x.sub false (decide (decodeI t a < decodeI t b)) (decide (decodeI t a = decodeI t b))
      let index := (s.rs x.vb).toNat % 64
      let width := 8 * t.width
      let packed := (List.range 64).foldr (fun i v => lane x.va i % 2 ^ t.width + 2 ^ t.width * v) 0
      let below (n : Nat) : List Nat := ((List.range n).filter (bit m)).map (lane x.va)
      let scan (l : List Nat) : Nat := placeLane t (if t.isFloat then roundFmt t x.rnd (sumX (l.map (decodeF t)))
        else intoType t (x.rnd == 1) (l.foldl (fun k a => k + decodeI t a) 0))
      let sum : Nat :=
        if t.isFloat then roundFmt t x.rnd (sumX (picked.map fun i => decodeF t (lane x.va i)))
        else ((picked.foldl (fun n i => n + decodeI t (lane x.va i)) 0) % 2 ^ 64).toNat
      let most := bit x.sub 0
      let extreme : Nat :=
        if t.isFloat then
          roundFmt t 0 (picked.foldl (fun r i => (if most then maxX else minX) r (decodeF t (lane x.va i))) .nan)
        else ((picked.foldl (fun r i => (if most then max else min) r (decodeI t (lane x.va i)))
          (if most then t.imin else t.imax)) % 2 ^ 64).toNat
      let k := (s.rs x.vb).toInt
      let ranked := picked.foldl (fun r i => topInsert t (bit x.sub 1) (i, lane x.va i) r) []
      CompletesVS (.vcmp x) s x.vd (out (ofBits (picked.filter fun i => holds (lane x.va i) (lane x.vb i)))) 3
      ∧ CompletesVS (.vext x) s x.vd (out (lane x.va index)) 3
      ∧ CompletesV (.vins x) s x.vd (2 ^ index) ((s.rs x.va).toNat % 2 ^ 32 * 2 ^ (32 * index)) 2
      ∧ CompletesV (.vpack x) s x.vd (ofBits ((List.range (width / 4)).map fun j => x.sub * width / 4 + j)) (packed * 256 ^ (x.sub * width)) 4
      ∧ CompletesV (.vunpk x) s x.vd m
          (onLanes m fun i => placeLane t (s.rv x.va / 256 ^ (x.sub * width) / 2 ^ (t.width * i) % 2 ^ t.width)) 4
      ∧ CompletesVS (.vreds x) s x.vd (out sum) 8
      ∧ CompletesVS (.vredm x) s x.vd (out extreme) 8
      ∧ CompletesV (.vscan x) s x.vd m (onLanes m fun i => scan (below (if bit x.sub 0 then i else i + 1))) 10
      ∧ (1 ≤ k → k ≤ 64 → CompletesV (.vtopk x) s x.vd (2 ^ k.toNat - 1) (ofLanes ((List.range 64).map fun j =>
          match ranked[j]? with
          | some (i, e) => if bit x.sub 0 then e else i
          | none => 0xFFFFFFFF)) 16)
      ∧ (k < 1 ∨ 64 < k → Faults (.vtopk x) s 0x01 7 0 0 0))

/-- The deferral queue (R165 to R169, R284): VDEFQ, VDEFD and VDEFN each complete. The selected lanes join the path of their context with
their values and the origin that names task id, slot and lane, the task id all ones for a sweep task; 64 or fewer of the oldest, none
appended in this clk, leave it into v registers; the count; a path without room, whoever's entries it holds, and a path with fewer
than 64 make the instruction wait; a path of another context that has room is refused (that it waits for room first: log entry 68). -/
def Obligations.DeferralQueue : Prop :=
  ∀ (s : State) (x : FmtV) (c k : Nat) (st : Kind), AgentOk s.cur.agent = true → s.cur.agent = .strand c k st →
    let sl := s.slot c k
    let picked := (List.range 64).filter (bit (lanesOf s x.mask))
    let path (p : Nat) : DefPath := Tab.get {} p (s.cell c).defq
    let q := path (x.vd % 8)
    let mine := q.ents = [] ∨ q.ctx = sl.ctx
    let value (j i : Nat) : BitVec 32 := if j < x.sub % 4 + 1 then BitVec.ofNat 32 (s.rv (x.va + j) / 2 ^ (32 * i) % 2 ^ 32) else 0
    let fresh : List DefEntry := picked.map fun i =>
      { v0 := value 0 i, v1 := value 1 i, v2 := value 2 i, v3 := value 3 i
        o := BitVec.ofNat 32 ((if sl.sweep then 2 ^ 23 - 1 else sl.pos % 2 ^ 23) * 2 ^ 9 + k * 2 ^ 6 + i), clk := s.clk }
    let filled := s.updCell c fun cl =>
      { cl with defq := Tab.set (x.vd % 8) { ctx := if picked = [] then q.ctx else sl.ctx, ents := q.ents ++ fresh } cl.defq }
    let p := x.vb % 8
    let ready := if (path p).ctx = sl.ctx then ((path p).ents.filter fun e => decide (e.clk < s.clk)).length else 0
    let n := min ready 64
    let gone := (path p).ents.take n
    let left := (s.updCell c fun cl => { cl with defq := Tab.set p { path p with ents := (path p).ents.drop n } cl.defq }).updStrand c k st
      fun y => { y with defsel := p }
    let word (e : DefEntry) (j : Nat) : Nat := (if j = 0 then e.v0 else if j = 1 then e.v1 else if j = 2 then e.v2 else e.v3).toNat
    let values := (List.range (x.sub % 4 + 1)).foldl
      (fun t j => writeV (x.vd + j) (2 ^ n - 1) (ofLanes (gone.map fun e => word e j)) 4 t) left
    let origins := writeV x.va (2 ^ n - 1) (ofLanes (gone.map fun e => e.o.toNat)) 4 values
    let completes (i : Instr) (effect t : State) : Prop :=
      exec i s = .next t ∧ GoesTo effect t s.nextPc ∧ OnlyIssuer effect t ∧ SameElsewhere effect t
        ∧ IssuerIs effect t (fun y => y) (fun y => y)
    (mine → q.ents.length + picked.length ≤ 512 →
        completes (.vdefq x) filled (retire .now (.clk (s.clk + 1)) filled) ∧ PutsNothing s (retire .now (.clk (s.clk + 1)) filled))
    ∧ (512 < q.ents.length + picked.length → exec (.vdefq x) s = .next s)
    ∧ (¬ mine → q.ents.length + picked.length ≤ 512 → Faults (.vdefq x) s 0x01 7 0 0 0)
    ∧ (bit x.sub 2 = true ∨ 64 ≤ ready →
        completes (.vdefd x) left (retireIn 4 (writeVS x.vc (BitVec.ofNat 64 (2 ^ n - 1)) 4 origins)))
    ∧ (bit x.sub 2 = false → ready < 64 → exec (.vdefd x) s = .next s)
    ∧ CompletesVS (.vdefn x) s x.vd (BitVec.ofNat 64 ready) 2

/-- SYSR (R212, R213): the result of every system register, with latency 2; what the registers of the issuing agent, of its context
and of the package read as. That a conductor's PRIO is that of the context CTXID selects is log entry 65.

SYSW (R38, R41, R91, R133, R212, R221, R227, R296): a value that a register refuses traps; any other write takes effect at the end
of the issue clk, with the bits that the register stores; a write of FQBASE or FQHEAD lets held fault records go on. What RB of a
rotation of no names stores is the model's choice: log entry 45. -/
def Obligations.SystemRegisters : Prop :=
  (∀ (s : State) (x : FmtS), AgentOk s.cur.agent = true →
      let a := s.cur.agent
      let ctx := s.ctxOf (s.ctxNum a)
      let out (v : Nat) : Word := BitVec.ofNat 64 v
      CompletesS (.sysr x) s x.d (sysRead s x.sysreg) 2
      ∧ sysRead s 0x002 = out ctx.prio ∧ sysRead s 0x008 = s.qpred a ∧ sysRead s 0x00D = s.lpctl a ∧ sysRead s 0x00E = s.lpidx a
      ∧ sysRead s 0x00F = s.repst a ∧ sysRead s 0x021 = (if s.time.holdover then 1 else 2) ∧ sysRead s 0x022 = out s.mircfg.toNat
      ∧ sysRead s 0x023 = ctx.latectl ∧ sysRead s 0x024 = out ctx.latecnt.toNat ∧ sysRead s 0x100 = ctx.fqbase
      ∧ sysRead s 0x101 = out ctx.fqhead.toNat ∧ sysRead s 0x102 = out ctx.fqtail.toNat ∧ sysRead s 0x104 = ctx.prebnd
      ∧ (∀ n, n < 16 → sysRead s (0x010 + n) = out (s.peer n))
      ∧ (∀ c k z, a = .strand c k z →
          sysRead s 0x000 = out ((s.slot c k).stage * 2 ^ 12 + k * 2 ^ 8 + c)
          ∧ sysRead s 0x001 = out ((s.slot c k).ctx * 2 ^ 16 + (s.ctxOf (s.slot c k).ctx).asid)
          ∧ sysRead s 0x009 = (s.strand c k z).nbt ∧ sysRead s 0x00A = out (s.strand c k z).barsel
          ∧ sysRead s 0x00B = out (s.strand c k z).defsel ∧ sysRead s 0x00C = (s.strand c k z).rotv)
      ∧ (∀ n, a = .cond n → sysRead s 0x000 = out (2 ^ 63 + n) ∧ sysRead s 0x001 = (s.condOf n).ctxid
          ∧ sysRead s 0x009 = (s.condOf n).nbt ∧ sysRead s 0x103 = (s.condOf n).ercl))
  ∧ (∀ (s : State) (x : FmtS) (w : SysWrite) (c k n m : Nat) (z : Kind), AgentOk s.cur.agent = true →
      let v := s.rs x.a
      let val := w.val.toNat
      let stored (b : Nat) : Word := BitVec.ofNat 64 b
      let action := val / 2 ^ 62 * 2 ^ 62 + val / 2 ^ 32 % 2 ^ 6 * 2 ^ 32 + val / 2 ^ 8 % 2 ^ 7 * 2 ^ 8 + val % 8
      let size := val / 2 ^ 32 % 2 ^ 6
      let rb := if size = 0 then val / 2 ^ 40 % 2 ^ 6 else val / 2 ^ 40 % 2 ^ 6 % size
      let rotation := rb * 2 ^ 40 + size * 2 ^ 32 + val / 2 ^ 24 % 2 ^ 8 * 2 ^ 24 + val / 2 ^ 3 % 2 ^ 19 * 2 ^ 3
      let at_ (r : Nat) (t : State) : Prop := w.reg = r → sysApply w s = t
      let f (g : Strand → Strand) : State := s.updStrand c k z g
      let h (g : Cond → Cond) : State := s.updCond m g
      let ctx (g : Ctx → Ctx) : State := s.updCtx (s.ctxNum w.agent) g
      (syswRefused s x.sysreg v = true → Faults (.sysw x) s 0x01 7 0 0 0)
      ∧ (syswRefused s x.sysreg v = false → exec (.sysw x) s = .next
          (retireNow { s with sysws := s.sysws ++ [⟨s.cur.agent, x.sysreg, v⟩] }))
      ∧ (∀ j, 0x011 ≤ j → j ≤ 0x01F → syswRefused s j v = decide (63 < v.toNat))
      ∧ (∀ j, j = 0x008 ∨ j = 0x009 ∨ j = 0x00A ∨ j = 0x00B ∨ j = 0x00E ∨ j = 0x101 ∨ j = 0x103 → syswRefused s j v = false)
      ∧ (w.agent = .strand c k z →
          at_ 0x008 (f fun y => { y with qpred := stored (val % 256 / 2 * 2) }) ∧ at_ 0x009 (f fun y => { y with nbt := w.val })
          ∧ at_ 0x00A (f fun y => { y with barsel := val % 32 }) ∧ at_ 0x00B (f fun y => { y with defsel := val % 8 })
          ∧ at_ 0x00C (f fun y => { y with rotv := stored rotation })
          ∧ at_ 0x00D (f fun y => { y with lpctl := stored (val / 2 ^ 63 * 2 ^ 63 + val % 2 ^ 36) })
          ∧ at_ 0x00E (f fun y => { y with lpidx := stored (val % 2 ^ 33) })
          ∧ (0x011 ≤ n → n ≤ 0x01F → at_ n (s.updSlot c k fun y => { y with p := Tab.set (n - 0x010) val y.p })))
      ∧ (w.agent = .cond m →
          at_ 0x001 (h fun y => { y with ctxid := stored (val % 2 ^ 22) }) ∧ at_ 0x009 (h fun y => { y with nbt := w.val })
          ∧ at_ 0x103 (h fun y => { y with ercl := stored action }))
      ∧ at_ 0x023 (ctx fun y => { y with latectl := stored ((if bit y.latectl.toNat 1 && !bit val 1 then 2 else 0) + val % 2) })
      ∧ at_ 0x024 (ctx fun y => { y with latecnt := BitVec.ofNat 32 val }) ∧ at_ 0x104 (ctx fun y => { y with prebnd := w.val })
      ∧ at_ 0x100 (retryRecs (s.ctxNum w.agent) (ctx fun y => { y with fqbase := w.val, blocked := false }))
      ∧ at_ 0x101 (retryRecs (s.ctxNum w.agent) (ctx fun y => { y with fqhead := BitVec.ofNat 32 val, blocked := false })))

/-- TIME, PPT and WAITE (R214, R215, R218, R306): the Reticle reading of the agent's own counter, and NBT set that far ahead of it; a
pre-emption point with no request is a NOP, and with one pending since an earlier clk it freezes the task with the live mask of its
operands, unless a fault is freezing it already; WAITE answers the events that hold, of those it names, and waits while none does (its
latency of 1 is the model's reading: log entry 16). -/
def Obligations.TimeAndEvents : Prop :=
  ∀ (s : State) (x : FmtA) (y : FmtI), AgentOk s.cur.agent = true →
    let a := s.cur.agent
    let now := s.rtOf a
    let live := (s.rs y.a).toNat % 2 ^ 16 + y.imm % 2 ^ 8 * 2 ^ 16 + y.imm / 2 ^ 8 % 2 ^ 4 * 2 ^ 24
    let events (timeOut preempt doorbell fault launch suspend : Bool) : Nat :=
      (if timeOut then 1 else 0) + (if preempt then 2 else 0) + (if doorbell then 4 else 0) + (if fault then 8 else 0)
        + (if launch then 16 else 0) + (if suspend then 32 else 0)
    CompletesS (.time x) s x.d now 2
    ∧ CompletesSWith (.timeNbt x) s x.d now 2 (fun z => { z with nbt := now + s.rs x.a }) (fun z => { z with nbt := now + s.rs x.a })
    ∧ (∀ c k z, a = .strand c k z →
        ((s.slot c k).preReq = none ∨ s.clk ≤ (s.slot c k).preClk → exec (.ppt y) s = .next (retireIn 1 s))
        ∧ ((s.slot c k).preReq ≠ none → (s.slot c k).preClk < s.clk → exec (.ppt y) s = .next
            ((retireIn 1 s).updSlot c k fun q => { q with freezing := some (q.freezing.getD (.ppt live)) }))
        ∧ eventsOf s a = events (decide ((s.strand c k z).nbt.toNat ≤ now.toNat)) (s.slot c k).preReq.isSome false false false
            (s.slot c k).suspendEv)
    ∧ (∀ n, a = .cond n → exec (.ppt y) s = .next (retireIn 1 s)
        ∧ eventsOf s a = events (decide ((s.condOf n).nbt.toNat ≤ now.toNat)) false (s.condOf n).doorbell
            (s.ctxs.any fun q => q.2.st != .absent && bit q.2.hcond n && q.2.fqtail != q.2.fqhead)
            ((s.condOf n).litail != (s.condOf n).lihead) (s.condOf n).suspendEv)
    ∧ (eventsOf s a &&& y.imm % 64 = 0 → exec (.waite y) s = .next s)
    ∧ (∀ e, e = eventsOf s a &&& y.imm % 64 → e ≠ 0 → ∃ t, exec (.waite y) s = .next t ∧ PutsS false s t y.d (BitVec.ofNat 64 e) 1
        ∧ GoesTo s t s.nextPc ∧ SameElsewhere s t
        ∧ (∀ n, a = .cond n → (t.condOf n).doorbell = ((s.condOf n).doorbell && !bit e 2)
            ∧ (t.condOf n).suspendEv = ((s.condOf n).suspendEv && !bit e 5))
        ∧ (∀ c k z, a = .strand c k z → (t.slot c k).suspendEv = ((s.slot c k).suspendEv && !bit e 5)))

/-- TRAP and BRK (R216): each takes a precise fault of its own code with its immediate in AUX; after a TRAP the task resumes at the next
instruction, after a BRK at the BRK itself; it is the instruction taken for its kind in the clk (R47).

The returns from an exception (R221, R224, R225): a frozen task of the context that ERCTL names goes on from the next clk, past its
faulting instruction where that is asked, and no earlier than the rows of its accepted operations have landed (R222), or is killed; a
task that is not frozen, another context's task, and an action that the latest fault does not allow are refused. -/
def Obligations.TrapsAndReturns : Prop :=
  (∀ (s : State) (x : FmtI), AgentOk s.cur.agent = true →
      let i := s.cur
      let fault (code : Nat) (resume : Word) : State := takeFault i.agent
        { kind := 0, code := code, fpc := i.pc, rpc := resume, aux := BitVec.ofNat 64 x.imm, len := i.len } (takePlace s)
      exec (.trap x) s = .next ((fault 0x17 (i.pc + 8)).setPc i.agent (i.pc + 8))
      ∧ exec (.brk x) s = .next ((fault 0x18 i.pc).setPc i.agent i.pc))
  ∧ (∀ (s : State) (z : FmtZ) (n : Nat), AgentOk s.cur.agent = true → s.cur.agent = .cond n →
      let v := (s.condOf n).ercl.toNat
      let act := v / 2 ^ 62
      let c := v / 2 ^ 8 % 2 ^ 7
      let k := v % 8
      let y := s.slot c k
      let named := y.st = .frozen ∧ y.ctx = v / 2 ^ 32 % 2 ^ 6 ∧ act ≠ 3
      let fault : Nat → Prop := fun want => match y.lastFault with
        | some f => if want = 0 then f.killOnly = false else f.precise = true ∧ f.killOnly = false
        | none => want = 0
      let on := retireNow s
      let past : State := match y.lastFault with
        | some f => on.updStrand c k f.strand fun q =>
            let after := f.pc + BitVec.ofNat 64 (8 * f.len)
            let left := q.repst.toNat % 2 ^ 33 - 1
            if 2 ^ 63 ≤ q.repst.toNat ∧ q.pc = f.pc then
              { q with repst := if left = 0 then 0 else BitVec.ofNat 64 (2 ^ 63 + left), pc := if left = 0 then after else q.pc }
            else { q with pc := after }
        | none => on
      (¬ named → Faults (.eret z) s 0x01 7 0 0 0 ∧ Faults (.eretKill z) s 0x01 7 0 0 0 ∧ Faults (.eretSkip z) s 0x01 7 0 0 0)
      ∧ (named → ¬ fault 0 → Faults (.eret z) s 0x01 7 0 0 0)
      ∧ (named → ¬ fault 2 → Faults (.eretSkip z) s 0x01 7 0 0 0)
      ∧ (named → y.lock = false →
          let freed (t : State) : State := t.updSlot c k fun q => { q with frozenBy := none }
          let g := restartClk s c k
          s.clk + 1 ≤ g ∧ (∀ o ∈ (s.cell c).rows, o.slot = k → o.lastRow < g)
          ∧ (fault 0 → exec (.eret z) s = .next (resumeSlot false g c k (freed on)))
          ∧ (fault 2 → exec (.eretSkip z) s = .next (resumeSlot false g c k (freed past)))
          ∧ exec (.eretKill z) s = .next (killTask c k on)))

/-- Taking a fault at a task (R217, R220, R226): its record is held for its context, numbered after the last one and naming cell, slot,
strand, PCs, time and the three words; its slot freezes at the end of the clk and its strand is stopped; with no lockstep round
nothing else changes: no register, no memory, no other task.

Taking a fault at a conductor (R217, R378): it halts, its copy commands are abandoned, and its COND_HALT event is numbered and
held for the host; nothing else changes. -/
def Obligations.TakingAFault : Prop :=
  (∀ (s : State) (c k : Nat) (z : Kind) (f : FaultInfo), z ≠ .C →
      let sl := s.slot c k
      let x := s.ctxOf sl.ctx
      let r : FaultRec :=
        { seq := x.fseq + 1, code := f.code, sub := f.sub, kind := f.kind, cell := c, slot := k, strand := kindNo z, lock := sl.lock
          ctx := sl.ctx, asid := x.asid, time := s.time.rt, fpc := f.fpc, rpc := f.rpc, addr := f.addr, aux := f.aux, aux2 := f.aux2 }
      let t := takeFault (.strand c k z) f s
      sl.lock = false → sl.st = .run →
        t = { s with cells := t.cells, ctxs := t.ctxs }
        ∧ t.ctxOf sl.ctx = { x with fseq := x.fseq + 1, held := x.held ++ [r] }
        ∧ (∀ n, n ≠ sl.ctx → t.ctxOf n = s.ctxOf n)
        ∧ (t.slot c k).st = .run ∧ (t.slot c k).freezing = some .fault
        ∧ t.strand c k z = { s.strand c k z with stopped := true }
        ∧ (∀ y, y ≠ z → y ≠ .C → t.strand c k y = s.strand c k y)
        ∧ t.slot c k = { sl with
            freezing := some .fault, lastFault := (t.slot c k).lastFault
            s := (t.slot c k).s, a := (t.slot c k).a, x := (t.slot c k).x, w := (t.slot c k).w }
        ∧ (∀ j, j ≠ k → t.slot c j = s.slot c j) ∧ (∀ d, d ≠ c → t.cell d = s.cell d)
        ∧ t.cell c = { s.cell c with slots := (t.cell c).slots })
  ∧ (∀ (s : State) (n : Nat) (f : FaultInfo),
      let t := takeFault (.cond n) f s
      let src := Tab.get {} (0x50 + n) s.host.sources
      let e : Event := ⟨src.next, 0x10, s.time.rt, 0, BitVec.ofNat 64 f.code, f.aux, f.fpc, f.addr⟩
      t = { s with conds := t.conds, host := t.host }
      ∧ t.condOf n = { s.condOf n with st := .halted, block := none, copyq := [] }
      ∧ (∀ m, m ≠ n → t.condOf m = s.condOf m)
      ∧ (s.host.evtail - s.host.evhead ≠ s.host.evsize →
          Tab.get {} (0x50 + n) t.host.sources = { next := (src.next + 1) % 2 ^ 32, held := src.held ++ [e] })
      ∧ ∀ m, m ≠ 0x50 + n → Tab.get {} m t.host.sources = Tab.get {} m s.host.sources)

/-- A task that resumes at clk g or is killed (R16, R93, R104, R221, R223 to R225): resumed, it runs again unless it had ended, or at T′ of
a suspend awaits a reply, its strands may issue from g with ready age 0, their dividers as long taken as they were, and each write of
every strand's slate lands so many clk after g, v registers and lanes among them; killed, its slot is FREE and empty, nothing of it is
left in flight in the register space but writes that are no slate's, and its position counts as failed. -/
def Obligations.TaskResumedOrKilled : Prop :=
  ∀ (s : State) (c k g : Nat) (atResume : Bool),
    let y := s.slot c k
    let t := resumeSlot atResume g c k s
    let ended := y.s.ended && y.a.ended && y.x.ended && y.w.ended
    let u := killTask c k s
    (t.slot c k).st = (if ended then .ending else if atResume && y.parkSeq.isSome then .parked else .run)
    ∧ (t.slot c k).freezing = none ∧ (t.slot c k).frozenBy = none ∧ (t.slot c k).live = none
    ∧ (∀ z, z ≠ .C → let q := s.strand c k z
        t.strand c k z = { q with
          slate := [], gate := max g q.gate, age := 0, stopped := false, divFree := g + q.divFree, fdivFree := g + q.fdivFree })
    ∧ (t.cell c).regs = (s.cell c).regs
    ∧ (∀ z, z ≠ .C → ∀ e ∈ (s.strand c k z).slate,
        (⟨e.seq, k, z, e.engine, e.len == 8, true, g + e.r, e.off, e.len, e.mask, e.val, true⟩ : RegWrite) ∈ (t.cell c).wr)
    ∧ (∀ j, j ≠ k → t.slot c j = s.slot c j)
    ∧ u.slot c k = {} ∧ (u.cell c).regs = (s.cell c).regs ∧ u.mem = s.mem
    ∧ (∀ w ∈ (u.cell c).wr, w ∈ (s.cell c).wr ∧ ¬ (w.slot = k ∧ w.slate = true))
    ∧ (∀ j, j ≠ k → u.slot c j = s.slot c j)
    ∧ ∀ r ∈ s.recs, r.id = y.recId → (s.recs.filter fun q => q.id == y.recId) = [r] →
        { r with
          live := r.live - 1, failed := r.failed + 1,
          first := if r.first = 0 then (match y.lastFault with | some f => f.code | none => 0) else r.first } ∈ u.recs

/-- The tile that a format T instruction names (R173, R174): handle and coordinates of its task, offset field by field by a shape
register on A, X and W, read after the swap; a handle that holds nothing and coordinates outside the tensor fault.

Handles and coordinates (R173, R174): a handle load reads its 64-byte descriptor, by an access that bypasses the caches and holds
the strand; a coordinate register is set, moved field by field or read, with latency 1.

TITIN (R184): the itinerary's header is read at issue; its count and distance are kept with position 0, a count of 0 ends the task's
itinerary, and a header with another bit set or a distance outside 1 to 64 is refused. -/
def Obligations.TileNames : Prop :=
  (∀ (s : State) (x : FmtT) (c k : Nat) (st : Kind), s.cur.agent = .strand c k st →
      let y := s.strand c k st
      let shape := Tab.get 0 x.k (if x.sw = 1 then y.ks else y.k)
      let f (w : Word) (i : Nat) : Nat := w.toNat / 2 ^ (16 * i) % 2 ^ 16
      let base := Tab.get 0 x.co (s.slot c k).c
      let at_ (i : Nat) : Nat := (f base i + if st = .S then 0 else f shape i) % 2 ^ 16
      let co : Word := BitVec.ofNat 64 (at_ 0 + at_ 1 * 2 ^ 16 + at_ 2 * 2 ^ 32 + at_ 3 * 2 ^ 48)
      let fault (code : Nat) : State :=
        takeFault s.cur.agent { kind := 0, code := code, fpc := s.cur.pc, rpc := s.cur.pc, len := s.cur.len } (takePlace s)
      (Tab.find x.h (s.slot c k).h = none → tileRef x s = .error (fault 0x11))
      ∧ ∀ d : Desc, Tab.find x.h (s.slot c k).h = some d →
        let inside := at_ 0 < Desc.nt0 d ∧ at_ 1 < Desc.nt1 d ∧ at_ 2 < Desc.e2 d ∧ at_ 3 < Desc.e3 d
        (inside → tileRef x s = .ok (d, co)) ∧ (¬ inside → tileRef x s = .error (fault 0x12)))
  ∧ (∀ (s s1 : State) (x : FmtT) (c k : Nat) (st : Kind) (pa key : Nat), AgentOk s.cur.agent = true → s.cur.agent = .strand c k st →
      let ea := s.rs x.sx
      let sl := s.slot c k
      let old := Tab.get 0 x.co sl.c
      let f (w : Word) (i : Nat) : Nat := w.toNat / 2 ^ (16 * i) % 2 ^ 16
      let sum (i : Nat) : Nat := (f old i + f ea i) % 2 ^ 16
      let moved : Word := BitVec.ofNat 64 (sum 0 + sum 1 * 2 ^ 16 + sum 2 * 2 ^ 32 + sum 3 * 2 ^ 48)
      let set (v : Word) : State := s.updSlot c k fun y => { y with c := Tab.set x.co v y.c }
      (canonical ea = true → ea.toNat % 64 = 0 → place 4 0 ea s = .ok (.mem pa key, s1) →
        Starts (.thndLd x) s s1 { accessOf s (.thnd x.h) 0 2 with
          byp := true, size := 3
          elems := (List.range 8).map fun i => { loc := .mem (pa + 8 * i) key, va := ea + BitVec.ofNat 64 (8 * i), lane := i, data := 0 } } true)
      ∧ (canonical ea = true → ea.toNat % 64 ≠ 0 → Faults (.thndLd x) s 0x07 0 ea 0 0)
      ∧ exec (.thndSetc x) s = .next (retireIn 1 (set ea))
      ∧ exec (.thndAddc x) s = .next (retireIn 1 (set moved))
      ∧ CompletesS (.thndGetc x) s x.sx old 1)
  ∧ (∀ (s s1 : State) (x : FmtT) (c k : Nat) (st : Kind) (l : Loc) (d : Desc), AgentOk s.cur.agent = true → s.cur.agent = .strand c k st →
      Tab.find x.h (s.slot c k).h = some d → placeScalar 5 0 8 (s.rs x.sx) s = .ok (l, s1) →
      (∀ pa key, l = .mem pa key → s1.badAt pa 8 = none) →
      let w := locRead s1 l 8
      let n := w % 2 ^ 16
      let far := w / 2 ^ 16 % 2 ^ 8
      let good := w < 2 ^ 24 ∧ 1 ≤ far ∧ far ≤ 64
      (good → exec (.titin x) s = .next (retireAccess (s1.updSlot c k fun y =>
        { y with itin := if n = 0 then none else some ⟨x.h, s.rs x.sx, n, far, 0⟩ })))
      ∧ (¬ good → exec (.titin x) s = .next (illegal 7 s1)))

/-- Fills, prefetches and allocations (R176, R177, R179, R183 to R185): a fill binds the current entry of its tile where that meets the
request, and otherwise makes the tile's new current entry; a prefetch does the same as a hint and is dropped where anything stands in
its way; an allocation makes an entry to produce, and faults where that version is current already. Each waits while the replay queue
is full, and each applies its hint. When an entry still unresolved meets a request is the model's reading: log entry 54.

Publishing, hints, invalidation and queries (R186 to R191, R236): a drain takes the unpublished entry that the tile is produced in and
faults where there is none (one that is draining is none, log entry 55); a post and a release name the version of their operand; a hint
(log entry 62) and an invalidation of a tile with no entry do nothing; an entry that is bound leaves only when it is free; TVER answers
what the current entry is. -/
def Obligations.TileFillsAndPublication : Prop :=
  (∀ (s : State) (x : FmtT) (c k : Nat) (st : Kind) (d : Desc) (co : Word), AgentOk s.cur.agent = true → s.cur.agent = .strand c k st →
      tileRef x s = .ok (d, co) →
      let t : TileKey := ⟨(s.slot c k).ctx, Desc.tid d, co⟩
      let want := if x.sub % 2 = 1 then none else some ((s.rs x.sx).toNat % 2 ^ 24)
      let ver := (s.rs x.sx).toNat % 2 ^ 24
      let found := ((s.cell c).current t).filter fun e => e.bindable && e.meets want (verRec s t).pub
      let room := (((s.cell c).ops.filter fun o => o.st == .parked).map (·.inst)).eraseDups.length + 1 ≤ 64
      let eid := 4 * s.cur.seq
      let u := swapIf x.sw s
      let go (e : Nat) (v : State) : Host.Outcome State Fault Refusal :=
        .next (retireAccess (awaitFull c k st e (itinStep c k x.h (4 * s.cur.seq + 3) (applyHint c k e x.hint v))))
      let noPin (e : Option Nat) := pinFull (s.slot c k) x.hint e = false
      (room → ∀ e, found = some e → noPin (some e.id) → exec (.tfill x) s = go e.id (touch c e.id u))
      ∧ (room → found = none → noPin none → exec (.tfill x) s = go eid (allocate c k st s.cur.seq eid t d false want 0 u))
      ∧ (room → ¬ noPin (found.map (·.id)) → Faults (.tfill x) s 0x01 7 0 0 0)
      ∧ (¬ room → exec (.tfill x) s = .next s ∧ exec (.talloc x) s = .next s ∧ exec (.tpref x) s = .next (retireNow s))
      ∧ (room → ∀ e, found = some e → noPin (some e.id) →
          exec (.tpref x) s = .next (retireNow (applyHint c k e.id x.hint (touch c e.id u))))
      ∧ (room → found = none → noPin none → ∀ way sway vic, allocTry s c t d = .ok way sway vic →
          exec (.tpref x) s = .next (retireNow (applyHint c k eid x.hint
            (placeEntry c eid way sway vic false (addEntry c k eid t d false want 0 u)))))
      ∧ (((s.cell c).current t).all (fun e => !(e.resolved && e.ver == ver)) = true → room → noPin none →
          exec (.talloc x) s = .next (retireAccess (applyHint c k eid x.hint (allocate c k st s.cur.seq eid t d true none ver s))))
      ∧ (room → ∀ e, (s.cell c).current t = some e → e.resolved = true → e.ver = ver → Faults (.talloc x) s 0x13 0 0 0 0))
  ∧ (∀ (s : State) (x : FmtT) (c k : Nat) (st : Kind) (d : Desc) (co : Word), AgentOk s.cur.agent = true → s.cur.agent = .strand c k st →
      tileRef x s = .ok (d, co) →
      let t : TileKey := ⟨(s.slot c k).ctx, Desc.tid d, co⟩
      let ver := (s.rs x.sx).toNat % 2 ^ 24
      let current := (s.cell c).current t
      let produced := current.filter fun e => e.produced && !e.published && e.st != .draining
      let room := (((s.cell c).ops.filter fun o => o.st == .parked).map (·.inst)).eraseDups.length + 1 ≤ 64
      let u := swapIf x.sw s
      let command (cmd : LensCmd) (at_ : CmdSt) (v : State) : State := v.updCell c fun y => { y with ops := y.ops ++
        [{ seq := s.cur.seq, slot := k, k := st, fpc := s.cur.pc, word := s.cur.word, lit := s.cur.lit, cmd := cmd, st := at_, issued := s.clk
           inst := s.cur.seq, repst := s.repst s.cur.agent }] }
      let noPin (e : Option Nat) := pinFull (s.slot c k) x.hint e = false
      let flag (b : Bool) (n : Nat) : Nat := if b then 2 ^ n else 0
      let answer : Word := match current with
        | none => BitVec.ofNat 64 (2 ^ 63)
        | some e =>
          if e.resolved then BitVec.ofNat 64 (flag e.published 34 + flag e.produced 33 + flag e.allFull 32 + e.ver)
          else BitVec.ofNat 64 (2 ^ 35 + e.want.getD 0)
      (room → ∀ e, produced = some e → noPin (some e.id) →
        exec (.tdrain x) s = .next (retireTile (command (.drain e.id x.hint) .parked
          (if x.hint = 1 then applyHint c k e.id 1 (touch c e.id u) else touch c e.id u))))
      ∧ (room → produced = none → Faults (.tdrain x) s 0x13 0 0 0 0)
      ∧ (¬ room → exec (.tdrain x) s = .next s)
      ∧ exec (.tpost x) s = .next (retireAccess (command (.tpost t d ver) .active u))
      ∧ (Desc.sq d = true → exec (.tqrel x) s = .next (retireAccess (command (.tqrel t d ver) .active u)))
      ∧ (Desc.sq d = false → Faults (.tqrel x) s 0x01 7 0 0 0)
      ∧ (current = none → exec (.thint x) s = .next (retireNow u) ∧ exec (.tinv x) s = .next (retireAccess u))
      ∧ (∀ e, current = some e →
          (noPin (some e.id) → exec (.thint x) s = .next (retireNow (applyHint c k e.id x.hint (touch c e.id u))))
          ∧ ((s.cell c).bound e.id = true → exec (.tinv x) s = .next (retireAccess (command (.tinv e.id) .active u)))
          ∧ ((s.cell c).bound e.id = false → exec (.tinv x) s = .next (retireAccess (dropEntry c e.id u))))
      ∧ exec (.tver x) s = .next (retireIn 4 (writeS x.sx answer 4 u)))

/-- Tiles and v registers (R192 to R195, R232): a TLD whose 16 granules are full reads them in its issue clk and lands 5 clk later, its
entry bound until then, and with .c empties them at the end of that clk; a TLD with no entry starts the fill and holds the strand; a TST
lands 2 clk later; a TLD waits while a granule is empty, or one that another TLD.C reads is about to be; an offset outside the tile is
refused, and a TST with no entry to produce faults (log entry 55).

Row gathers and scatters (R194): row r lies at the base plus lane r of the offsets, and a lane of all ones leaves its row out; a
gather is a command with every row, to move or to leave as zero; a tile of more than 64 rows, and no entry to act on, fault. That a
TSCT of a tile with no current entry faults, and a TGTH of one that is draining, is the model's reading: log entries 18 and 55. -/
def Obligations.TileRegistersAndRows : Prop :=
  (∀ (s : State) (x : FmtT) (c k : Nat) (st : Kind) (d : Desc) (co : Word), AgentOk s.cur.agent = true → s.cur.agent = .strand c k st →
      tileRef x s = .ok (d, co) →
      let t : TileKey := ⟨(s.slot c k).ctx, Desc.tid d, co⟩
      let o := (s.rs x.sx).toNat % 2 ^ 32
      let inside := o % 16 = 0 ∧ o + 256 ≤ Desc.tileBytes d
      let room := (((s.cell c).ops.filter fun o => o.st == .parked).map (·.inst)).eraseDups.length + 1 ≤ 64
      let u := swapIf x.sw s
      let full (e : Entry) : Prop := ∀ i < 16, e.isFull (o / 16 + i) = true
      let dst := vOff (s.slot c k) st x.vx
      let eid := 4 * s.cur.seq
      let emptied (eid : Nat) (v : State) : State :=
        if x.sub % 2 = 1 then v.updCell c fun y => { y with lensWr := y.lensWr ++ [
          { seq := s.cur.seq, slot := k, k := st, eid := eid, due := s.clk, parts := (List.range 16).map fun i => (o + 16 * i, 0, 0)
            empties := true }] }
        else v
      let taken (e : Entry) : Prop := x.sub % 2 = 1 ∧ ∃ w ∈ (s.cell c).lensWr,
        w.empties = true ∧ w.eid = e.id ∧ ∃ p ∈ w.parts, overlap o 256 p.1 16 = true
      let held (cmd : LensCmd) (at_ : CmdSt) (v : State) : Host.Outcome State Fault Refusal :=
        .next (holdAgent (retireRead (addOp c (newOp s k st cmd at_) v)))
      let open_ := ((s.cell c).current t).filter fun e => e.produced && !e.published && e.st != .draining
      (room → inside → ∀ e, (s.cell c).current t = some e → full e → ¬ taken e → s.err.badLens.contains (c, e.id) = false →
        (e.here = true → exec (.tld x) s = .next (retire (.clk (s.clk + 5)) (.clk (s.clk + 1))
          (emptied e.id (putLens c k st s.cur.seq e.id (s.clk + 5) [] (putV c k st dst (2 ^ 64 - 1) (Memory.readN e.data o 256) (s.clk + 5)
            s.cur.seq true (updEntry c e.id (fun e => { e with lru := s.cur.seq }) u))))))
        ∧ (e.here = false → exec (.tld x) s = held (.tld e.id o dst (x.sub % 2 = 1)) .parked (touch c e.id u)))
      ∧ (room → inside → ∀ e, (s.cell c).current t = some e → ¬ full e ∨ taken e → exec (.tld x) s = .next s)
      ∧ (room → inside → (s.cell c).current t = none →
          exec (.tld x) s = held (.tld eid o dst (x.sub % 2 = 1)) .active (allocate c k st s.cur.seq eid t d false none 0 u))
      ∧ (room → ¬ inside → Faults (.tld x) s 0x01 7 0 0 0 ∧ Faults (.tst x) s 0x01 7 0 0 0)
      ∧ (¬ room → exec (.tld x) s = .next s ∧ exec (.tst x) s = .next s)
      ∧ (room → inside → open_ = none → Faults (.tst x) s 0x13 0 0 0 0)
      ∧ (room → inside → ∀ e, open_ = some e →
          (e.here = true → exec (.tst x) s = .next (retireAccess (putLens c k st s.cur.seq e.id (s.clk + 2)
            ((List.range 16).map fun i => (o + 16 * i, 16, s.rv x.vx / 256 ^ (16 * i) % 256 ^ 16)) (touch c e.id u))))
          ∧ (e.here = false → exec (.tst x) s = .next (retireAccess
              (addOp c (newOp s k st (.tst e.id o (s.rv x.vx)) .parked) (touch c e.id u))))))
  ∧ (∀ (s s1 : State) (x : FmtT) (c k : Nat) (st : Kind) (d : Desc) (co : Word),
      AgentOk s.cur.agent = true → s.cur.agent = .strand c k st → tileRef x s = .ok (d, co) →
      let t : TileKey := ⟨(s.slot c k).ctx, Desc.tid d, co⟩
      let lane (r : Nat) : Nat := s.rv x.vx / 2 ^ (32 * r) % 2 ^ 32
      let rows : List (Nat × Word) := (List.range (Desc.tr d)).filterMap fun r =>
        if lane r = 2 ^ 32 - 1 then none else some (r, s.rs x.sx + BitVec.ofNat 64 (lane r))
      let room := (((s.cell c).ops.filter fun o => o.st == .parked).map (·.inst)).eraseDups.length + 1 ≤ 64
      let open_ := ((s.cell c).current t).filter fun e => e.produced && !e.published && e.st != .draining
      let every : List (Nat × Option Word) := (List.range (Desc.tr d)).map fun r =>
        (r, if lane r = 2 ^ 32 - 1 then none else some (s.rs x.sx + BitVec.ofNat 64 (lane r)))
      let op (cmd : LensCmd) (at_ : CmdSt) : LensOp :=
        { seq := s.cur.seq, slot := k, k := st, fpc := s.cur.pc, word := s.cur.word, lit := s.cur.lit, cmd := cmd, st := at_, issued := s.clk
          inst := s.cur.seq, repst := s.repst s.cur.agent }
      (room → Desc.tr d ≤ 64 → ∀ e, open_ = some e → checkRows 5 4 d rows s = .ok s1 →
        exec (.tgth x) s = .next (retireAccess (addOp c (op (.tgth e.id every) (if e.here then .active else .parked))
          (touch c e.id (swapIf x.sw s1)))))
      ∧ (room → Desc.tr d ≤ 64 → ∀ e, (s.cell c).current t = some e → checkRows 6 5 d rows s = .ok s1 →
        exec (.tsct x) s = .next (retireTile (addOp c (op (.tsct e.id (every.filter (·.2.isSome))) .parked) (touch c e.id (swapIf x.sw s1)))))
      ∧ (room → 64 < Desc.tr d → Faults (.tgth x) s 0x01 7 0 0 0 ∧ Faults (.tsct x) s 0x01 7 0 0 0)
      ∧ (room → Desc.tr d ≤ 64 → open_ = none → Faults (.tgth x) s 0x13 0 0 0 0)
      ∧ (room → Desc.tr d ≤ 64 → (s.cell c).current t = none → Faults (.tsct x) s 0x13 0 0 0 0)
      ∧ (¬ room → exec (.tgth x) s = .next s ∧ exec (.tsct x) s = .next s))

/-- Matrix operations at issue (R45, R46, R182, R195 to R197): MMA and MMAS bind their operands and join the replay queue with the shape
of their k register; a shape outside its limits or outside either tile, element types other than TYPES names, a scale where MMA has none
or none where MMAS has one, and an accumulator outside the view are refused; an operand that no handle names or that lies outside its
tensor faults; a TFILLM is a fill and a matrix operation that waits for it, refused as an MMA is; each waits while the replay queue is
full, and MMA and MMAS while an accumulator that they name is. -/
def Obligations.MatrixOperations : Prop :=
  ∀ (s : State) (x : FmtX) (y : FmtT) (lit : TfLit) (c k : Nat) (st : Kind), AgentOk s.cur.agent = true → s.cur.agent = .strand c k st →
    let sl := s.slot c k
    let shape (sw n : Nat) : Word := Tab.get 0 n (if sw = 1 then (s.strand c k st).ks else (s.strand c k st).k)
    let room := (((s.cell c).ops.filter fun o => o.st == .parked).map (·.inst)).eraseDups.length + 1 ≤ 64
    let free := accBusy (s.cell c) s.clk [accOff sl x.ad, if x.mode = 2 then accOff sl x.ab else none] = false
    let inside (d : Desc) (co : Word) : Prop :=
      let f (i : Nat) : Nat := co.toNat / 2 ^ (16 * i) % 2 ^ 16
      f 0 < Desc.nt0 d ∧ f 1 < Desc.nt1 d ∧ f 2 < Desc.e2 d ∧ f 3 < Desc.e3 d
    let kinds : List (Nat × Nat) := [(1, 1), (2, 2), (3, 3), (3, 4), (4, 3), (4, 4), (5, 5), (6, 6), (9, 9), (10, 10), (9, 10)]
    let across (d : Desc) : Nat := if Desc.skdir d = 0 then Desc.tr d else Desc.tc d
    let along (d : Desc) : Nat := if Desc.skdir d = 0 then Desc.tc d else Desc.tr d
    let done (mmas : Bool) (b : MmaBind) : Host.Outcome State Fault Refusal :=
      .next (retireRead (parkMma c k st s.cur.seq none x mmas b (swapIf x.sw s)))
    let q := s.cur.seq
    (∀ mmas, let i : Instr := if mmas then .mmas x else .mma x
      (free → room → ∀ b, mmaCheck sl x mmas (shape x.sw x.k) = .ok b → exec i s = done mmas b)
      ∧ (free → room → ∀ code sub, mmaCheck sl x mmas (shape x.sw x.k) = .error (code, sub) → Faults i s code sub 0 0 0)
      ∧ (¬ free ∨ ¬ room → exec i s = .next s))
    ∧ (Tab.find x.ha sl.h = none ∨ Tab.find x.hb sl.h = none → ∀ mmas w, mmaCheck sl x mmas w = .error (0x11, 0))
    ∧ (∀ da db : Desc, Tab.find x.ha sl.h = some da → Tab.find x.hb sl.h = some db →
        let ca := Tab.get 0 x.ca sl.c
        let cb := Tab.get 0 x.cb sl.c
        let base := if x.mode = 2 then x.ab else x.ad
        (¬ inside da ca ∨ ¬ inside db cb → ∀ mmas w, mmaCheck sl x mmas w = .error (0x12, 0))
        ∧ (inside da ca → inside db cb →
          (accOff sl x.ad = none ∨ accOff sl base = none → ∀ mmas w, mmaCheck sl x mmas w = .error (0x01, 7))
          ∧ ∀ d b, accOff sl x.ad = some d → accOff sl base = some b → ∀ (mmas : Bool) (w : Word), x.types ≤ 10 →
            let f (i : Nat) : Nat := w.toNat / 2 ^ (16 * i) % 2 ^ 16
            let g := if x.types ≤ 1 then 16 else 32
            let shapeGood := 1 ≤ f 0 ∧ f 0 ≤ 128 ∧ 1 ≤ f 1 ∧ f 1 ≤ 128 ∧ f 2 ≠ 0 ∧ f 2 % g = 0 ∧ f 3 % g = 0
            let tilesGood := f 0 ≤ across da ∧ f 1 ≤ across db ∧ f 3 + f 2 ≤ along da ∧ f 3 + f 2 ≤ along db
            let typesGood := kinds[x.types]? = some (Desc.etype da, Desc.etype db)
            let scalesGood := if mmas then Desc.smode da ≠ 0 ∧ Desc.smode db ≠ 0 else Desc.smode da = 0 ∧ Desc.smode db = 0
            let good := shapeGood ∧ tilesGood ∧ typesGood ∧ scalesGood
            (good → mmaCheck sl x mmas w = .ok ⟨da, ca, db, cb, d, b, f 0, f 1, f 2, f 3⟩)
            ∧ (¬ good → mmaCheck sl x mmas w = .error (0x01, 7))))
    ∧ (∀ d co b, tileRef y s = .ok (d, co) →
        let t : TileKey := ⟨sl.ctx, Desc.tid d, co⟩
        let want := if y.sub % 2 = 1 then none else some ((s.rs y.sx).toNat % 2 ^ 24)
        let r := bindOrFill c k st (4 * q) t d want (swapIf y.sw s)
        let filled := awaitFull c k st r.1 (itinStep c k y.h (4 * q + 3) (applyHint c k r.1 y.hint r.2))
        room → roomForBoth sl s.cur.hdr.sb lit.sb st = true →
        pinFull sl y.hint ((fillMatch s c t want).map (·.id)) = false →
        mmaCheck sl lit.x lit.mmas (shape y.sw lit.x.k) = .ok b →
        exec (.tfillm y lit) s = .next ((retireAccess (parkMma c k st (q + 1) (some r.1) lit.x lit.mmas b filled)).updSlot c k
          (reserve lit.sb st (q + 1) (signalAt lit.sb (.perform (q + 1)) (.consumed (q + 1))))))
    ∧ (¬ room ∨ roomForBoth sl s.cur.hdr.sb lit.sb st = false → exec (.tfillm y lit) s = .next s)
    ∧ (∀ d co code sub, tileRef y s = .ok (d, co) → room → roomForBoth sl s.cur.hdr.sb lit.sb st = true →
        pinFull sl y.hint ((fillMatch s c ⟨sl.ctx, Desc.tid d, co⟩ (if y.sub % 2 = 1 then none else some ((s.rs y.sx).toNat % 2 ^ 24))).map (·.id))
          = false →
        mmaCheck sl lit.x lit.mmas (shape y.sw lit.x.k) = .error (code, sub) → Faults (.tfillm y lit) s code sub 0 0 0)

/-- Accumulators and shape registers (R36, R45, R199 to R202): rows that clear, move or drain an accumulator start in the issue clk;
a commit exchanges the two names at the end of its clk; a discard takes the parked speculative operations away and lets their pushes fall due; a name
outside the view is refused, and a busy accumulator makes the instruction wait, whatever its other names are; a drain into a tensor that
its shape does not fit, or with no entry to produce, faults. -/
def Obligations.Accumulators : Prop :=
  ∀ (s : State) (x : FmtX) (q : FmtQ) (c k : Nat) (st : Kind), AgentOk s.cur.agent = true → s.cur.agent = .strand c k st →
    let sl := s.slot c k
    let acc := accOff sl
    let free (l : List (Option Nat)) := accBusy (s.cell c) s.clk l = false
    let rows (kind : RowKind) (v : State) : State := v.updCell c fun y => { y with rows := y.rows ++
      [{ seq := s.cur.seq, slot := k, k := st, start := s.clk, kind := kind, fpc := s.cur.pc }] }
    let spec (d : Nat) (o : LensOp) : Bool := match o.cmd with | .mma m => m.mode == 2 && m.accD == d | _ => false
    let kind : Kind := if q.idx / 16 % 4 = 1 then .A else if q.idx / 16 % 4 = 2 then .X else .W
    let field := q.idx % 4
    let y := s.strand c k kind
    let held : Word := Tab.get 0 (q.idx / 4 % 4) (if bit q.f 0 = (y.swapClk == some s.clk) then y.ks else y.k)
    (∀ d, acc x.ad = some d →
      (free [d] → exec (.aclr x) s = .next (retire (.perform s.cur.seq) (.clk (s.clk + 1)) (rows (.aclr d) s)))
      ∧ (¬ free [d] → exec (.aclr x) s = .next s))
    ∧ (acc x.ad = none → Faults (.aclr x) s 0x01 7 0 0 0 ∧ Faults (.adiscard x) s 0x01 7 0 0 0)
    ∧ (acc x.ad = none ∨ acc x.ab = none → free [acc x.ad, acc x.ab] →
        Faults (.acommit x) s 0x01 7 0 0 0 ∧ Faults (.amov x) s 0x01 7 0 0 0)
    ∧ (∀ d b, acc x.ad = some d → acc x.ab = some b → free [d, b] →
        exec (.acommit x) s = .next (retireNow (s.updSlot c k fun z => { z with swaps := z.swaps ++ [(x.ab, x.ad)] }))
        ∧ exec (.amov x) s = .next (retire (.perform s.cur.seq) (.clk (s.clk + 128)) (rows (.amov d b) s)))
    ∧ (∀ z : Slot, z.swaps = [(x.ab, x.ad)] → swapSlot z = { z with aview := swapAmap z.aview x.ab x.ad, swaps := [] })
    ∧ (¬ free [acc x.ad, acc x.ab] → exec (.acommit x) s = .next s ∧ exec (.amov x) s = .next s)
    ∧ (∀ d, acc x.ad = some d →
        let gone := ((s.cell c).ops.filter (spec d)).map (·.seq)
        exec (.adiscard x) s = .next (retireNow (s.updCell c fun cl =>
          { cl with
            ops := cl.ops.filter fun o => !spec d o
            slots := cl.slots.map fun p => (p.1, { p.2 with
              pushes := p.2.pushes.map fun z => if gone.contains z.seq then { z with due := .clk (s.clk + 1) } else z }) })))
    ∧ (∀ d co src e, Tab.find x.ha sl.h = some d → co = Tab.get 0 x.ca sl.c → coordOk d co = true → acc x.ab = some src → free [src] →
        let w := Tab.get 0 x.k (if x.sw = 1 then (s.strand c k st).ks else (s.strand c k st).k)
        let m := w.toNat % 2 ^ 16
        let n := w.toNat / 2 ^ 16 % 2 ^ 16
        let u := touch c e.id (swapIf x.sw s)
        ((s.cell c).current ⟨sl.ctx, Desc.tid d, co⟩).filter (fun e => e.produced && !e.published && e.st != .draining) = some e →
        (((s.cell c).ops.filter fun o => o.st == .parked).map (·.inst)).eraseDups.length + 1 ≤ 64 → (bit x.sub 2 = true → Desc.etype d = 3) →
        1 ≤ m → m ≤ 128 → 1 ≤ n → n ≤ 128 → m ≤ Desc.tr d → n ≤ Desc.tc d → (Desc.smode d = 0 ∨ Desc.skdir d = 0) →
        (e.here = true → exec (.adrn x) s = .next (retire (.perform s.cur.seq) (.clk (s.clk + m))
          (rows (.adrn src e.id m n (x.sub % 4) (bit x.sub 2) (bit x.sub 3)) u)))
        ∧ (e.here = false → exec (.adrn x) s = .next (retireRead
            (addOp c (newOp s k st (.adrn e.id src m n (x.sub % 4) (bit x.sub 2) (bit x.sub 3)) .parked) u))))
    ∧ (free [acc x.ab] → (((s.cell c).ops.filter fun o => o.st == .parked).map (·.inst)).eraseDups.length + 1 ≤ 64 →
        (Tab.find x.ha sl.h = none → Faults (.adrn x) s 0x11 0 0 0 0)
        ∧ ∀ d : Desc, Tab.find x.ha sl.h = some d →
          let w := Tab.get 0 x.k (if x.sw = 1 then (s.strand c k st).ks else (s.strand c k st).k)
          let m := w.toNat % 2 ^ 16
          let n := w.toNat / 2 ^ 16 % 2 ^ 16
          let co := Tab.get 0 x.ca sl.c
          let fits := 1 ≤ m ∧ m ≤ 128 ∧ 1 ≤ n ∧ n ≤ 128 ∧ m ≤ Desc.tr d ∧ n ≤ Desc.tc d ∧ (Desc.smode d = 0 ∨ Desc.skdir d = 0)
          let typed := bit x.sub 2 = true → Desc.etype d = 3
          (¬ typed → Faults (.adrn x) s 0x01 5 0 0 0)
          ∧ (typed → coordOk d co = false → Faults (.adrn x) s 0x12 0 0 0 0)
          ∧ (typed → coordOk d co = true → acc x.ab = none ∨ ¬ fits → Faults (.adrn x) s 0x01 7 0 0 0)
          ∧ (typed → coordOk d co = true → acc x.ab ≠ none → fits →
              ((s.cell c).current ⟨sl.ctx, Desc.tid d, co⟩).filter (fun e => e.produced && !e.published && e.st != .draining) = none →
              Faults (.adrn x) s 0x13 0 0 0 0))
    ∧ (¬ free [acc x.ab] ∨ 64 < (((s.cell c).ops.filter fun o => o.st == .parked).map (·.inst)).eraseDups.length + 1 → exec (.adrn x) s = .next s)
    ∧ exec (.kset q) s = .next (retireNow (s.updSlot c k fun z =>
        { z with ksets := z.ksets ++ [⟨kind, q.idx / 4 % 4, field, (s.rs q.a).toNat % 2 ^ 16⟩] }))
    ∧ CompletesS (.kget q) s q.d (BitVec.ofNat 64 (held.toNat / 2 ^ (16 * field) % 2 ^ 16)) 2

/-- A store performs (R8, R116, R252, R258): the bytes of its element hold the low bytes of its data, every other byte reads as before, the
access is no longer in flight, and beside the words that fetch may still see, error marks that the store ends, copies in its own die's
remote-data cache and L1 copies nothing else changes; the one L1 copy of a sector it has begun in is its own cell's, modified.

A vector store or a scatter performs (R126, R128, R384): every byte reads as the last of its elements leaves it, an element that is a
nibble merging its half of a byte at the home, and every byte that no element covers as before; one that would leave part of bad data is
refused after issue and writes nothing. -/
def Obligations.StoresPerform : Prop :=
  (∀ (s : State) (id : Nat) (src : Src) (a : Acc) (e : Elem) (pa key : Nat), MemoryOk s → MayPerform s id a → OneInMemory a e pa key →
      Arrived s a pa → a.kind = .store → s.badPart pa (widthOf a.size) = none →
      ∃ t, exec (.accessPerform id src) s = .next t ∧ Wrote s t pa (widthOf a.size) e.data key
        ∧ t = releaseAgent a.agent a.id { s with
            mem := t.mem, keyTag := t.keyTag, oldWords := t.oldWords, err := t.err, rdc := t.rdc, l1 := t.l1, ctxs := t.ctxs
            accs := s.accs.filter fun q => q.id != a.id }
        ∧ (∀ q ∈ t.l1, q.pa = pa / 64 * 64 → q.st = .m ∧ ∃ k z, a.agent = .strand q.cell k z)
        ∧ (∀ n, t.ctxOf n = { s.ctxOf n with colls := (t.ctxOf n).colls }) ∧ ((s.ctxOf a.ctx).unsettled = [] → t.ctxs = s.ctxs))
  ∧ (∀ (s : State) (id : Nat) (src : Src) (a : Acc) (key : Nat), MemoryOk s → MayPerform s id a → a.kind = .vstore → a.size ≤ 6 →
      (∀ e ∈ a.elems, ∃ pa, e.loc = .mem pa key ∧ Arrived s a pa) →
      let n := widthOf a.size
      let left (e : Elem) (b v : Nat) : Nat := match e.loc, e.nib with
        | .mem pa _, none => if pa ≤ b ∧ b < pa + n then e.data / 256 ^ (b - pa) % 256 else v
        | .mem pa _, some high => if b = pa then (if high then v % 16 + e.data % 16 * 16 else v / 16 * 16 + e.data % 16) else v
        | _, _ => v
      (accBadPart s a = none → ∃ t, exec (.accessPerform id src) s = .next t
        ∧ (∀ b, t.byteAt b key = a.elems.foldl (fun v e => left e b v) (s.byteAt b key))
        ∧ t = releaseAgent a.agent a.id { s with
            mem := t.mem, keyTag := t.keyTag, oldWords := t.oldWords, err := t.err, rdc := t.rdc, l1 := t.l1, ctxs := t.ctxs
            accs := s.accs.filter fun q => q.id != a.id }
        ∧ ((s.ctxOf a.ctx).unsettled = [] → t.ctxs = s.ctxs))
      ∧ ((∀ e ∈ a.elems, ∀ pa, e.loc = .mem pa key → s.badAt pa (if e.nib.isSome then 1 else n) = none) → accBadPart s a = none)
      ∧ (∀ c va, accBadPart s a = some (c, va) → a.orphan = false → exec (.accessPerform id src) s = .next
          (finishAcc a (losePush a.agent a.id { s with reports := s.reports ++
            [{ agent := a.agent, kind := 1, code := 0x08, fpc := a.fpc, addr := va, aux := BitVec.ofNat 64 c, aux2 := 0 }] }))))

/-- A load performs (R114, R116, R254 to R256): at its home, with the bytes that stand there and the sectors that its die's cache
takes, or from a sector of that cache filled no more than 4,000 ticks before its issue; its extended value goes to its destination, and
an acquire bumps its die's generation. Which of the two serves it is the step's argument (log entry 40), and the unspecified bytes of a
collective's destination are free (R366, log entry 4).

A vector load or a gather performs (R125, R127): each of its lanes lands at the end of the clk with its element, extended to 32 bits,
a nibble as its four bits, and no other lane does; a precise fault of bad data is the load's own (log entry 31).

An atomic performs (R122, R123): one read-modify-write at the home, whose old value, extended, goes to its destination; what each
operation leaves, and a compare-and-swap that finds another value writes nothing. A read of a collective's unsettled destination is of
free bytes, and a write of its source spoils it (R366, log entry 4). -/
def Obligations.LoadsAndAtomicsPerform : Prop :=
  (∀ (s : State) (id : Nat) (a : Acc) (e : Elem) (pa key : Nat), MayPerform s id a → OneInMemory a e pa key → a.kind = .load →
      (∀ c k o, a.dst ≠ .v c k o) → e.got = none →
      let n := widthOf a.size
      let acquired (t : State) : State := if a.acq then acquireBump a.agent a.ctx a.scope t else t
      let cached (d : Nat) : Option RdcSector := s.rdc.find? fun r =>
        r.die == d && r.ctx == a.ctx && r.pa == pa / 64 * 64 && r.key == key && decide ((a.rt - r.filled).toInt ≤ 4000)
      let allowed (d : Nat) := a.byp = false ∧ pa / 2 ^ 36 ≠ d ∧ (s.ctxOf a.ctx).rdcsz / 256 ^ d % 256 ≠ 0
      let seen (raw : Nat) : Nat := unsettledBytes s a.ctx e.va n raw
      (∀ raw i, i < n → (∀ q ∈ (s.ctxOf a.ctx).unsettled, inRange q.2.2 (e.va + BitVec.ofNat 64 i) = false) →
        seen raw / 256 ^ i % 256 = raw / 256 ^ i % 256)
      ∧ (Arrived s a pa → s.badAt pa n = none → exec (.accessPerform id .home) s = .next (finishAcc a
        (deliver a.dst (extended a.size (seen (s.memRead pa n key))) a.id (acquired (rdcFills a .home s)))))
      ∧ (∀ c k z r, a.agent = .strand c k z → allowed (c / 16) → cached (c / 16) = some r →
        exec (.accessPerform id .rdc) s = .next (finishAcc a
          (deliver a.dst (extended a.size (seen (r.bytes / 256 ^ (pa % 64) % 256 ^ n))) a.id (acquired s))))
      ∧ (∀ c, Arrived s a pa → s.badAt pa n = some c → exec (.accessPerform id .home) s = .next (preciseLate a 0x08 e.va (BitVec.ofNat 64 c) s)))
  ∧ (∀ (s : State) (id : Nat) (a : Acc) (c k off : Nat), MayPerform s id a → a.kind = .vload → a.size ≤ 6 → a.size ≠ 3 → a.dst = .v c k off →
      (s.ctxOf a.ctx).unsettled = [] → (∀ e ∈ a.elems, e.got = none ∧ ∃ pa key, e.loc = .mem pa key ∧ Arrived s a pa) →
      let n := widthOf a.size
      let lane (e : Elem) : Nat := match e.loc, e.nib with
        | .mem pa key, none => (extended a.size (s.memRead pa n key)).toNat % 2 ^ 32
        | .mem pa key, some high => s.memRead pa 1 key / (if high then 16 else 1) % 16
        | _, _ => 0
      let bad (e : Elem) : Option Nat := match e.loc with | .mem pa _ => s.badAt pa (if e.nib.isSome then 1 else n) | _ => none
      let value := a.elems.foldl (fun v e => v + lane e * 2 ^ (32 * e.lane)) 0
      let acquired (t : State) : State := if a.acq then acquireBump a.agent a.ctx a.scope t else t
      let st := match a.agent with | .strand _ _ z => z | .cond _ => .C
      ((∀ e ∈ a.elems, bad e = none) → exec (.accessPerform id .home) s = .next (finishAcc a
        (putV c k st off (ofBits (a.elems.map (·.lane))) value s.clk a.id false (acquired (rdcFills a .home s)))))
      ∧ (∀ before e after code, a.elems = before ++ e :: after → (∀ d ∈ before, bad d = none) → bad e = some code →
        exec (.accessPerform id .home) s = .next (preciseLate a 0x08 e.va (BitVec.ofNat 64 code) s)))
  ∧ (∀ (s : State) (id : Nat) (src : Src) (a : Acc) (e : Elem) (pa key : Nat), MemoryOk s → MayPerform s id a → OneInMemory a e pa key →
      Arrived s a pa → e.got = none → s.badAt pa (widthOf a.size) = none →
      let n := widthOf a.size
      let old := unsettledBytes s a.ctx e.va n (s.memRead pa n key)
      let x := a.x.toNat % 2 ^ (8 * n)
      let so := sext old (8 * n)
      let sx := sext x (8 * n)
      let fmt : ETy := if n = 8 then .f64 else .f32
      let new (op : Nat) : Nat :=
        if op = 0 then (old + x) % 2 ^ (8 * n) else if op = 1 then old &&& x else if op = 2 then old ||| x else if op = 3 then old ^^^ x
        else if op = 4 then (if so ≤ sx then old else x) else if op = 5 then (if so ≤ sx then x else old)
        else if op = 6 then min old x else if op = 7 then max old x else if op = 8 then x
        else roundFmt fmt 0 (addX 0 (decodeF fmt old) (decodeF fmt x))
      let done (t : State) : State := finishAcc a (deliver a.dst (extended a.size old) a.id
        (spoilSrc a (if a.acq then acquireBump a.agent a.ctx a.scope t else t)))
      ((s.ctxOf a.ctx).unsettled = [] → old = s.memRead pa n key)
      ∧ (∀ t : State, ((t.ctxOf a.ctx).unsettled = [] → spoilSrc a t = t) ∧ spoilSrc a t = { t with ctxs := (spoilSrc a t).ctxs }
          ∧ ∀ m, (spoilSrc a t).ctxOf m = { t.ctxOf m with colls := ((spoilSrc a t).ctxOf m).colls })
      ∧ (∀ op, a.kind = .amo op → ∃ t, exec (.accessPerform id src) s = .next (done t) ∧ Wrote s t pa n (new op) key
        ∧ t = { s with mem := t.mem, keyTag := t.keyTag, oldWords := t.oldWords, err := t.err, rdc := t.rdc, l1 := t.l1 })
      ∧ (a.kind = .cas → old = x → ∃ t, exec (.accessPerform id src) s = .next (done t) ∧ Wrote s t pa n a.d.toNat key
        ∧ t = { s with mem := t.mem, keyTag := t.keyTag, oldWords := t.oldWords, err := t.err, rdc := t.rdc, l1 := t.l1 })
      ∧ (a.kind = .cas → old ≠ x → ∃ t, exec (.accessPerform id src) s = .next (done t) ∧ t = { s with l1 := t.l1 }))

/-- Local order (R115, R122, R124, R139, R140, R142, R219, R258): an access of any kind is held back by an earlier one of its agent that stands in
its class, by an earlier acquire, and where it is a release by every earlier one; a BST by those that its mask names; a BLD by earlier
Prism operations; of two Prism operations the later by one that has not entered the order of λ0; a FENCE by the earlier accesses that it
orders, and the later ones by it; an IFLUSH by earlier stores. Held back, it does not perform, and nothing changes. -/
def Obligations.LocalOrderHolds : Prop :=
  ∀ (s : State) (id : Nat) (src : Src) (a b : Acc), s.acc id = some b → a ∈ s.accs → a.agent = b.agent → a.id < b.id → a.orphan = false →
    let classed (k : AccKind) : Prop := match k with
      | .fence _ _ | .bara _ | .barm _ _ _ | .tlbi _ _ _ | .iflush | .collw _ => False
      | _ => True
    let reads (k : AccKind) : Prop := match k with
      | .load | .vload | .amo _ | .cas | .ldnb _ | .bamo _ | .bld | .semw _ | .launch | .qpush _ | .coll | .thnd _ | .cinv _ => True
      | _ => False
    let writes (k : AccKind) : Prop := match k with
      | .store | .vstore | .amo _ | .cas | .stat _ | .mcst _ _ | .bst _ | .bamo _ => True
      | _ => False
    let ordered (k : AccKind) : Prop := match k with | .bst _ | .bamo _ => True | _ => False
    let inClass := classed a.kind ∧ classed b.kind ∧ a.cls = b.cls ∧ ¬ (ordered a.kind ∧ ordered b.kind)
    let inOrder := ordered a.kind ∧ ordered b.kind ∧ a.sent = false
    let fenced : Prop := match a.kind with
      | .fence kind mask => classed b.kind ∧ bit mask b.cls = true ∧ (kind ≠ 2 ∨ writes b.kind)
      | _ => False
    let held : Prop := match b.kind with
      | .fence kind mask => classed a.kind ∧ bit mask a.cls = true ∧ (kind ≠ 1 ∨ reads a.kind)
      | .bst mask => inClass ∨ inOrder ∨ a.acq = true ∨ fenced ∨ (b.rel = true ∧ a.scope = 3 ∧ bit mask a.cls = true)
      | .bld => ordered a.kind ∨ inClass ∨ a.acq = true ∨ fenced
      | .iflush => writes a.kind
      | _ => inClass ∨ inOrder ∨ a.acq = true ∨ b.rel = true ∨ fenced
    held → mayPerform s b = false ∧ exec (.accessPerform id src) s = .next s ∧ exec (.timeTaggedStoreAccept id) s = .next s
      ∧ exec (.ldnbRelease id) s = .next s ∧ exec (.semaphoreWake id) s = .next s

/-- Time-tagged stores and not-before loads after issue (R131 to R133): a store that arrives in time is held at its home; one whose time
has passed performs at once and is late; a held store performs when its home's Reticle reads its time; a late store is reported as a
fault that names the store's own PC (R226), or counted, as LATECTL says; a load goes on once its time has come. That a held store is
performed before anything else once its time has come is the model's reading: log entry 30. -/
def Obligations.TimeTaggedEvents : Prop :=
  ∀ (s : State) (id : Nat) (a : Acc) (e : Elem) (pa key : Nat) (t : Word), s.landing = false →
    let die := pa / 2 ^ 36
    let now := s.dieRt die
    let here := MayPerform s id a ∧ OneInMemory a e pa key ∧ Arrived s a pa
    (here → a.kind = .stat t → die < 8 → s.badPart pa (widthOf a.size) = none → now.toNat ≤ t.toNat →
      exec (.timeTaggedStoreAccept id) s = .next (finishAcc a { s with
        held := s.held ++
          [{ id := a.id, agent := some a.agent, ctx := a.ctx, elems := a.elems, size := a.size, t := t, die := die }]
        l1 := s.l1.filter fun q => !overlap q.pa 64 (pa / 256 * 256) 256 }))
    ∧ (here → MemoryOk s → a.kind = .stat t → die < 8 → s.badPart pa (widthOf a.size) = none → t.toNat < now.toNat →
      ∃ u, exec (.timeTaggedStoreAccept id) s = .next (finishAcc a u) ∧ Wrote s u pa (widthOf a.size) e.data key
        ∧ u.late = s.late ++ [⟨a.id, a.agent, a.ctx, a.fpc, e.va, a.orphan⟩] ∧ u.held = s.held)
    ∧ (∀ h : Held, MemoryOk s → s.held.find? (fun g => g.id == h.id) = some h → h.elems = [e] → e.loc = .mem pa key → e.nib = none →
        h.size ≤ 6 → h.die = die → die < 8 → h.t.toNat ≤ now.toNat →
        (∀ g ∈ s.held, g.die = die → h.t.toNat ≤ g.t.toNat) → (∀ g ∈ s.held, g.t = h.t → g = h) →
        ∃ u, exec (.heldStorePerform h.id) s = .next u ∧ Wrote s u pa (widthOf h.size) e.data key
          ∧ u.held = s.held.filter (fun g => g.id != h.id) ∧ u.accs = s.accs)
    ∧ (∀ h : Held, s.held.find? (fun g => g.id == h.id) = some h → h.die = die → die < 8 → now.toNat < h.t.toNat →
        exec (.heldStorePerform h.id) s = .next s)
    ∧ (MayPerform s id a → OneInMemory a e pa key → a.kind = .ldnb t → a.sent = false → t.toNat ≤ (s.rtOf a.agent).toNat →
      exec (.ldnbRelease id) s = .next { s with accs := s.accs.map fun q => if q.id = id then { q with sent := true } else q })
    ∧ (s.acc id = some a → a.kind = .ldnb t → a.sent = false → (s.rtOf a.agent).toNat < t.toNat → exec (.ldnbRelease id) s = .next s)
    ∧ (∀ q, s.late.find? (fun q => q.id == id) = some q →
        let gone : State := { s with late := s.late.filter fun q => q.id != id }
        let x := s.ctxOf q.ctx
        (bit x.latectl.toNat 0 = true → q.orphan = false → exec (.lateStoreReport id) s = .next { gone with reports := s.reports ++
          [{ agent := q.agent, kind := 2, code := 0x0B, fpc := q.fpc, addr := q.va, aux := 0, aux2 := 0 }] })
        ∧ (bit x.latectl.toNat 0 = true → q.orphan = true → exec (.lateStoreReport id) s = .next gone)
        ∧ (bit x.latectl.toNat 0 = false → exec (.lateStoreReport id) s = .next (gone.updCtx q.ctx fun y =>
          { y with latectl := y.latectl ||| 2, latecnt := if y.latecnt.toNat = 2 ^ 32 - 1 then y.latecnt else y.latecnt + 1 })))

/-- Semaphores and barriers (R207 to R209, R285): a waiting SEMW returns once the value is at or past its target; a generation completes
when every member cell has made its quota of arrivals, and a pending change of members takes effect with it.

Barriers, fences, cache maintenance and engine requests perform (R121, R124, R142, R173, R206, R208 to R210, R219, R250, R300, R364): an
arrival is recorded in its generation, which goes to the register and to ARRG; a change of members takes effect at once where no arrival
stands; CINV and the acquiring fences take sectors out of remote-data caches; IFLUSH ends what the cell's fetches may still see; QPUSH
appends its record under the issuer's context and answers its index; COLL takes a ticket, COLLW returns the status of a collective that
has ended; BLD reads the own replica; a handle load checks its descriptor and holds it. The reading of R208's order is log entry 15, and
that of the acquires of COLLW and of the generations log entry 37. -/
def Obligations.SemaphoresAndBarriers : Prop :=
  (∀ (s : State) (id : Nat) (a : Acc) (e : Elem) (pa key ctx n : Nat) (target : Word), s.landing = false →
      let v : Word := BitVec.ofNat 64 (s.memRead pa 8 key)
      let b : Barrier := (s.ctxOf ctx).barrier n
      let working (c : Nat) : Prop := c < 128 ∧ bit b.members c = true ∧ bit s.err.fencedCells c = false
      let arrived (c : Nat) : Nat := Tab.get 0 c b.arr
      let fresh : Barrier := { b with
        g := b.g + 1
        arr := (b.arr.map fun (c, v) => (c, if bit b.members c then v - b.quota else v)).filter fun q => q.2 != 0 }
      (MayPerform s id a → OneInMemory a e pa key → Arrived s a pa → e.got = none → a.kind = .semw target → a.size = 3 → s.badAt pa 8 = none →
        (0 ≤ (v - target).toInt → exec (.semaphoreWake id) s = .next (finishAcc a (deliver a.dst v a.id (acquireBump a.agent a.ctx 2 s))))
        ∧ ((v - target).toInt < 0 → exec (.semaphoreWake id) s = .next s))
      ∧ ((∃ c, working c) → (∀ c, working c → b.quota ≤ arrived c) →
        (b.pending = none → exec (.barrierGenerationComplete ctx n) s = .next
          (s.updCtx ctx fun x => { x with barriers := Tab.set n fresh x.barriers }))
        ∧ (∀ m q, b.pending = some (m, q) → exec (.barrierGenerationComplete ctx n) s = .next
          (s.updCtx ctx fun x => { x with barriers := Tab.set n { fresh with members := m, quota := q, pending := none } x.barriers })))
      ∧ (∀ c, working c → arrived c < b.quota → exec (.barrierGenerationComplete ctx n) s = .next s))
  ∧ (∀ (s : State) (id : Nat) (src : Src) (a : Acc) (c k n : Nat) (z : Kind), MayPerform s id a → a.peerOf = none → travelled s a src = true →
      let goes (t : State) : Prop := exec (.accessPerform id src) s = .next (finishAcc a t)
      let x := s.ctxOf a.ctx
      let b := x.barrier n
      let setBarrier (f : Barrier → Barrier) : State := s.updCtx a.ctx fun y => { y with barriers := Tab.set n (f b) y.barriers }
      let words := a.elems.foldr (fun e v => e.got.getD (locRead s e.loc 8) + 2 ^ 64 * v) 0
      let readable := accBad s a = none
      let strand := a.agent = .strand c k z
      (strand → a.kind = .bara n → a.orphan = false → goes (deliver a.dst (BitVec.ofNat 64 b.g.toNat) a.id
        ((setBarrier fun v => { v with arr := Tab.set c (Tab.get 0 c v.arr + 1) v.arr }).updSlot c k fun y =>
          { y with arrg := Tab.set n b.g y.arrg })))
      ∧ (∀ mask quota, a.kind = .barm n mask quota →
        ((∀ q ∈ b.arr, q.2 = 0) → goes (setBarrier fun v => { v with members := mask, quota := quota, pending := none }))
        ∧ (¬ (∀ q ∈ b.arr, q.2 = 0) → goes (setBarrier fun v => { v with pending := some (mask, quota) })))
      ∧ (∀ e pa key, a.kind = .cinv 0 → a.elems = [e] → e.loc = .mem pa key → goes { s with rdc := s.rdc.filter fun r =>
          !(((match agentDie a.agent with | some d => r.die == d | none => decide (r.die < 8)) && r.ctx == a.ctx && r.pa / 256 == pa / 256)) })
      ∧ (strand → a.kind = .cinv 1 → a.elems = [] → goes (rdcBump a.ctx (c / 16) s))
      ∧ (a.kind = .cinv 2 ∨ (a.kind = .cinv 1 ∧ agentDie a.agent = none) → a.elems = [] → ∃ t, goes t
          ∧ t = { s with rdc := t.rdc, ctxs := t.ctxs } ∧ ∀ r ∈ t.rdc, r ∈ s.rdc ∧ ¬ (r.ctx = a.ctx ∧ r.die < 8))
      ∧ (∀ kind mask, a.kind = .fence kind mask → a.elems = [] →
        (kind = 2 ∨ a.scope < 2 ∨ agentDie a.agent = none → kind ≤ 2 → goes s)
        ∧ (strand → kind ≤ 1 → 2 ≤ a.scope → goes (rdcBump a.ctx (c / 16) s)))
      ∧ (∀ d, (∀ r ∈ (rdcBump a.ctx d s).rdc, r ∈ s.rdc ∧ ¬ (r.die = d ∧ r.ctx = a.ctx))
          ∧ rdcBump a.ctx d s = { s with rdc := (rdcBump a.ctx d s).rdc, ctxs := (rdcBump a.ctx d s).ctxs })
      ∧ (strand → a.kind = .iflush → a.elems = [] → goes (s.updCell c fun y => { y with flushedOwn := s.oldWords.length }))
      ∧ (∀ sel, a.kind = .qpush sel → (∀ e ∈ a.elems, ∃ pa key, e.loc = .mem pa key) → readable →
        let die := sel / 8 % 8
        let q := sel % 8
        let dq := s.dieq die q
        let record := words - words / 2 ^ 32 % 2 ^ 8 * 2 ^ 32 + a.ctx * 2 ^ 32
        let bound := bit s.err.fencedDies die = false ∧ bit (x.qbind / 256 ^ die % 256) q = true
        (bound → dq.count < 32 → goes (deliver a.dst (BitVec.ofNat 64 (dq.tail.toNat % 32)) a.id (s.updDieq die q fun y =>
          { y with tail := y.tail + 1, recs := y.recs ++ [⟨BitVec.ofNat 512 record, (agentDie a.agent).isSome⟩] })))
        ∧ (bound → 32 ≤ dq.count → exec (.accessPerform id src) s = .next s))
      ∧ (a.kind = .coll → (∀ e ∈ a.elems, ∃ pa key, e.loc = .mem pa key) → x.openColls < 16 →
        let ticket := x.tickets % 2 ^ 32
        let d : BitVec 512 := BitVec.ofNat 512 words
        let taken := s.updCtx a.ctx fun y => { y with tickets := y.tickets + 1, colls := y.colls ++ [{ ticket := ticket, desc := d, agent := a.agent }] }
        ∃ u, goes (deliver a.dst (BitVec.ofNat 64 ticket) a.id u) ∧ u.mem = s.mem ∧ u.cells = s.cells
          ∧ (u.ctxOf a.ctx).tickets = x.tickets + 1
          ∧ (readable → (u.ctxOf a.ctx).colls = (taken.ctxOf a.ctx).colls)
          ∧ (readable → collValid s a.ctx d = false → u = taken)
          ∧ (¬ readable → (u.ctxOf a.ctx).statuses = ((ticket, 3) :: x.statuses).take 256))
      ∧ (∀ t, a.kind = .collw t → a.elems = [] →
        ((∃ q ∈ x.colls, q.ticket = t) → exec (.accessPerform id src) s = .next s)
        ∧ ((∀ q ∈ x.colls, q.ticket ≠ t) → goes (deliver a.dst (BitVec.ofNat 64 (((x.statuses.find? fun q => q.1 == t).map (·.2)).getD 0xFFFF)) a.id
            (acquireBump a.agent a.ctx 3 (s.updCtx a.ctx fun y => { y with unsettled := y.unsettled.filter fun q => q.1 != t })))))
      ∧ (∀ e o, a.kind = .bld → a.elems = [e] → e.loc = .prism o → x.prism = true → x.prismLive = true → s.prism.copying = false → a.size ≤ 6 →
          goes (deliver a.dst (extended a.size (Memory.readN s.prism.replica o (widthOf a.size))) a.id
            (if a.acq then acquireBump a.agent a.ctx 3 s else s)))
      ∧ (∀ h, strand → a.kind = .thnd h → (∀ e ∈ a.elems, ∃ pa key, e.loc = .mem pa key) → a.orphan = false → readable →
          let d : Desc := BitVec.ofNat 512 words
          (Desc.valid d = true → goes (s.updSlot c k fun y => { y with h := Tab.set h d y.h }))
          ∧ (Desc.valid d = false → exec (.accessPerform id src) s = .next (preciseLate a 0x11 a.x 0 s))))

/-- Answers from peers (R136, R138, R345): the answer of a load goes to its destination and unparks its task; a failure is a fault after
issue, and the access does not perform; an MCST notes who has stored and, once every member has answered, ends with that bitmap, as a fault where it is not the
whole set.

A peer's request arrives (R135, R345): under the resident context with its GROUPID, translated there as one of a task's, a load
answers the bytes and a store writes them; a package with no such context and a member outside the group are answered with their
causes. -/
def Obligations.PeerRequestsAndAnswers : Prop :=
  (∀ (s : State) (id m : Nat) (a : Acc) (ea : Word) (old w : Word) (cause members acked : Nat), s.landing = false → s.acc id = some a →
      a.sent = true →
      let away := ∃ e r, a.elems = e :: r ∧ e.loc = .peer m ea
      let noted (ok : Bool) : State := { s with accs := s.accs.map fun q => if q.id = a.id then
        { q with kind := .mcst members (if ok then acked ||| 2 ^ m else acked), x := BitVec.ofNat 64 (q.x.toNat ||| 2 ^ m) } else q }
      let failed : Report := { agent := a.agent, kind := 1, code := 0x0D, fpc := a.fpc, addr := ea, aux := BitVec.ofNat 64 cause, aux2 := w }
      (away → a.kind = .store → exec (.remoteReply id ⟨m, .done old false⟩) s = .next (finishAcc a s))
      ∧ (away → a.kind = .load ∨ a.kind = .cas ∨ (∃ op, a.kind = .amo op) ∨ (∃ t, a.kind = .ldnb t) →
        exec (.remoteReply id ⟨m, .done old false⟩) s = .next (finishAcc a (unpark a
          (deliver a.dst (BitVec.ofNat 64 (extendTo 64 a.size old.toNat)) a.id
            (if a.acq then acquireBump a.agent a.ctx a.scope s else s)))))
      ∧ (away → a.kind = .load → a.orphan = false → exec (.remoteReply id ⟨m, .failed cause w⟩) s = .next
        (finishAcc a (losePush a.agent a.id (unpark a { s with reports := s.reports ++ [failed] }))))
      ∧ (away → ∀ n res, n ≠ m → exec (.remoteReply id ⟨n, res⟩) s = .next s)
      ∧ (a.kind = .mcst members acked →
        (bit members m = false → ∀ res, exec (.remoteReply id ⟨m, res⟩) s = .next s)
        ∧ (bit members m = true →
          exec (.remoteReply id ⟨m, .done old false⟩) s = .next (noted true)
          ∧ exec (.remoteReply id ⟨m, .failed cause w⟩) s = .next (noted false))
        ∧ (a.x.toNat ||| members = a.x.toNat → acked = members →
            exec (.mcstComplete id) s = .next (finishAcc a (putAsync a.dst (BitVec.ofNat 64 acked) a.id s)))
        ∧ (a.x.toNat ||| members = a.x.toNat → acked ≠ members → ∀ e r, a.elems = e :: r →
            exec (.mcstComplete id) s = .next (lateFault a 2 0x0E e.va (BitVec.ofNat 64 acked) (BitVec.ofNat 64 members)
              (finishAcc a (putAsync a.dst (BitVec.ofNat 64 acked) a.id s))))))
  ∧ (∀ (s s1 : State) (r : PeerReq) (n : Nat) (x : Ctx) (t : Trans), s.landing = false → s.susp = .none →
      let found := s.ctxs.find? fun q => q.2.st == .live && q.2.gmask != 0 && q.2.groupId == r.groupId
      let answer (v : PeerRes) (u : State) : State := { u with outbox := u.outbox ++ [.reply r.src r.num v] }
      let w := sizeBytes r.size
      let pa := t.pa + r.ea.toNat % 2 ^ t.sz
      let key := t.pte / 2 ^ 52
      let here (kind : Nat) := found = some (n, x) ∧ bit x.gmask r.src = true ∧ translateHub n r.ea kind true s = (.hit t, s1)
      (found = none → exec (.peerAccessArrive r) s = .next (answer (.failed 5 0) s))
      ∧ (found = some (n, x) → bit x.gmask r.src = false → exec (.peerAccessArrive r) s = .next (answer (.failed 1 0) s))
      ∧ (r.op = .load → here 0 → s1.badAt pa w = none →
          exec (.peerAccessArrive r) s = .next (answer (.done (BitVec.ofNat 64 (s1.memRead pa w key)) false) s1))
      ∧ (r.op = .store → here 1 → s1.badPart pa w = none →
          exec (.peerAccessArrive r) s = .next (answer (.done 0 false) (s1.memWrite 0 pa w r.d.toNat key)))
      ∧ (r.op = .mcst → here 1 → s1.badPart pa w = none →
          exec (.peerAccessArrive r) s = .next (answer (.done 0 false) (s1.memWrite 0 pa w r.d.toNat key)))
      ∧ (∀ op, r.op = .amo op → here 2 → s1.badAt pa w = none →
          let old := s1.memRead pa w key
          exec (.peerAccessArrive r) s = .next (answer (.done (BitVec.ofNat 64 old) false)
            (s1.memWrite 0 pa w (amoNew op w old (r.x.toNat % 2 ^ (8 * w))) key)))
      ∧ (∀ v, r.op = .stat v → here 1 → s1.badPart pa w = none →
        (v.toNat < (s1.dieRt (pa / 2 ^ 36)).toNat →
          exec (.peerAccessArrive r) s = .next (answer (.done 0 true) (s1.memWrite 0 pa w r.d.toNat key)))
        ∧ ((s1.dieRt (pa / 2 ^ 36)).toNat ≤ v.toNat → exec (.peerAccessArrive r) s = .next (answer (.done 0 false) { s1 with
            seq := s1.seq + 1
            held := s1.held ++ [{ id := s1.seq, agent := none, ctx := n, size := r.size, t := v, die := pa / 2 ^ 36
                                  elems := atPlace (.mem pa key) r.ea r.d.toNat }]
            l1 := s1.l1.filter fun q => !overlap q.pa 64 (pa / 256 * 256) 256 })))
      ∧ (r.op = .cas → here 2 → s1.badAt pa w = none →
          let old := s1.memRead pa w key
          exec (.peerAccessArrive r) s = .next (answer (.done (BitVec.ofNat 64 old) false)
            (if old = r.x.toNat % 2 ^ (8 * w) then s1.memWrite 0 pa w r.d.toNat key else s1))))

/-- The copy engine (R143 to R145, R222, R333): a piece of up to 256 bytes of the first command of its task moves from source to
destination, its writes where its class order lets it write, and until then it stays read; the last piece writes the fingerprint, a
difference ends a comparison with its place, and the command then leaves the queue. A task that froze keeps no command from going on that
the engine had begun. -/
def Obligations.CopyPieces : Prop :=
  ∀ (s s1 s2 : State) (site : Nat) (q : CopyCmd) (src dst : List (Loc × Nat)), s.landing = false →
    (siteQueue s site).head? = some q → q.stopped = false → q.out = none → q.buf = none → copyMay s q false = true →
    (match q.agent with | .strand c k _ => (s.slot c k).st ≠ .frozen ∨ q.off ≠ 0 ∨ q.orphan = true | .cond _ => True) →
    let m := min 256 (q.n - q.off)
    let o : Word := BitVec.ofNat 64 q.off
    let last := q.off + m = q.n
    let bytes := readPlaces s2 src
    let there := readPlaces s2 dst
    let sha := if last then shaFinish q.sha bytes q.n else shaPiece q.sha bytes
    let change (f : CopyCmd → CopyCmd) (t : State) : State := mapCopy q.agent (List.map fun r => if r.id = q.id then f r else r) t
    let out (v : Word) (t : State) : State := putAsync q.dst v q.id (mapCopy q.agent (List.filter fun r => r.id != q.id) t)
    let on := change fun r => { r with off := q.off + m, sha := sha, buf := none }
    copyPlaces q.mover q.ctx 6 (pageRuns (q.b + o) m) s = (.ok src, s1) →
    (q.kind = .copy ∨ q.kind = .copyFp → copyPlaces q.mover q.ctx 7 (pageRuns (q.a + o) m) s1 = (.ok dst, s2) →
      badPlaces s2.badAt src = none → badPlaces s2.badPart dst = none →
      let u := (writePlaces q.agent dst bytes s2).oneStore s2.oldWords.length
      (copyMay s2 q true = true → exec (.copyPiece site q.id) s = .next (if last then out (fingerprint sha) u else on u))
      ∧ (copyMay s2 q true = false → exec (.copyPiece site q.id) s = .next (change (fun r => { r with buf := some ⟨bytes, dst, []⟩ }) s2)))
    ∧ (q.kind = .hash → s2 = s1 → badPlaces s1.badAt src = none →
      exec (.copyPiece site q.id) s = .next (if last then out (fingerprint sha) s2 else on s2))
    ∧ (q.kind = .cmp → copyPlaces q.mover q.ctx 6 (pageRuns (q.a + o) m) s1 = (.ok dst, s2) →
      badPlaces s2.badAt src = none → badPlaces s2.badAt dst = none →
      (bytes = there → bytes.length = m → exec (.copyPiece site q.id) s = .next (if last then out 0 s2 else on s2))
      ∧ (∀ i, i < there.length → i < bytes.length → there[i]? ≠ bytes[i]? → (∀ j < i, there[j]? = bytes[j]?) →
          exec (.copyPiece site q.id) s = .next (out (BitVec.ofNat 64 (1 + q.off + i)) s2)))

/-- Results land (R44, R93, R151, R224): at the end of a clk the writes of a cell that are due leave the list of those in flight, and one
that is alone there holds its bytes in the register space; a write that is not due stays; a resumed slate joins the rest. -/
def Obligations.ResultsLand : Prop :=
  ∀ (s : State) (c : Nat) (w : RegWrite), s.landing = true → Memory.wf (s.cell c).regs = true →
    let due (q : RegWrite) : Bool := decide (q.due ≤ s.clk) && !q.resumed
    (∀ t, exec (.resultWriteback c) s = .next t → (t.cell c).wr = (s.cell c).wr.filter fun q => !due q)
    ∧ ((s.cell c).wr = [w] → due w = true → w.len = 8 → ∃ t, exec (.resultWriteback c) s = .next t
        ∧ Memory.readN (t.cell c).regs w.off 8 = w.val % 2 ^ 64
        ∧ (∀ o, o < w.off ∨ w.off + 8 ≤ o → Memory.read o (t.cell c).regs = Memory.read o (s.cell c).regs)
        ∧ (t.cell c).wr = [] ∧ (∀ d, d ≠ c → t.cell d = s.cell d) ∧ t.mem = s.mem ∧ t.accs = s.accs)
    ∧ exec (.slateLanding c) s = .next (s.updCell c fun x =>
        { x with wr := x.wr.map fun q => if q.resumed = true ∧ q.due ≤ s.clk then { q with resumed := false } else q })

/-- Faults after issue and their records (R16, R117, R220, R226, R227): a report becomes a fault of its agent; the oldest record that a
context holds is written, 64 bytes, at the tail of its queue, which moves on; a full queue holds it back; a task that has ended and
has nothing outstanding leaves its slot FREE. -/
def Obligations.FaultsAfterIssue : Prop :=
  ∀ (s s1 : State) (i : Nat) (r : Report) (a : Agent) (before after : List Report) (ctx c k : Nat) (f : FaultRec) (rest : List FaultRec)
    (t : Trans), s.landing = false →
    let info : FaultInfo := { kind := r.kind, code := r.code, fpc := r.fpc, rpc := s.pcOf r.agent, addr := r.addr, aux := r.aux, aux2 := r.aux2, killOnly := r.killOnly }
    let live := match r.agent with | .strand c k _ => (s.slot c k).st ≠ .free | .cond _ => True
    let x := s.ctxOf ctx
    let va := x.fqbase + BitVec.ofNat 64 (64 * (x.fqtail.toNat % 512))
    let pa := t.pa + va.toNat % 2 ^ t.sz
    (s.reports = before ++ r :: after → before.length = i → r.kind = 1 → live →
      exec (.faultReportAfterIssue i) s = .next (takeFault r.agent info { s with reports := before ++ after }))
    ∧ (s.reports = before ++ r :: after → r.agent = a → r.kind = 2 → (∀ q ∈ before, ¬ (q.agent = a ∧ q.kind = 2)) → live →
      exec (.asyncFaultRaise a) s = .next (takeFault r.agent info { s with reports := before ++ after }))
    ∧ (x.held = f :: rest → x.st ≠ .absent → x.blocked = false →
      ((x.fqtail - x.fqhead).toNat < 512 → translateHub ctx va 1 false s = (.hit t, s1) → s1.badPart pa 64 = none →
        exec (.faultRecordWrite ctx) s = .next ((s1.memWrite 0 pa 64 f.toBits (t.pte / 2 ^ 52)).updCtx ctx fun y =>
          { y with held := rest, fqtail := y.fqtail + 1 }))
      ∧ (512 ≤ (x.fqtail - x.fqhead).toNat → exec (.faultRecordWrite ctx) s = .next s))
    ∧ ((s.slot c k).st = .ending → (s.slot c k).freezing = none → taskBusy s c k = false →
      exec (.endingComplete c k) s = .next (countEnded (s.slot c k).recId none (s.updCell c fun y => y.setSlot k {})))
    ∧ ((s.slot c k).st ≠ .ending → exec (.endingComplete c k) s = .next s)

/-- Entries and their fills (R177, R180, R235 to R239, R244, R245): an allocation that waits takes its ways and frames and removes its
victims; one with no way or no frames for 10,000 clk among pinned entries raises PIN_EXHAUSTION; the scan for frames moves on four
tags; an entry that the earliest ready allocation has picked is spilled: it is written to memory, its bytes leave the Lens and its tag
stays; a read-back, where it is the drain engine's earliest ready command, gives an entry a way and its bytes again, by a
fill where it was published since (log entries 19 and 56); a fill that its home has been asked for resolves its version from a holder,
from memory, which waits for no drain to be in progress, or from another member, which is sent a request; and granules that it has not
landed land, up to eight in one clk. -/
def Obligations.LensEntriesAndFills : Prop :=
  ∀ (s : State) (c id : Nat) (e : Entry), (s.cell c).entry id = some e →
    let x := s.cell c
    let set (f : Entry → Entry) (t : State) : State := t.updCell c fun y => { y with lens := updFirst (fun g => g.id == id) f y.lens }
    let idle (r : Nat) := Tab.get 0 r x.handClk ≠ s.clk + 1
    let stopped := x.ops.any (fun o => o.reported && o.cmd.binds.contains id) = true
    let r := verRec s e.key
    (∀ o t d produce want ver b way sway vic, idle 0 → firstOp (allocReady s c) x.ops = some o → o.cmd = .alloc id t d produce want ver b →
      allocTry s c t d = .ok way sway vic →
      exec (.lensAllocate c id) s = .next (take c 0 (dropOp c o (placeEntry c id way sway vic produce s))))
    ∧ (∀ o t d produce want ver b, x.ops.find? (fun o => match o.cmd with | .alloc g _ _ _ _ _ _ => g == id | _ => false) = some o →
      o.cmd = .alloc id t d produce want ver b → o.st = .parked → o.reported = false →
      let raised (v : Nat) : State := report { agent := .strand c o.slot o.k, kind := 2, code := 0x15, fpc := o.fpc, addr := 0
                                               aux := BitVec.ofNat 64 v, aux2 := 0 }
        (s.updCell c fun y => { y with ops := y.ops.map fun p => if p = o then { p with reported := true, pinnedFor := 0 } else p })
      (∀ v, allocTry s c t d = .noWay v → 10000 ≤ o.pinnedFor → exec (.pinExhaustion c id) s = .next (raised v))
      ∧ (∀ v, allocTry s c t d = .noFrames v → 10000 ≤ o.pinnedFor → exec (.pinExhaustion c id) s = .next (raised (v + 256)))
      ∧ (o.pinnedFor < 10000 → exec (.pinExhaustion c id) s = .next s))
    ∧ (s.landing = true → x.scanLeft ≠ 0 →
      (framesWanted s c = false → exec (.frameScan c) s = .next s)
      ∧ (framesWanted s c = true → 4 ≤ x.scanLeft → (∀ i < 4, x.occupant ((x.scanPtr + i) % 4096) = none) →
          exec (.frameScan c) s = .next (s.updCell c fun y =>
            { y with scanPtr := (x.scanPtr + 4) % 4096, scanLeft := x.scanLeft - 4 })))
    ∧ (∀ o g t d produce want ver b u v, idle 0 → firstOp (allocReady s c) x.ops = some o → o.cmd = .alloc g t d produce want ver b →
      allocTry s c t d = .spill id → writeEntry c (.strand c e.slot .S) e [] s = (.ok u, v) →
      exec (.spill c id) s = .next (take c 0 ((set (fun g => { g with st := .spilled, data := [], scale := [] }) u).updCell c fun y =>
        { y with scanLeft := 4096 })))
    ∧ (∀ o way sway vic, idle 1 → drainNext s c = some o → drainReady s c o = false → readBackOf s c o = some e →
      seatTry s c e = .ok way sway vic →
      let seated := seatEntry c id way sway vic s
      (∀ u, e.frameless = false →
        readBack (spillBy c e s) id e.desc e.coord (granulesOf e.desc) (set (fun g => { g with st := .producing }) seated) = (.ok (), u) →
        exec (.spillReadback c id) s = .next (take c 1 u))
      ∧ (e.frameless = true → exec (.spillReadback c id) s = .next (take c 1 (seated.updCell c fun y => y.refill id (some e.ver)))))
    ∧ (∀ o, drainNext s c = some o → (drainReady s c o = true ∨ ∀ f, readBackOf s c o = some f → f.id ≠ id) →
        exec (.spillReadback c id) s = .next s)
    ∧ (∀ pa s1, e.st = .filling → e.src = .waiting → ¬ stopped → e.resolved = false → (∀ n, e.want = some n → verGe r.pub n = true) →
      homePa (fillBy c e s) e.key e.desc 4 s = (.ok pa, s1) →
      let u := set (fun y => { y with home := pa }) s1
      let holder := holderFor u e.key (Desc.vscope e.desc) e.want (some (c / 16)) (c, id)
      (∀ h, holder = some h → ∀ rem, exec (.fillResolve c id rem) s = .next
          (serveDir e.key (fun v => v) (set (fun y => { y with src := .asked h.cell h.eid, ver := h.ver }) u)))
      ∧ (holder = none → r.src = s.selfIdx ∨ Desc.vscope e.desc ≠ 3 →
          (r.draining = false → ∀ rem, exec (.fillResolve c id rem) s = .next
            { set (fun y => { y with src := .memory, ver := r.pub, resolved := true }) u with fillReads := u.fillReads ++ [⟨e.key, c, id⟩] })
          ∧ (r.draining = true → ∀ rem, exec (.fillResolve c id rem) s = .next u))
      ∧ (holder = none → r.src ≠ s.selfIdx → Desc.vscope e.desc = 3 → u.mirHold = false → u.susp = .none → u.selfIdx = s.selfIdx →
          ∀ rem, exec (.fillResolve c id rem) s = .next { set (fun y => { y with src := .member }) u with
            outbox := u.outbox ++ [.request r.src
              { src := s.selfIdx, num := id, groupId := (u.ctxOf e.ctx).groupId, ea := tileHome e.desc e.coord
                op := .tile e.tid e.coord e.desc e.want, size := 0, cls := 0, qual := 0, x := 0, d := 0 }] }))
    ∧ (e.st = .filling → e.src = .member →
      (∀ m, verMeets e.want r.pub m.ver = true → exec (.fillResolve c id (some m)) s = .next (set (fun y =>
        { y with src := .remote (Memory.writeL [] 0 m.data) (Memory.writeL [] 0 m.scale), ver := m.ver % 2 ^ 24, resolved := true }) s))
      ∧ exec (.fillResolve c id none) s = .next (set (fun y => { y with src := .waiting }) s))
    ∧ (∀ c' e' g, e.src = .asked c' e' → (s.cell c').entry e' = some g → g.st = .clean → g.frameless = false → g.ver = e.ver →
      exec (.lensTransferServe c id) s = .next (set (fun y => { y with src := .lens g.data g.scale, resolved := true }) s))
    ∧ (∀ c' e', e.src = .asked c' e' → (s.cell c').entry e' = none → exec (.lensTransferServe c id) s = .next
        (serveDir e.key (fun v => { v with holders := v.holders.filter fun h => !(h.cell == c' && h.eid == e') })
          (set (fun y => { y with src := .waiting }) s)))
    ∧ (∀ g data scale, s.landing = false → idle 3 → e.st = .filling → e.resolved = true → ¬ stopped → e.src = .lens data scale →
      g < Desc.tileBytes e.desc / 16 → Desc.tsize e.desc ≤ 4 → e.hasLanded g = false → x.lensWr = [] →
      exec (.fillGranuleLand c id [g]) s = .next ((take c 3 s).updCell c fun y => { y with lensWr := y.lensWr ++
        [{ seq := id / 4, slot := e.slot, k := .S, eid := id, due := s.clk, parts := [(16 * g, 16, Memory.readN data (16 * g) 16)] }] }))

/-- Publication at a tile's home (R25, R186 to R188, R240 to R247): a drain is granted once no fill reads the tile and the version is newer,
and an older one is refused; the entry's bytes are then written, its version is published, its entry is CLEAN, one that was spilled with its
bytes left in memory, and the operands of the TDRAIN are consumed. That a refused publication ends its operation is the model's reading: log
entry 18.

The same of posts, releases and notices, which have no entry (R187, R188, R241, R246, R247): a post waits for its strand's earlier
accesses and publishes a newer version, an older one is refused; a release is kept where it is newer; a notice of a member of the
context's group sets the version and the source of the tile's record where it is newer, of a record at the tile's home where the tile has
none (log entries 18, 19 and 66), and changes nothing otherwise. -/
def Obligations.TileVersions : Prop :=
  (∀ (s : State) (c id eid hint : Nat) (o : LensOp) (e : Entry), (s.cell c).opBy id isDrain = some o → o.cmd = .drain eid hint →
      (s.cell c).entry eid = some e → o.reported = false →
      let r := verRec s e.key
      let mine (f : LensOp → LensOp) (t : State) : State := t.updCell c fun y => { y with ops := updFirst (fun p => p.seq == id) f y.ops }
      let gone (t : State) : State := t.updCell c fun y => { y with ops := y.ops.filter fun p => p != o }
      let refused (aux : Nat) (t : State) : State := if 8 ≤ o.slot then gone t else
        report { agent := .strand c o.slot o.k, kind := 1, code := 0x14, fpc := o.fpc, addr := 0, aux := BitVec.ofNat 64 aux, aux2 := 0 } (gone t)
      (o.st = .active → r.draining = false → (Desc.sq e.desc = true → verGe r.rel ((e.ver + 2 ^ 24 - 1) % 2 ^ 24) = true) →
        (verNewer e.ver r.pub = false → exec (.drainGrant c id) s = .next (refused 4 s))
        ∧ (verNewer e.ver r.pub = true → (∃ q ∈ s.fillReads, q.tile = e.key) → exec (.drainGrant c id) s = .next s)
        ∧ (∀ pa u, verNewer e.ver r.pub = true → (∀ q ∈ s.fillReads, q.tile ≠ e.key) →
            homePa (drainFor c (.strand c o.slot o.k) e.ctx) e.key e.desc 5 s = (.ok pa, u) →
            let stack := pa / 2 ^ 36
            (storeRoom u e.key stack = false → exec (.drainGrant c id) s = .next (refused 5 u))
            ∧ (storeRoom u e.key stack = true → e.st ≠ .spilled → exec (.drainGrant c id) s = .next
                (mine (fun p => if p = o then { p with st := .granted } else p)
                  (updEntry c eid (fun g => { g with home := pa, st := .draining }) (updVer e.key stack (fun v => { v with draining := true }) u))))))
      ∧ (o.st = .granted → earlierDone s c o = true →
        let hinted (t : State) : State := if hint = 2 ∨ hint = 3 ∨ hint = 4 then applyHint c o.slot eid hint t else t
        let consumed (t : State) : State := if 8 ≤ o.slot then t else consumedNext c o.slot o.seq t.clk t
        let done (t : State) : State := gone (consumed (hinted t))
        let clean (t : State) : State := updEntry c eid (fun g => { g with st := .clean, published := true, frameless := g.st == .spilled }) t
        (∀ u w, e.st ≠ .spilled → writeEntry c (.strand c o.slot o.k) e o.done s = (.ok u, w) →
          let v := clean (publish e.key e.desc (verRec u e.key).stack e.ver u)
          exec (.drainPublish c id) s = .next (done (if e.allFull then addHolder e.key e.home c eid e.ver v else v)))
        ∧ (e.st = .spilled → exec (.drainPublish c id) s = .next (done (clean (publish e.key e.desc r.stack e.ver s))))))
  ∧ (∀ (s u : State) (c id v pa ctx : Nat) (o : LensOp) (t : TileKey) (d : Desc) (n : VerNotice) (x : Ctx), o.reported = false →
      let gone (w : State) : State := w.updCell c fun y => { y with ops := y.ops.filter fun p => p != o }
      let r := verRec s t
      let stack := pa / 2 ^ 36
      let asker : Requester := { cell := c, slot := o.slot, ctx := t.ctx, stream := dataStream o.k }
      (findOp s id (fun m => match m with | .tpost _ _ _ => true | _ => false) = some (c, o) → o.cmd = .tpost t d v → earlierDone s c o = true →
        homePa asker t d 5 s = (.ok pa, u) → storeRoom u t stack = true →
        (verNewer v r.pub = true →
          exec (.tpostPublication id) s = .next (updVer t stack (fun w => { w with draining := (verRec u t).draining }) (publish t d stack v (gone u))))
        ∧ (verNewer v r.pub = false → o.slot < 8 → exec (.tpostPublication id) s = .next
            (report { agent := .strand c o.slot o.k, kind := 1, code := 0x14, fpc := o.fpc, addr := 0, aux := 4, aux2 := 0 } (gone s))))
      ∧ (findOp s id (fun m => match m with | .tqrel _ _ _ => true | _ => false) = some (c, o) → o.cmd = .tqrel t d v →
        homePa asker t d 4 s = (.ok pa, u) →
        (verNewer v (verRec u t).rel = true → exec (.tqrelRecord id) s = .next (gone (updVer t stack (fun w => { w with rel := v }) u)))
        ∧ (verNewer v (verRec u t).rel = false → exec (.tqrelRecord id) s = .next (gone u)))
      ∧ (s.ctxs.find? (fun y => y.2.st == .live && y.2.gmask != 0 && y.2.groupId == n.groupId) = some (ctx, x) →
        let k : TileKey := ⟨ctx, n.tid, n.coord⟩
        let noted (at_ : Nat) (w : State) : State := updVer k at_ (fun w => { w with pub := n.ver % 2 ^ 24, src := n.sender }) w
        (verNewer n.ver (verRec s k).pub = true → x.vers.any (fun w => w.tile == k) = true →
          exec (.versionNotice n) s = .next (noted (verRec s k).stack s))
        ∧ (∀ tr w, verNewer n.ver (verRec s k).pub = true → x.vers.any (fun w => w.tile == k) = false → translateHub ctx n.va 0 true s = (.hit tr, w) →
          exec (.versionNotice n) s = .next (noted (tr.phys n.va / 2 ^ 36) w))
        ∧ (verNewer n.ver (verRec s k).pub = false → exec (.versionNotice n) s = .next s)))

/-- The replay queue goes on and the array works (R177, R195 to R201, R239): at the end of a clk a waiting TST whose entry has its frames
lands 2 clk after the next one; the array accepts the earliest matrix operation that is ready, with clk t + 1 as its start; in clk
start + 39 + D + i it reads row i and puts its write in flight for the next clk; ACLR and AMOV move one row in a clk. -/
def Obligations.ArrayRows : Prop :=
  ∀ (s : State) (c : Nat) (o : LensOp) (m : MmaOp) (ea eb : Entry) (r : RowOp) (d : MmaData) (acc src i : Nat), s.landing = true →
    let x := s.cell c
    let gone (t : State) : State := t.updCell c fun y => { y with ops := y.ops.filter fun p => p != o }
    let D := m.klen / (if m.types ≤ 1 then 1 else if m.types = 7 ∨ m.types = 9 then 4 else 2)
    let rows := if m.mode = 2 then 128 else m.m
    let row (a j : Nat) : Nat := Memory.readN x.regs (a + 512 * j) 512
    let write (a due mask v : Nat) : RegWrite :=
      { seq := r.seq, slot := r.slot, k := r.k, engine := true, interlock := false, slate := false, due := due, off := a + 512 * r.row
        len := 512, mask := mask, val := v }
    let after (n : Nat) (q : RowOp) : List RowOp := if r.row + 1 = n then [] else [q]
    (firstOp (mmaReady s c (s.clk + 1)) x.ops = some o → o.cmd = .mma m → mmaBad s c m = none → x.entry m.eidA = some ea →
      x.entry m.eidB = some eb →
      exec (.mmaAccept c) s = .next ((gone s).updCell c fun y =>
        { y with lastAccept := some (s.clk + 1, D)
                 rows := y.rows ++ [{ seq := o.seq, slot := o.slot, k := o.k, start := s.clk + 1, kind := .mma m (mmaCapture m ea eb), fpc := o.fpc }] }))
    ∧ (firstOp (mmaReady s c (s.clk + 1)) x.ops = none → exec (.mmaAccept c) s = .next s)
    ∧ (x.rows = [r] → r.kind = .mma m d → r.row = i → s.clk = r.start + 39 + D + i →
      let cin := if m.mode = 1 ∨ rows = 0 then 0 else row (if m.mode = 2 then m.accB else m.accD) i
      exec (.arrayRowWrite c) s = .next (s.updCell c fun y =>
        { y with wr := y.wr ++ [write m.accD (s.clk + 1) (if m.mode = 2 then 2 ^ 128 - 1 else 2 ^ m.n - 1) (mmaRow m d i cin).2]
                 rows := after rows { r with consumed := true, row := i + 1 } }))
    ∧ (x.rows = [r] → r.kind = .mma m d → s.clk < r.start + D → exec (.arrayRowWrite c) s = .next (s.updCell c fun y => y))
    ∧ (∀ j < 128, laneOf (mmaRow m d i 0).2 j = if i < m.m ∧ j < m.n then mmaElem m d i j 0 % 2 ^ 32 else 0)
    ∧ (x.rows = [r] → r.kind = .aclr acc → r.row = i → r.start + i ≤ s.clk →
      exec (.accumRowWrite c) s = .next (s.updCell c fun y =>
        { y with wr := y.wr ++ [write acc (r.start + 2 + i) (2 ^ 128 - 1) 0], rows := after 128 { r with row := i + 1 } }))
    ∧ (x.rows = [r] → r.kind = .amov acc src → r.row = i → r.start + i ≤ s.clk → s.err.badRegs = [] →
      exec (.accumRowWrite c) s = .next (s.updCell c fun y =>
        { y with wr := y.wr ++ [write acc (r.start + 2 + i) (2 ^ 128 - 1) (row src i)], rows := after 128 { r with row := i + 1 } }))
    ∧ (∀ n rnd nan asInt, x.rows = [r] → r.kind = .adrn acc m.eidA m.m n rnd nan asInt → r.row = i → r.start + i ≤ s.clk → s.err.badRegs = [] → x.entry m.eidA = some ea →
      exec (.accumRowWrite c) s = .next (s.updCell c fun y =>
        { y with lensWr := y.lensWr ++ [{ seq := r.seq, slot := r.slot, k := r.k, eid := m.eidA, due := r.start + 6 + i
                                          parts := adrnParts ea n rnd nan asInt i (row acc i) }]
                 rows := after m.m { r with row := i + 1 } }))
    ∧ (∀ off v, x.ops = [o] → o.cmd = .tst m.eidA off v → o.st = .parked → x.entry m.eidA = some ea → ea.here = true →
      (s.slot c o.slot).st ≠ .frozen → x.lens.all (fun e => !e.away) = true →
      exec (.replayHandoff c) s = .next ((gone s).updCell c fun y => { y with lensWr := y.lensWr ++
        [{ seq := o.seq, slot := o.slot, k := o.k, eid := m.eidA, due := s.clk + 3
           parts := (List.range 16).map fun j => (off + 16 * j, 16, v / 256 ^ (16 * j) % 256 ^ 16) }] }))

/-- From a launch to a running task (R16, R205, R272 to R279, R284, R287): a chain that passes its checks and has room is accepted under
the context's next launch number, a failing one is refused with its code; a die asks for a block, and from the next clk on the asking
dies are served in order of arrival with blocks in rising order; a cell hands one position to its lowest FREE slot; a die walker that
takes its turn places one position at the end of the clk, after the hand-offs and the answers to steals of that clk; at the end of the
clk in which the task enters RUN the loop values and the position are written; a lockstep round gives its members the next positions in
one clk; a path with entries gets a sweep task by the cell's one hand-off. The order of records at a walker and of a sweep among the
hand-offs is the model's reading: log entries 24 and 57. -/
def Obligations.FromLaunchToTask : Prop :=
  ∀ (s u : State) (a : Acc) (recs : List (Word × Nat)) (r : Rec) (c k p code clk die path : Nat) (rest : List Nat) (f : Nat → Nat),
    s.landing = false →
    let settled : State := { u with chains := u.chains.filter fun q => q.id != a.id }
    let blk := r.raw / 256 ^ 0xC8 % 256 ^ 8 / 2 ^ 52
    let held := Tab.get [] die r.dealt
    let hand (j : Nat) (t : State) : State := if viewsOk r.raw k then startTask c k j false r t else refuseViews c k j r t
    let y := s.slot c k
    let base := y.sview.toNat / 2 ^ 9 % 2 ^ 13 * 512
    (s.acc a.id = some a → a.kind = .launch → mayPerform s a = true → travelled s a .home = true → accBad s a = none → launchChain a s = ((recs, none), u) →
      (chainCode u (u.ctxOf a.ctx) none (recs.map (·.2)) none = none → (u.ctxOf a.ctx).st = .live →
        (openRecs u a.ctx).length + recs.length ≤ 64 →
        exec (.launchAccept a.id) s = .next (finishAcc a (deliver a.dst (((u.ctxOf a.ctx).launches + 1).setWidth 64) a.id
          (acceptChain a.ctx recs none settled).2)))
      ∧ (chainCode u (u.ctxOf a.ctx) none (recs.map (·.2)) none = some code → a.orphan = false →
        exec (.launchAccept a.id) s = .next (finishAcc a (losePush a.agent a.id (report
          { agent := a.agent, kind := 1, code := 0x16, fpc := a.fpc, addr := a.x, aux := BitVec.ofNat 64 code, aux2 := 0 } settled)))))
    ∧ (s.recOf r.id = some r → recLock r.raw = false → die ∈ recDies s r.cmask → (∀ i ∈ held, ∀ j ∈ held, i / blk = j / blk) →
      r.nextBlock * blk < r.total →
      (r.asked.find? (fun q => q.2 == die) = none → exec (.blockRequest r.id die) s = .next
        (updRec r.id (fun q => { q with asked := q.asked ++ [(s.clk, die)] }) s))
      ∧ (∀ ask, r.asked.find? (fun q => q.2 == die) = some ask → ask.1 < s.clk →
        (∀ q ∈ r.asked, ask.1 < q.1 ∨ (ask.1 = q.1 ∧ ask.2 ≤ q.2)) →
        exec (.blockRequest r.id die) s = .next (updRec r.id (fun q =>
          { q with nextBlock := r.nextBlock + 1
                   dealt := Tab.set die (held ++ (List.range (min blk (r.total - r.nextBlock * blk))).map (r.nextBlock * blk + ·)) r.dealt
                   asked := q.asked.filter fun o => o != ask }) s)))
    ∧ (die < 8 → exec (.dieWalkerPlace die) s = .next (take (16 * die) 5 s))
    ∧ (walkerRecord s die = some (r, c) → held = p :: rest →
      let placed := pushIter c r.id p s.clk (updRec r.id (fun q => { q with dealt := Tab.set die rest q.dealt }) s)
      ((∀ i < 16, handsFirst s (16 * die + i) r.id = false) → placeNext die s = placed)
      ∧ ((∃ i < 16, handsFirst s (16 * die + i) r.id = true) → placeNext die s = s))
    ∧ ((∀ q ∈ s.cells, q.2.steal = none) → die < 8 → (∀ d < 8, took s (16 * d) 5 = decide (d = die)) → settleQueues s = placeNext die s)
    ∧ (freeSlot s c = some k → chooseHead s c k = some (r, p, clk) → took s c 4 = false →
      sweepPrio s c k ≤ recPrio r.raw + 1 →
      exec (.taskHandoff c) s = .next (hand p (take c 4 (popIter c r.id s))))
    ∧ (y.st = .preload → y.lock = false → y.freezing = none → y.sweep = false → s.recOf y.recId = some r →
      ∃ t, exec (.preloadComplete c k) s = .next t ∧ (t.slot c k).st = .run ∧ (t.cell c).regs = (s.cell c).regs
        ∧ (∀ j < 7, ∃ w ∈ (t.cell c).wr, w.due = s.clk ∧ w.off = base + 8 * (j + 1) ∧ w.len = 8
            ∧ w.val = if j < 6 then (preloads r.raw y.pos).getD j 0 else y.pos))
    ∧ (∀ raw c0 c1, recNloop raw = 2 → recPerm raw 0 = 0 → recPerm raw 1 = 1 → (loopOf raw 0).count = c0 → (loopOf raw 1).count = c1 →
      p < c0 * c1 →
      (recOrder raw = 0 → counters raw p = [p / c1, p % c1, 0, 0, 0, 0])
      ∧ (recOrder raw = 1 → counters raw p = [p / c1, if p / c1 % 2 = 1 then c1 - 1 - p % c1 else p % c1, 0, 0, 0, 0]))
    ∧ (s.recOf r.id = some r → recLock r.raw = true → r.lockNext < r.total →
      let members := (setBits 128 r.cmask).filter fun c => !bit s.err.fencedCells c
      members ≠ [] → (∀ m ∈ members, freeSlot s m = some (f m) ∧ headReady s m (f m) r = true ∧ viewsOk r.raw (f m) = true) →
      let given := (members.zip (List.range members.length)).filter fun q => decide (r.lockNext + q.2 < r.total)
      exec (.lockstepRound r.id) s = .next (updRec r.id (fun q => { q with lockNext := q.lockNext + given.length })
        (given.foldl (fun t q => startTask q.1 (f q.1) (r.lockNext + q.2) false { r with round := r.round + 1 } t)
          (updRec r.id (fun q => { q with round := q.round + 1 }) s))))
    ∧ (s.recOf r.id = some r → freeSlot s c = some k → recSweep r.raw = true → bit r.cmask c = true → allPlaced s r = true → path < 8 →
      (∀ q ∈ (s.cell c).slots, q.2.st = .free ∨ q.2.recId ≠ r.id ∨ q.2.sweep = true) → pathHolds (s.cell c) r.ctx path = true →
      sweepRuns s c r path = false → (∀ t ∈ savedOn s c r, t.sweep = true) →
      (∀ j < path, pathHolds (s.cell c) r.ctx j = true → sweepRuns s c r j = true) →
      viewsOk r.raw k = true → headReady s c k r = true → took s c 4 = false → (∀ j ≤ path, r.unswept.contains (c, j) = false) →
      (∀ h, chooseHead s c k = some h → recPrio h.1.raw ≤ recPrio r.raw) → sweepPrio s c k ≤ recPrio r.raw + 1 →
      exec (.deferralSweepHandoff c r.id path) s = .next (take c 4 (startTask c k path true r s)))

/-- Stealing, completion and the scrub of a region (R280 to R282, R295, R407): an idle cell asks the victim that its die's generator
gives; the victim that the request has reached gives up its tail entry at the end of the clk, after a hand-off from that queue in the
same clk, or fails; the entry joins the asking cell's queue where that has room; a failure counts to four and then one request crosses dies; a record that has ended
writes its status word, increments its semaphore and leaves; a failing write is recorded and the record waits; a region of a
context with no task in the cell is set to zero, 1 KiB in a clk. -/
def Obligations.StealingAndCompletion : Prop :=
  ∀ (s t u : State) (c v k : Nat) (q : Rec) (st : Steal) (iq : IterQ) (p clk : Nat) (ents : List (Nat × Nat)) (w w' : State) (code : Nat)
    (cause : Word), s.landing = false →
    let x := s.cell c
    let d := c / 16
    let seed := (s.ctxOf q.ctx).stealSeed ^^^ BitVec.ofNat 32 d
    let l := Tab.get (if seed = 0 then 1 else seed) d (s.ctxOf q.ctx).steal
    let l' : BitVec 32 := if l.toNat % 2 = 1 then (l >>> 1) ^^^ 0x80200003#32 else l >>> 1
    let fails (n : Nat) := Tab.get 0 n x.fails
    let cand := (setBits 128 q.cmask).filter fun m => m != c && ((m / 16 == d) == decide (fails q.id < 4))
    let settle (n : Nat) (z : State) : State := z.updCell c fun y => { y with steal := none, fails := Tab.set st.rid n y.fails }
    let ans (got : Option Nat) (z : State) : State := z.updCell c fun y => { y with steal := some { st with answered := true, got := got } }
    (s.recOf q.id = some q → idleFor s c q = true → x.steal = none → (∀ n, x.stealClk = some n → n + 32 ≤ s.clk) →
      exec (.stealRequest c q.id) s = .next ((s.updCtx q.ctx fun y => { y with steal := Tab.set d l' y.steal }).updCell c fun y =>
        { y with steal := some { rid := q.id, victim := if cand = [] then none else cand[l'.toNat % cand.length]? }, stealClk := some s.clk }))
    ∧ (x.steal = some st → exec (.stealAnswer c) s = .next (s.updCell c fun y => { y with steal := some { st with arrived := true } }))
    ∧ (x.steal = some st → st.arrived = true → st.answered = false → st.victim = some v →
      (s.cell v).iterqs.find? (fun y => y.rid == st.rid) = some iq →
      (handsFirst s v st.rid = true → answerSteal c s = s)
      ∧ (handsFirst s v st.rid = false →
        (iq.ents = ents ++ [(p, clk)] → answerSteal c s = ans (some p) (s.updCell v fun y =>
          { y with iterqs := y.iterqs.map fun (z : IterQ) => if z.rid = st.rid then { z with ents := z.ents.dropLast } else z }))
        ∧ (iq.ents = [] → answerSteal c s = ans none s)))
    ∧ (x.steal = some st → st.answered = true →
      let room := (match x.iterqs.find? fun y => y.rid == st.rid with | some y => y.ents.length | none => if x.iterqs.length < 8 then 0 else 4) < 4
      (∀ n, st.got = some n → bit s.err.fencedCells c = false → room → exec (.stealReply c) s = .next (settle 0 (pushIter c st.rid n s.clk s)))
      ∧ (∀ n, st.got = some n → bit s.err.fencedCells c = false → ¬ room → exec (.stealReply c) s = .next s)
      ∧ (st.got = none → exec (.stealReply c) s = .next (settle (if fails st.rid < 4 then fails st.rid + 1 else 0) s)))
    ∧ (s.recOf q.id = some q → q.stuck = false → (s.ctxOf q.ctx).st = .live → q.total ≤ q.handed → q.live = 0 → sweepDone s q = true →
      q.phase = .running →
      let last := if (openRecs s q.ctx).length = 1 then discardDeferred q.ctx s else (s, 0)
      let r (ph : RecPhase) : Rec := { q with defdrop := q.defdrop + last.2, phase := ph }
      let status := min q.failed 0xFFFFFFFF * 2 ^ 32 + min (q.defdrop + last.2) 0xFFFF * 2 ^ 16 + q.first % 2 ^ 16
      let before := if recCstat q.raw = 0 then updRec q.id (fun _ => r .addSem) last.1 else updRec q.id (fun _ => r .addSem) t
      (recCstat q.raw ≠ 0 → hubStore q.ctx (recCstat q.raw) 8 status (updRec q.id (fun _ => r .writeStat) last.1) = (.ok t, w)) →
      (hubAdd q.ctx (recCsem q.raw) 1 false before = (.ok u, w') → exec (.recordComplete q.id) s = .next (finishRec (r .addSem) u))
      ∧ (hubAdd q.ctx (recCsem q.raw) 1 false before = (.error (code, cause), u) → exec (.recordComplete q.id) s = .next
          (holdRecord q.ctx 0 0 .S false { kind := 3, code := code, fpc := 0, rpc := 0, addr := recCsem q.raw, aux := cause, aux2 := q.addr }
            (updRec q.id (fun z => { z with stuck := true }) u))))
    ∧ (took s c 6 = false →
      (x.scrub = some k ∨ (x.scrub = none ∧ k % 64 = 0 ∧ k < 4096 ∧ Tab.get 0 (k / 64) x.tags ≠ 0 ∧ s.dieqs = []
        ∧ ∀ y ∈ x.slots, y.2.st = .free ∨ y.2.ctx + 1 ≠ Tab.get 0 (k / 64) x.tags)) →
      exec (.registerRegionScrub c (k / 64)) s = .next (take c 6
        ({ s with err := { s.err with badRegs := s.err.badRegs.filter fun b => !(b.1 == c && 128 * k ≤ b.2 && b.2 < 128 * k + 128) } }.updCell c fun y =>
          { y with regs := y.regs.filter fun b => decide (b.1 < 1024 * k ∨ 1024 * k + 1024 ≤ b.1)
                   scrub := if k % 64 = 63 then none else some (k + 1)
                   tags := if k % 64 = 63 then Tab.del (k / 64) y.tags else y.tags })))

/-- Host commands (R291 to R293, R297, R343, R344, R347, R376, R377, R391, R395, R397 to R399): the record at the head of the ring is
taken in its turn; a launch goes to the inbox of a conductor, CREATE makes the context that its descriptor describes, DESTROY lets it
die, the Mirror is prepared and committed, with the packets that waited for it, an image is copied into the inactive bank and made pending, and a suspend or a resume is
armed; a refusal has its cause in an event. A context that has died leaves nothing behind, and its number is free. The order of the
checks of a descriptor is log entry 23, what it leaves unsaid entry 25, and the order of an image's checks entry 26; a byte of an image
that lies outside HBM4 or cannot be read is free (entry 4). -/
def Obligations.HostCommands : Prop :=
  (∀ (s : State) (c : HostCmd) (n connected seed o : Nat) (lhkey : Word), hubTakes s = true → s.host.cmdtail ≠ s.host.cmdhead →
    Memory.readN s.host.hmem ((s.host.cmdbase.toNat + 64 * (s.host.cmdhead.toNat % s.host.cmdsize.toNat)) % 2 ^ 64) 64 % 2 ^ 384
      = c.hseq.toNat + c.ctxid * 2 ^ 64 + c.opc * 2 ^ 96 + c.mustBeZero * 2 ^ 104 + c.addr.toNat * 2 ^ 128 + c.arg0.toNat * 2 ^ 192
        + c.arg1.toNat * 2 ^ 256 + c.arg2.toNat * 2 ^ 320 → c.ctxid < 2 ^ 32 → c.opc < 2 ^ 8 → c.mustBeZero < 2 ^ 24 →
    let num := c.ctxid / 2 ^ 16 % 2 ^ 6
    let x := s.ctxOf num
    let pa := c.addr.toNat
    let dropped : State := { s with host := { s.host with cmdhead := s.host.cmdhead + 1 } }
    let taken : State := { s with host := { s.host with cmdhead := s.host.cmdhead + 1, hseqlast := c.hseq } }
    let refused (cause detail : Nat) : State := hostEvent 0 0x01 c.hseq (BitVec.ofNat 64 cause) (BitVec.ofNat 64 detail) 0 0 taken
    let feature (i : Nat) := s.host.go = true ∧ bit (Tab.get 0 0 s.host.feata).toNat i = true
    let lead := s.rt.toNat + 4000000 ≤ c.arg1.toNat
    let isKnown := x.st ≠ .absent ∧ x.asid = c.ctxid % 2 ^ 16
    (c.hseq ≠ s.host.hseqlast + 1 → exec .destroy s = .next (hostEvent 0 0x01 c.hseq 1 0 0 0 dropped))
    ∧ (c.hseq = s.host.hseqlast + 1 → c.opc = 0 ∨ 7 < c.opc → exec .hostLaunch s = .next (refused 2 0))
    ∧ (c.hseq = s.host.hseqlast + 1 → cmdZeroOk c = true →
      (c.opc = 1 →
        (x.st = .live → x.asid = c.ctxid % 2 ^ 16 → inboxFor s x = some n →
          let t := (s.condOf n).litail.toNat
          let record := c.hseq.toNat + c.ctxid % 2 ^ 32 * 2 ^ 64 + c.addr.toNat * 2 ^ 128 + c.arg0.toNat * 2 ^ 192 + c.arg1.toNat * 2 ^ 256
          exec .hostLaunch s = .next (bufferChain num c.addr (taken.updCond n fun y =>
            { y with dmem := Memory.writeN (Memory.writeN y.dmem (64 * (t % 64)) 64 record) 0x1008 8 (t + 1) })))
        ∧ (x.st ≠ .live ∨ x.asid ≠ c.ctxid % 2 ^ 16 → exec .hostLaunch s = .next (refused 4 0)))
      ∧ (c.opc = 2 →
        (x.st ≠ .absent → exec (.create lhkey seed) s = .next (refused 4 0))
        ∧ (x.st = .absent → s.err.failedState = true → exec (.create lhkey seed) s = .next (refused 8 0))
        ∧ (x.st = .absent → s.err.failedState = false → pa % 64 = 0 → hbmWhole s pa 128 = true → s.badAt pa 128 = none →
          let d := s.memRead pa 128 0
          let y := ctxOfDesc d lhkey seed
          let needs := (y.rdcsz ≠ 0 → feature 5) ∧ (y.prism = true → feature 1)
          (¬ needs → exec (.create lhkey seed) s = .next (refused 3 0)) ∧ (needs → y.asid = c.ctxid % 2 ^ 16 →
          let made : State := { taken with ctxs := Tab.set num y s.ctxs }
          (dscRefused s d = none → exec (.create lhkey seed) s = .next (hostEvent 0 0x02 c.hseq (BitVec.ofNat 64 num) 0 0 0
            (if y.prism then joinPrism made else made)))
          ∧ (dscRefused s d = some o → exec (.create lhkey seed) s = .next (refused 5 o)))))
      ∧ (c.opc = 3 → (isKnown → x.st ≠ .dying →
            exec .destroy s = .next (beginDying num (taken.updCtx num fun x => { x with destroyed := c.hseq })))
          ∧ (isKnown → x.st = .dying → exec .destroy s = .next taken) ∧ (¬ isKnown → exec .destroy s = .next (refused 4 0)))
      ∧ (c.opc = 4 →
        let held (h : HostIf) : State := { s with
          mirHold := true, time := { s.time with pausedAt := some (s.time.pausedAt.getD s.rt) }, host := h }
        (feature 2 → unanswered s = [] →
          exec .mirprep s = .next (hostEvent 0 0x04 c.hseq 0 0 0 0 (held { taken.host with mirDrain := none })))
        ∧ (feature 2 → unanswered s ≠ [] → exec .mirprep s = .next (held { s.host with mirDrain := some (s.host.mirDrain.getD s.rt) }))
        ∧ (∀ t, s.host.mirDrain = some t →
          ((s.rt - t).toNat < 80000 → exec .mirDrainTimeout s = .next s)
          ∧ (80000 ≤ (s.rt - t).toNat → exec .mirDrainTimeout s = .next
              (endDrain c (unanswered s).length ((unanswered s).foldl (fun t a => linkDeadReturn a t) s)))))
      ∧ (c.opc = 5 →
        let waiting := s.replyq.filter fun m => match m.notice? with | some k => bit connected k | none => true
        let go : State := { taken with
          mircfg := BitVec.ofNat 32 c.arg0.toNat, connected := connected, mirHold := false, replyq := waiting }
        (feature 2 → s.time.pausedAt = none → exec (.mircommit connected) s = .next (flushPackets go))
        ∧ (∀ p, feature 2 → s.time.pausedAt = some p → exec (.mircommit connected) s = .next (flushPackets
          { go with
            time := { s.time with lastExchange := s.time.lastExchange + BitVec.ofNat 64 (min (s.rt - p).toNat 200000000), pausedAt := none } }))
        ∧ (¬ feature 2 → exec (.mircommit connected) s = .next (refused 3 0)))
      ∧ (c.opc = 6 →
        let byte (i : Nat) : Byte :=
          if hbmOk s (pa + i) 1 = false ∨ (s.badAt (pa + i) 1).isSome = true then Config.freeByte s.free i else BitVec.ofNat 8 (s.byteAt (pa + i) 0)
        ∃ header copied : List Byte, header.length = 128 ∧ (∀ i, header[i]? = if i < 128 then some (byte i) else none)
        ∧ (let all := 0x80 + min (Memory.readN (Memory.writeL [] 0 header) 0x10 8) (64 * 2 ^ 20) + 7856
        (∀ i, copied[i]? = if i < all then some (byte i) else none)
        ∧ (let image := Memory.writeL [] 0 copied
        let bank := 1 - s.sec.active
        let loaded (p : Option Nat) (t : State) : State := { t with sec := { t.sec with
          banks := Tab.set bank { image := image, present := true } t.sec.banks, pending := p } }
        let before := if s.sec.pending = some bank then none else s.sec.pending
        (imageCheck s image = none → pa % 4096 = 0 → hbmWhole s pa all = true → exec .fwload s = .next (loaded (some bank) taken))
        ∧ (imageCheck s image = none → pa % 4096 ≠ 0 ∨ hbmWhole s pa all = false →
            exec .fwload s = .next (hostEvent 0 0x01 c.hseq 7 6 0 0 (loaded before taken)))
        ∧ (∀ d, imageCheck s image = some d → exec .fwload s = .next
            (hostEvent 0 0x01 c.hseq 7 (BitVec.ofNat 64 d) 0 0 (loaded before taken))))))
      ∧ (c.opc = 7 → feature 3 →
        (c.arg0 = 0 → lead → inGroup s = false → exec .suspend s = .next (armSuspend c.arg1 taken))
        ∧ (c.arg0 = 0 → lead → inGroup s = true → exec .suspend s = .next (sendFrame (controlFrame s 0x10 0 c.arg1) taken))
        ∧ (c.arg0 = 0 → ¬ lead → exec .suspend s = .next (refused 6 0))
        ∧ (∀ again, c.arg0 ≠ 0 → s.susp = .restored none again →
          (lead → inGroup s = false → exec .suspendResume s = .next { taken with susp := .restored (some c.arg1) again })
          ∧ (lead → inGroup s = true → exec .suspendResume s = .next (sendFrame (controlFrame s 0x11 0 c.arg1) taken))
          ∧ (¬ lead → exec .suspendResume s = .next (refused 6 0)))
        ∧ (c.arg0 ≠ 0 → (∀ again, s.susp ≠ .restored none again) → exec .suspendResume s = .next (refused 9 0)))))
  ∧ (∀ (s : State) (ctx : Nat), s.landing = false → (s.ctxs.map Prod.fst).Nodup → (s.ctxOf ctx).st = .dying → tasksOf s ctx = [] → ctxQuiet s ctx = true →
      ∃ u, exec (.dyingComplete ctx) s = .next (hostEvent 0 0x03 (s.ctxOf ctx).destroyed (BitVec.ofNat 64 ctx) 0 0 0 u) ∧ (u.ctxOf ctx).st = .absent
        ∧ (∀ r ∈ u.recs, r.ctx ≠ ctx) ∧ (∀ a ∈ u.accs, a.ctx ≠ ctx) ∧ (∀ c, ∀ e ∈ (u.cell c).lens, e.ctx ≠ ctx)
        ∧ (∀ k ∈ u.sec.slots, k.2.ctx ≠ some ctx) ∧ (∀ n, n ≠ ctx → u.ctxOf n = s.ctxOf n) ∧ u.mem = s.mem)

/-- The commands of the die queues (R300 to R307, R312): a RUN reads its chain, is accepted and completes with its launch; WAIT completes
once the semaphore has reached its target; SIGNAL waits for the RUNs before it; RDCINV bumps the generation; QMOVE and QLOAD move a
queue's records to memory and back; PREEMPT asks the tasks that it names to save, forces them when their time is over, and saves them
one by one; RESTORE reads the area back and lets the tasks that it has put back go on; a completed command with SIG adds SVAL at SADDR.
A request that finds its task frozen waits for it (log entries 13, 27), a WAIT compares as SEMW does (37), and a RESTORE's blocks come
back in the order of log entry 28. -/
def Obligations.DieQueueCommands : Prop :=
  ∀ (s u w : State) (die q : Nat) (r : DieCmd) (rest : List DieCmd), s.landing = false → bit s.err.fencedDies die = false →
    (s.dieq die q).recs = r :: rest → (s.ctxOf (cmdCtx r)).st = .live → cmdFieldBad r = false →
    let y := s.dieq die q
    let ctx := cmdCtx r
    let me := 8 * die + q
    let started (t : State) : State := t.updDieq die q fun z => { z with started := true }
    let popped (t : State) : State := t.updDieq die q fun z =>
      { z with head := z.head + 1, recs := z.recs.drop 1, started := false, len := 0x1000, toffs := [], coffs := [], cells := [], back := []
               run := none }
    let other := (cmdArg r).toNat % 8
    let area := (cmdArg r).toNat / 2 ^ 16 % 2 ^ 32 * 4096
    (∀ t, (t.dieq die q).recs = r :: rest →
      (cmdSig r = false → completeHead die q t = popped t)
      ∧ (cmdSig r = true → hubAdd ctx (cmdSaddr r) (cmdSval r) r.task t = (.ok u, w) → completeHead die q t = popped u))
    ∧ (cmdOpc r = 1 → y.running = [] → y.started = false → ∀ raw l, launchRead ctx r.task (cmdAddr r) s = (.ok raw, w) →
      chainRest ctx r.task 16 raw 1 w = ((l, none), u) →
      let recs := (cmdAddr r, raw) :: l
      (∀ code, chainCode u (u.ctxOf ctx) (some die) (recs.map (·.2)) none = some code → exec (.run die q) s = .next (failHead die q code u))
      ∧ (chainCode u (u.ctxOf ctx) (some die) (recs.map (·.2)) none = none → (openRecs u ctx).length + recs.length ≤ 64 →
          let t := acceptChain ctx recs (some me) (started u)
          exec (.run die q) s = .next (releaseRun die q (t.2.updDieq die q fun z => { z with run := some t.1 }))))
    ∧ (∀ l, cmdOpc r = 1 → y.running = [] → y.started = true → y.run = some l → launchDone s ctx l = true →
      exec (.run die q) s = .next (completeHead die q s))
    ∧ (∀ e es, y.running = e :: es → launchDone s (cmdCtx e.2.2) e.1 = true → cmdSig e.2.2 = false → exec (.run die q) s = .next
        (s.updDieq die q fun z => { z with running := z.running.filter fun g => g != e }))
    ∧ (∀ v, cmdOpc r = 2 → hubRead ctx r.task (cmdSaddr r) 8 s = (.ok v, u) →
      ((BitVec.ofNat 64 v - cmdSval r).toInt < 0 → exec (.wait die q) s = .next (started u))
      ∧ (0 ≤ (BitVec.ofNat 64 v - cmdSval r).toInt → exec (.wait die q) s = .next (completeHead die q (rdcBump ctx die (started u)))))
    ∧ (cmdOpc r = 3 → (y.running = [] → exec (.signal die q) s = .next (completeHead die q s))
        ∧ (y.running ≠ [] → exec (.signal die q) s = .next s))
    ∧ (cmdOpc r = 6 → exec (.rdcinv die q) s = .next (completeHead die q (rdcBump ctx die s)))
    ∧ (cmdOpc r = 7 →
      (other ≠ q → queueBound s ctx die other = true → (s.dieq die other).started = false →
        let l := queueImage (s.dieq die other)
        hubWriteRuns ctx r.task (pageRuns (cmdAddr r) l.length) l s = (.ok u, w) →
        exec (.qmove die q) s = .next (completeHead die q (u.updDieq die other fun z => { z with head := z.tail, recs := [] })))
      ∧ (other = q → exec (.qmove die q) s = .next (failHead die q 0x0106 s)))
    ∧ (∀ h v, cmdOpc r = 8 → other ≠ q → queueBound s ctx die other = true → (s.dieq die other).recs = [] →
      hubRead ctx r.task (cmdAddr r) 64 s = (.ok h, w) → h < 2 ^ 64 →
      let head : BitVec 32 := BitVec.ofNat 32 h
      let tail : BitVec 32 := BitVec.ofNat 32 (h / 2 ^ 32)
      let n := (tail - head).toNat
      n ≤ 32 → hubRead ctx r.task (cmdAddr r + 64) (64 * n) w = (.ok v, u) →
      let rec_ (i : Nat) : DieCmd :=
        let x := v / 256 ^ (64 * i) % 256 ^ 64
        { raw := BitVec.ofNat 512 (x - x / 2 ^ 32 % 2 ^ 8 * 2 ^ 32 + ctx * 2 ^ 32), task := r.task }
      exec (.qload die q) s = .next (completeHead die q (u.updDieq die other fun z =>
        { z with head := head, tail := tail, recs := (List.range n).map rec_ })))
    ∧ (cmdOpc r = 4 → y.started = false → cmdMask r ≠ 0 → cmdMask r &&& (s.err.fencedCells / 2 ^ (16 * die) % 2 ^ 16) = 0 →
      preemptClash s die q r = false →
      let set := preemptSet s die (cmdMask r) ctx
      exec (.preempt die q) s = .next ((set.foldl (fun t p => askSave me (bit (cmdArg r).toNat 0) p.1 p.2 t) s).updDieq die q fun z =>
        { z with started := true, cells := (List.range 128).filter fun c => set.any fun t => t.1 == c }))
    ∧ (∀ c k cs l, cmdOpc r = 4 → y.started = true → y.cells = c :: cs → nextSaved s me ctx c = some k → savable s c k = true →
      let s' := ungrant c k s
      let n := blockLen (s'.cell c) k (s'.slot c k)
      y.len + n ≤ area → y.toffs.length < 256 → taskBlock c k s' = (.ok l, w) →
      (∀ v, hubPut ctx r.task (cmdAddr r + BitVec.ofNat 64 y.len) l w = (.ok u, v) → exec (.taskSave die q) s = .next
        ((leaveSlot c k u).updDieq die q fun z => { z with toffs := z.toffs ++ [y.len], len := y.len + n })))
    ∧ (cmdOpc r = 4 → y.started = true → y.cells = [] → 4096 ≤ area →
      hubPut ctx r.task (cmdAddr r) [(0, areaHeader (ctxidOf s ctx) s.rt y.len y.toffs y.coffs)] s = (.ok u, w) →
      exec (.taskSave die q) s = .next (completeHead die q u))
    ∧ (∀ c k t, (s.slot c k).preReq = some t → t ≤ s.rt.toNat → (s.slot c k).freezing = none →
      (s.slot c k).st = .run ∨ (s.slot c k).st = .parked →
      exec (.prebndExpiry c k) s = .next (s.updSlot c k fun z => { z with freezing := some .forced }))
    ∧ (∀ o os h t b, cmdOpc r = 5 → y.started = true → y.toffs = o :: os → hubRead ctx r.task (cmdAddr r + BitVec.ofNat 64 o) 128 s = (.ok h, w) →
      savedFor w ctx h = some t → hubRead ctx r.task (cmdAddr r + BitVec.ofNat 64 o) (h / 256 ^ 0x38 % 256 ^ 8) w = (.ok b, u) →
      (u.slot t.cell t.slot).st = .free → bit u.err.fencedCells t.cell = false →
      regionsFree (u.cell t.cell) ctx (spanRegions (savedSpans (getSlot b u.seq ctx me t))) = true →
      exec (.restore die q) s = .next ((placeTask b t.cell t.slot ctx me t u).updDieq die q fun z =>
        { z with toffs := z.toffs.drop 1, back := z.back ++ [(t.cell, t.slot)] }))
    ∧ (cmdOpc r = 5 → y.started = true → y.toffs = [] → y.coffs = [] →
      let back := y.back.filter fun p => (s.slot p.1 p.2).preBy == some me && (s.slot p.1 p.2).ctx == ctx
      let bumped := rdcBumpAll ctx s
      let g := back.foldl (fun n p => max n (max (bumped.clk + 1) ((bumped.cell p.1).rowsLanded p.2))) 0
      let go (p : Nat × Nat) (t : State) : State :=
        let t1 := t.updSlot p.1 p.2 fun z => { z with preBy := none }
        if (t1.slot p.1 p.2).frozenBy = some .forced then resumeSlot false g p.1 p.2 t1 else t1
      exec (.restore die q) s = .next (completeHead die q (back.foldl (fun t p => go p t) bumped)))

/-- Walks and shootdowns (R298, R320 to R325, R334 to R336, R407): one of the 192 requests that a die's walkers serve ends; the entries of
levels 5 to 2 that it read enter the cache of those walkers, its translation the TLB or the stream's next-page register, and its
refusal waits for the instruction; a later walk reads such an entry from that cache; a next-page fill takes the page from the TLB or
asks for a speculative walk; the line of a PREF .l1 comes with the translation; a TLBI performs once every access translated by what it removes has performed, and then no TLB, no page
register and no launch translation holds it, and the walkers' caches are empty. What the walkers hold is log entry 12, what a shootdown
waits for entry 29. -/
def Obligations.WalksAndShootdowns : Prop :=
  ∀ (s : State) (before after : List WalkReq) (w : WalkReq) (merge : Option Nat) (c k st : Nat) (x : Kind), s.landing = false →
    let rest : State := { s with walks := before ++ after }
    let r := walk rest (c / 16) w.ctx w.va w.kind w.task w.spec merge
    let noted := noteWalk (c / 16) w.ctx w.va rest
    (s.walks = before ++ w :: after → (before.filter fun q => agentDie q.agent == agentDie w.agent).length < 192 → w.agent = .strand c k x →
      let ended := exec (.pageWalk before.length merge) s
      (∀ t upd, w.stream = none → r = .ok t upd →
        let held := (setAD upd noted).updCell c fun y =>
          { y with tlb := (t :: y.tlb.filter fun q => !(q.asid == t.asid && q.va == t.va && q.sz == t.sz)).take 2048 }
        (w.line = false → ended = .next held) ∧ (w.line = true → ended = .next (lineVia w.agent t w.va held)))
      ∧ (∀ cause l, w.stream = none → r = .fail cause l →
          ended = .next { noted with refusals := s.refusals ++ [⟨w.agent, w.va, w.kind, cause, l⟩] })
      ∧ (∀ t upd, w.stream = some st → r = .ok t upd →
          ended = .next (noted.updSlot c k fun y => { y with pages := Tab.set (2 * st + 1) t y.pages }))
      ∧ (∀ cause l, w.stream = some st → r = .fail cause l →
          ended = .next (noted.updSlot c k fun y => { y with pages := Tab.del (2 * st + 1) y.pages })))
    ∧ (∀ set l ea e, 2 ≤ l → (Tab.get [] set s.wcache).find? (fun q => q.1 == ea) = some (ea, e) → readLevel s set l ea = some e)
    ∧ (∀ set l ea, l < 2 ∨ (∀ q ∈ Tab.get [] set s.wcache, q.1 ≠ ea) → s.badAt ea 8 = none → readLevel s set l ea = some (s.memRead ea 8 0))
    ∧ (st < 9 → (s.slot c k).st ≠ .free → ∀ va, nextPage s (s.slot c k) st = some va →
      let y := s.slot c k
      let asid := (s.ctxOf y.ctx).asid
      let kind := if st ≤ 3 then 3 else 0
      (∀ t, Tab.find (2 * st + 1) y.pages = some t → t.covers asid va = false) → s.walks.any (fun w => w.stream == some st && walkPlace w == some (c, k)) = false →
      ((s.cell c).tlb.find? (fun t => t.serves asid va kind) = none → exec (.nextPageFill c k st) s = .next { s with
        walks := s.walks ++ [{ agent := .strand c k .S, ctx := y.ctx, va := va, kind := kind, task := true, spec := true, stream := some st }] })
      ∧ (∀ t, (s.cell c).tlb.find? (fun t => t.serves asid va kind) = some t → t.refuses kind true = none →
          exec (.nextPageFill c k st) s = .next (s.updSlot c k fun y => { y with pages := Tab.set (2 * st + 1) t y.pages })))
    ∧ (∀ (h : Shoot) (a : Acc), s.shoots.find? (fun q => q.id == h.id) = some h → s.acc h.id = some a → mayPerform s a = true →
      shootReady s h = true → ∃ t, exec (.shootdownComplete h.id) s = .next t
        ∧ (∀ q ∈ heldTrans t, h.removes q = false) ∧ t.wcache = [] ∧ (∀ q ∈ t.shoots, q.id ≠ h.id) ∧ (∀ q ∈ t.accs, q.id ≠ h.id) ∧ t.mem = s.mem)
    ∧ (∀ (h : Shoot) (a b : Acc), s.shoots.find? (fun q => q.id == h.id) = some h → s.acc h.id = some a → b ∈ s.accs → b.id ≠ h.id →
      b.elems ≠ [] → h.mode = 2 ∨ (h.mode = 0 ∧ (s.ctxOf b.ctx).asid = h.asid) → exec (.shootdownComplete h.id) s = .next s)

/-- Links, ports and keys (R339, R341, R348, R349, R388, R405), and time (R342, R352, R360 to R362, R406): a link that dies is reported,
the packets that wait for it are sent again on detours and what no route reaches is fenced; a retrained link returns; a port goes down, by
itself or once a bank has carried 2⁴⁰ flits; a bank that has carried 2³⁹ begins an update, whose messages go to and fro until the idle bank
takes over; a renewed session brings new keys of both directions; every 250,000 ticks an exchange of time steers the rate towards the
reference by at most 50 ppm, enters holdover when it is off by more than 16 ticks, or off the second estimate four times in a row, and
leaves it after 16 good ones; a group that forms starts its first epoch at the largest reading, with the key that its lowest member sends,
and takes no member whose leg is too long. Numbers of links are log entry 20, the messages of an update and a renewal entry 38, the stamps
of an exchange entry 39, the formation entry 22. -/
def Obligations.LinksKeysAndTime : Prop :=
  ∀ (s : State) (n t1 t2 t3 t4 away : Nat) (key key' : LinkKey) (g : GroupForm), s.powered = true →
    let port (f : Port → Port) (t : State) : State := { t with ports := Tab.set n (f (Tab.get {} n t.ports)) t.ports }
    let p := Tab.get {} n s.ports
    let idle (k : LinkKey) (b : Banks) : Banks := if b.kg = 0 then { b with key1 := k, cnt1 := 0, ready := true } else { b with key0 := k, cnt0 := 0, ready := true }
    let switched (b : Banks) : Banks := if b.ready then { b with kg := 1 - b.kg, ready := false } else b
    let carried (b : Banks) : Nat := if b.kg = 0 then b.cnt0 else b.cnt1
    let say (m : KeyMsg) (t : State) : State := { t with outbox := t.outbox ++ [.keyUpdate n m] }
    let down (t : State) : State := hostEvent (0x20 + n) 0x21 0 (BitVec.ofNat 64 (16 + n)) 1 0 0
      (port (fun y => { y with st := .down, retries := 0, rxRetries := 0, flit := none }) t)
    let t : Time := { s.time with away := away }
    let s' : State := { s with time := t }
    let d : Int := ((t2 : Int) - (t1 : Int)) - ((t4 : Int) - (t3 : Int))
    let gap := (d - 2 * t.glint).natAbs
    let bad := if 24 < gap then t.bad + 1 else 0
    let good := if d.natAbs ≤ 16 ∧ gap ≤ 16 then t.good + 1 else 0
    let alone (x : State) : Prop := x.prism.members = 0 ∨ x.prism.members = 2 ^ x.prism.self
    let noted (r : Int) : Time := { t with bad := bad, good := good, lastExchange := s.rt, lastRun := s.rt, rate := r }
    let state (code : Word) (v : Time) : State := hostEvent 0 0x22 0 code 0 0 0 { s with time := { v with holdover := !t.holdover, bad := 0, good := 0 } }
    (n < 16 → (s.link n).st ≠ .dead →
      let cut := hostEvent 0 0x21 0 (BitVec.ofNat 64 n) 2 0 0 (s.updLink n fun y => { y with st := .dead, retries := [], waited := [] })
      let resent (t : State) : State := { t with
        packets := (t.packets.filter fun q => !bit t.err.fencedDies q.src && !bit t.err.fencedDies q.dst).map fun q =>
          if q.route.head? = some n then { q with detour := true }.start t else q }
      (unreachable cut = none → exec (.linkDead n) s = .next (resent cut))
      ∧ (∀ die, unreachable cut = some die → unreachable (fenceDie die cut) = none →
          exec (.linkDead n) s = .next (resent (fenceDie die cut))))
    ∧ (n < 16 → (s.link n).st = .dead → exec (.linkRetrain n) s = .next
        (hostEvent 0 0x21 0 (BitVec.ofNat 64 n) 0 0 0 (s.updLink n fun y => { y with st := .up })))
    ∧ (n < 18 → p.st = .up →
      exec (.facetPortDown n) s = .next (down s)
      ∧ (2 ^ 40 ≤ carried p.tx ∨ 2 ^ 40 ≤ carried p.rx → exec (.bankLimit n) s = .next (down s))
      ∧ exec (.keyUpdate n key) s = .next (say .updated (port (fun y => { y with rx := idle key y.rx, updates := y.updates + 1 }) s))
      ∧ (p.updating = none → 2 ^ 39 ≤ carried p.tx → exec (.keyUpdateStart n key) s = .next
          (say .updateKey (port (fun y => { y with tx := idle key y.tx, updating := some .updateKey, updates := y.updates + 1 }) s)))
      ∧ (p.updating = some .updateKey → exec (.verifyNewKey ⟨n, .updated⟩) s = .next
          (say .verifyNewKey (port (fun y => { y with updating := some .verifyNewKey }) s)))
      ∧ (p.rx.ready = true → exec (.verifyNewKey ⟨n, .verifyNewKey⟩) s = .next (say .verified s))
      ∧ (p.updating = some .verifyNewKey →
          exec (.verifyNewKey ⟨n, .verified⟩) s = .next (port (fun y => { y with tx := switched y.tx, updating := none }) s))
      ∧ (let renewed : State := port (fun y =>
            { y with tx := idle key y.tx, rx := idle key' y.rx, updating := some .verifyNewKey, updates := 0, since := s.rt }) s
        (p.updating = none → 64 ≤ p.updates ∨ 86400 * 4000000000 ≤ (s.rt - p.since).toNat → exec (.sessionRenewal n ⟨key, key', false⟩) s
            = .next (say .verifyNewKey { renewed with outbox := s.outbox ++ [.keyExchange n] }))
          ∧ (p.updating = none → Tab.get .start (n + 1) s.sec.spdm = .secured true →
            exec (.sessionRenewal n ⟨key, key', true⟩) s = .next (say .verifyNewKey renewed))))
    ∧ (s.mirHold = false → ¬ alone s → (∃ m, reference s' = some m ∧ m ≠ s.prism.self) → 250000 ≤ (s.rt - t.lastRun).toNat →
      let free := Config.freeRate s.free d
      let exchange := exec (.twoWayExchange t1 t2 t3 t4 away) s
      (t.holdover = false → d.natAbs ≤ 32 → bad < 4 → ∃ r, exchange = .next { s with time := noted r }
        ∧ (0 < d → r = max (-50) (min t.rate free)) ∧ (d < 0 → r = max t.rate (min 50 free)) ∧ (d = 0 → r = max (-50) (min 50 free)))
      ∧ (t.holdover = false → 32 < d.natAbs ∨ 4 ≤ bad → exchange = .next (state 1 (noted t.rate)))
      ∧ (t.holdover = true → good < 16 → exchange = .next { s with time := noted t.rate })
      ∧ (t.holdover = true → 16 ≤ good → exchange = .next (state 2 (noted t.rate))))
    ∧ (s.time.holdover = false → ¬ alone s → reference s ≠ some s.prism.self → s.time.pausedAt = none →
        4000000 ≤ (s.rt - s.time.lastExchange).toNat →
        exec .exchangeTimeout s = .next (hostEvent 0 0x22 0 1 0 0 0 { s with time := { s.time with holdover := true, bad := 0, good := 0 } }))
    ∧ (let leg := ((g.legs.find? fun q => q.1 == g.self).map (·.2)).getD 0
      (1600 < leg → exec (.groupFormation g) s = .next s)
      ∧ (g.self < 64 → bit g.members g.self = true → leg ≤ 1600 → s.time.holdover = false →
        let now := if s.rt.toNat < g.reading.toNat then g.reading else s.rt
        let low := ((setBits 64 g.members).head?).getD g.self
        let formed : State := { s with
          connected := g.members % 2 ^ 64
          time := { s.time with rt := now, lastExchange := now, lastRun := now, away := 0, glint := 0, bad := 0, good := 0, pausedAt := none }
          prism := { s.prism with
            applied := 0, seen := 0, epoch := 0, live := g.members % 2 ^ 64, self := g.self, air := [], held := []
            members := g.members % 2 ^ 64, legs := g.legs, left := false, counts := [], dataLog := []
            joined := if s.ctxs.any fun x => x.2.prismLive then 2 ^ g.self else 0
            sentLog := [], appliedLog := [], recov := [], regen := none, regenSeen := none, marker := (List.range 8).map fun w => (w, now)
            glint := (List.range 8).map fun w => (w, low), epochs := [], keyEpoch := 0, key := g.key, prevEpoch := 0, prevKey := g.key } }
        exec (.groupFormation g) s = .next (if low = g.self then
          ((setBits 64 g.members).filter fun m => m != g.self).foldl (fun u m => postPacket (.groupKey m 0 g.key) u) formed else formed)))

/-- Frames of λ0 in their order (R141, R350 to R358, R391, R395, R406): the frame of the next place applies, a later one is held, one of an
old epoch is discarded, and one that the package cannot open, or one that comes after it has left, is only counted; a store writes the
replica, an atomic answers its issuer with the value before it; stores and atomics enter the send queue in issue order, and after the
package has left they fault; VOID passes over its place, JOIN and LEAVE change the rotation, SUSPEND-AT and RESUME-AT arm the package; a
slot begins with its holder's marker and moves the Glint on, and the holder transmits under the next places and counts, on λ1 to λ7 the
data frames that wait. The package that joins is given a slot (log entry 21), and the tag is a free function of key, nonce and frame
(entry 6). -/
def Obligations.PrismFrames : Prop :=
  ∀ (s : State) (f : Frame) (a : Acc) (w : Nat), s.powered = true → s.landing = false →
    let p := s.prism
    let from_ := f.sender ≠ p.self ∨ f ∈ p.sentLog
    let opened := f.epoch = p.epoch ∧ ((p.keyEpoch = p.epoch ∧ f.tag = frameTag f p.key)
      ∨ (p.keyEpoch ≠ p.epoch ∧ p.prevEpoch = p.epoch ∧ f.tag = frameTag f p.prevKey))
    let counted : State := { s with prism := { p with
      seen := max p.seen f.place, counts := Tab.set 0 (max (f.count + 1) (Tab.get 0 0 p.counts)) p.counts } }
    let post (t : State) : State := { t with prism := { t.prism with
      applied := f.place, air := t.prism.air.filter fun q => q.1 != f.place, recov := t.prism.recov.filter fun q => q.place != f.place
      appliedLog := (f :: t.prism.appliedLog).take 4096 } }
    let next := opened ∧ f.place = p.applied + 1 ∧ p.copying = false ∧ p.left = false ∧ p.held = []
    let o := f.offset % 2 ^ 20
    let here := (prismCtx s).isSome
    let old := Memory.readN p.replica o (sizeBytes f.size)
    let wrote (v : Nat) : State :=
      if here then { counted with prism := { counted.prism with replica := Memory.writeN p.replica o (sizeBytes f.size) v } } else counted
    let new := amoNew f.op (sizeBytes f.size) old (f.data.toNat % 2 ^ (8 * sizeBytes f.size))
    let mine := f.sender = p.self ∧ p.air.find? (fun q => q.1 == f.place) = some (f.place, a.id) ∧ s.accs.find? (fun q => q.id == a.id) = some a
    (from_ → next → epochBefore f.epoch p.epoch = false →
      (f.kind = 0x01 → f.sender ≠ p.self → exec (.bstFrame f) s = .next (post (wrote f.data.toNat)))
      ∧ (f.kind = 0x01 → mine → exec (.bstFrame f) s = .next (post (finishAcc a (wrote f.data.toNat))))
      ∧ (f.kind = 0x02 → f.sender ≠ p.self → exec (.bamoFrame f) s = .next (post (wrote new)))
      ∧ (f.kind = 0x02 → mine → exec (.bamoFrame f) s = .next (post (finishAcc a
          (deliver a.dst (BitVec.ofNat 64 (extendTo 64 a.size old)) a.id
            (if a.acq then acquireBump a.agent a.ctx 3 (wrote new) else wrote new)))))
      ∧ (f.kind = 0x10 → exec (.suspendAt f) s = .next (post (armSuspend f.time counted)))
      ∧ (∀ again, f.kind = 0x11 → s.susp = .restored none again → s.rt.toNat ≤ f.time.toNat →
          exec (.resumeAt f) s = .next (post { counted with susp := .restored (some f.time) again }))
      ∧ (f.kind = 0x11 → s.susp = .none → exec (.resumeAt f) s = .next (post counted))
      ∧ (f.kind = 0x21 → exec (.void f) s = .next (post counted))
      ∧ (f.kind = 0x30 → exec (.join f) s = .next (post (sendReplica f.sender f.place { counted with prism := { counted.prism with
            live := p.live ||| 2 ^ f.sender, joined := p.joined ||| 2 ^ f.sender } })))
      ∧ (f.kind = 0x31 → exec (.leave f) s = .next (post (removeMember f.sender counted))))
    ∧ (f.kind = 0x01 → epochBefore f.epoch p.epoch = true → exec (.bstFrame f) s = .next s)
    ∧ (f.kind = 0x01 → from_ → epochBefore f.epoch p.epoch = false → ¬ opened → exec (.bstFrame f) s = .next counted)
    ∧ (f.kind = 0x01 → from_ → epochBefore f.epoch p.epoch = false → p.left = true → exec (.bstFrame f) s = .next counted)
    ∧ (f.kind = 0x01 → from_ → opened → p.left = false → p.applied + 1 < f.place → (∀ q ∈ p.held, q.place ≠ f.place) → p.held.length < 4096 →
        exec (.bstFrame f) s = .next { counted with prism := { counted.prism with held := p.held ++ [f] } })
    ∧ (∀ (src : Src) (e : Elem) (rest : List Elem), s.acc a.id = some a → a.elems = e :: rest → e.loc = .prism w → a.sent = false →
        mayPerform s a = true → travelled s a src = true →
      let joins (v : Frame) : State := { s with
        prism := { p with sendq := p.sendq ++ [(a.id, v)] }
        accs := s.accs.map fun q => if q.id = a.id then { q with sent := true } else q }
      let blank : Frame := { place := 0, kind := 1, sender := p.self, epoch := p.epoch, op := 0, size := a.size, offset := w, data := a.d, time := 0 }
      let first := prismMember s a.ctx = true ∧ queuedOps s < 64 ∧ ∀ b ∈ s.accs, b.id < a.id → b.toPrism = true → mayPerform s b = false
      (∀ mask, a.kind = .bst mask → first → exec (.accessPerform a.id src) s = .next (joins blank))
      ∧ (∀ op, op < 255 → a.kind = .bamo op → first →
          exec (.accessPerform a.id src) s = .next (joins { blank with kind := 2, op := op, data := a.x }))
      ∧ (a.kind = .bld ∨ (∃ mask, a.kind = .bst mask) ∨ (∃ op, a.kind = .bamo op) → prismMember s a.ctx = false →
          exec (.accessPerform a.id src) s = .next (refuseAcc a (lateFault a 1 0x0F e.va 0 0 s))))
    ∧ (w < 8 → (∀ q, p.regen = some q → q.1 ≠ w) →
      let epoch := if w = 0 then p.epoch else Tab.get 0 w p.epochs
      let n := Tab.get 0 w p.counts
      (∀ mk : Marker, mk.holder ≠ p.self → mk.epoch = epoch →
        let moved : State := { s with prism := { p with
          marker := Tab.set w s.rt p.marker, glint := Tab.set w (nextMember p.live mk.holder) p.glint
          regenSeen := if p.regenSeen.any fun q => q.1 == w then none else p.regenSeen } }
        (reference s ≠ some mk.holder → exec (.glintSlot ⟨w, some mk⟩) s = .next moved)
        ∧ (reference s = some mk.holder → exec (.glintSlot ⟨w, some mk⟩) s = .next { moved with time := { s.time with
            glint := (s.rt.toNat : Int) - ((mk.reading.toNat : Int) + (Tab.get 0 mk.holder p.legs : Nat) + (Tab.get 0 p.self p.legs : Nat)) } }))
      ∧ (slotHolder s w ≠ p.self → exec (.glintSlot ⟨w, none⟩) s = .next s)
      ∧ (∀ id, w = 0 → slotHolder s 0 = p.self → p.sendq = [(id, f)] → maySend s f = true → id ≠ 0 → f.kind ≠ 0x21 → f.wave = 0 →
        let plain : Frame := { f with place := p.seen + 1, epoch := p.epoch, count := n }
        let sent : Frame := { plain with tag := frameTag plain p.key }
        exec (.glintSlot ⟨0, none⟩) s = .next { s with
          outbox := s.outbox ++ [.marker 0 ⟨p.self, p.epoch, s.rt⟩]
          prism := { p with
            sendq := [], seen := p.seen + 1, counts := Tab.set 0 (n + 1) p.counts, air := p.air ++ [(p.seen + 1, id)]
            sentLog := (sent :: p.sentLog).take 4096, marker := Tab.set 0 s.rt p.marker, glint := Tab.set 0 (nextMember p.live p.self) p.glint } })
      ∧ (∀ g : DataFrame, w ≠ 0 → Tab.get p.self w p.glint = p.self → sending s = true → Tab.get [] w p.dataq = [g] → g.wave = w →
        let plain : DataFrame := { g with epoch := epoch, count := n }
        let sent : DataFrame := { plain with tag := dataTag plain p.key }
        exec (.glintSlot ⟨w, none⟩) s = .next { s with
          outbox := s.outbox ++ [.marker w ⟨p.self, epoch, s.rt⟩] ++ [.dataFrame sent]
          prism := { p with
            dataq := Tab.set w [] p.dataq, counts := Tab.set w (n + 1) p.counts
            dataLog := Tab.set w ((sent :: Tab.get [] w p.dataLog).take 4096) p.dataLog
            marker := Tab.set w s.rt p.marker, glint := Tab.set w (nextMember p.live p.self) p.glint } }))

/-- What is lost on the Prism (R351, R356 to R358, R383, R406): a place that is lacking is requested from its sender, after 20 µs from the
lowest live member, which asks every other and has VOID take the place once none has the frame, and after 200 µs the package leaves the
group; who keeps the frame answers, and a member without the epoch's key recovers nothing; a Glint unseen for 20 µs is made anew under the
next epoch, on λ0 with a new key; members answer with the highest place they hold, or are removed; a copy of the replica is taken over
whole. What the steps take from outside is log entry 22. -/
def Obligations.PrismRecovery : Prop :=
  ∀ (s : State) (place m sender w top live joined : Nat) (f : Frame) (r : Recov) (key : BitVec 256) (l : List (Nat × Nat)) (t0 : Word)
    (bytes : List Host.Cell), s.powered = true → s.landing = false →
    let p := s.prism
    let lacking := p.applied < place ∧ place ≤ p.seen ∧ ∀ q ∈ p.held, q.place ≠ place
    let low := ((setBits 64 p.live).head?).getD p.self
    let age := (s.rt - r.since).toNat
    let mark (g : Recov → Recov) (t : State) : State :=
      { t with prism := { t.prism with recov := t.prism.recov.map fun q => if q.place = place then g q else q } }
    let others := (setBits 64 p.live).filter fun m => m != p.self
    let askAll (t : State) : State := others.foldl (fun u m => postPacket (.frameRequest m 0 place) u) t
    let void (t : State) : State := sendFrame { controlFrame s 0x21 0 0 with place := place } (mark (fun q => { q with stage := 2 }) t)
    let all := ∀ k ∈ others, bit r.lacks k = true
    (lacking → p.left = false → (∀ q ∈ p.recov, q.place ≠ place) → exec (.frameRecoveryRequest ⟨place, sender⟩) s = .next
        (postPacket (.frameRequest sender 0 place) { s with prism := { p with recov := p.recov ++ [{ place := place, since := s.rt }] } }))
    ∧ (lacking → p.recov.find? (fun q => q.place == place) = some r →
      let asked := mark (fun q => { q with stage := 1 }) s
      (800000 ≤ age → exec (.frameRecoveryTimeout place) s = .next (leaveGroup s))
      ∧ (age < 80000 → exec (.frameRecoveryTimeout place) s = .next s)
      ∧ (80000 ≤ age → age < 800000 → r.stage = 0 → low ≠ p.self →
          exec (.frameRecoveryTimeout place) s = .next (postPacket (.frameRequest low 0 place) asked))
      ∧ (80000 ≤ age → age < 800000 → r.stage = 0 → low = p.self → ¬ all →
          exec (.frameRecoveryTimeout place) s = .next (askAll asked)))
    ∧ ((p.sentLog ++ p.appliedLog).find? (fun q => q.place == place && q.kind != 0x20) = some f →
        exec (.frameRecoveryServe ⟨0, place⟩ m) s = .next (postPacket (.frameAnswer m place (some f)) s))
    ∧ ((p.sentLog ++ p.appliedLog).find? (fun q => q.place == place && q.kind != 0x20) = none → low ≠ p.self → p.live ≠ 0 →
        exec (.frameRecoveryServe ⟨0, place⟩ m) s = .next (postPacket (.frameAnswer m place none) s))
    ∧ (w ≠ 0 → exec (.frameRecoveryServe ⟨w, place⟩ m) s = .next
        (postPacket (.dataAnswer m place ((Tab.get [] w p.dataLog).find? fun f => f.count == place)) s))
    ∧ (f.place = place → (∃ q ∈ p.recov, q.place = place) → p.keyEpoch = p.epoch → p.regen = none → p.left = false → p.applied + 1 < place →
        (∀ q ∈ p.held, q.place ≠ place) → p.held.length < 4096 → exec (.frameRecoveryReply ⟨m, place, some f⟩) s = .next { s with prism := { p with
          recov := p.recov.filter fun q => q.place != place, seen := max p.seen place, held := p.held ++ [f] } })
    ∧ (p.keyEpoch = p.epoch → p.recov = [r] → r.place = place → r.stage = 1 → (setBits 64 p.live).head? = some p.self → bit r.lacks m = false →
      let lacks : State := { s with prism := { p with recov := [{ r with lacks := r.lacks + 2 ^ m }] } }
      ((∀ k ∈ others, k ≠ m → bit r.lacks k = true) → m < 64 → exec (.frameRecoveryReply ⟨m, place, none⟩) s = .next (void lacks))
      ∧ ((∃ k ∈ others, k ≠ m ∧ bit r.lacks k = false) → m < 64 → exec (.frameRecoveryReply ⟨m, place, none⟩) s = .next lacks))
    ∧ (p.keyEpoch ≠ p.epoch → exec (.frameRecoveryReply ⟨m, place, some f⟩) s = .next s)
    ∧ (w < 8 → others ≠ [] → p.regen = none → (setBits 64 p.live).head? = some p.self → 80000 ≤ (s.rt - Tab.get 0 w p.marker).toNat →
        let e := ((if w = 0 then p.epoch else Tab.get 0 w p.epochs) + 1) % 2 ^ 16
        let plain : Frame := { place := 0, kind := 0x20, sender := p.self, epoch := e, op := 0, size := 0, offset := 0, data := 0, time := 0, wave := w }
        let again : Frame := { plain with tag := frameTag plain p.key }
        let begun : Prism := { p with
          regen := some (w, []), regenAt := s.rt, counts := Tab.del w p.counts, sentLog := (again :: p.sentLog).take 4096 }
        (w = 0 → exec (.glintTimeout 0 key) s = .next (others.foldl (fun u m => postPacket (.groupKey m e key) u)
          { s with prism := { begun with epoch := e, key := key, keyEpoch := e, prevKey := p.key, prevEpoch := p.epoch } }))
        ∧ (w ≠ 0 → exec (.glintTimeout w key) s = .next { s with prism := { begun with epochs := Tab.set w e p.epochs } }))
    ∧ (f.kind = 0x20 → f.tag = frameTag f p.key ∨ f.tag = frameTag f p.prevKey → f.sender ≠ p.self →
      let told (t : State) : State :=
        postPacket (.regenAnswer f.sender ((p.held ++ p.sentLog).foldl (fun m f => max m f.place) p.applied)) t
      let heard : Prism := { p with
        glint := Tab.set f.wave f.sender p.glint, marker := Tab.set f.wave s.rt p.marker, regen := none, regenSeen := some (f.wave, s.rt)
        counts := Tab.del f.wave p.counts }
      (f.wave = 0 → f.epoch = (p.epoch + 1) % 2 ^ 16 → exec (.regen f) s = .next (told { s with prism := { heard with epoch := f.epoch } }))
      ∧ (0 < f.wave → f.wave < 8 → f.epoch = (Tab.get 0 f.wave p.epochs + 1) % 2 ^ 16 →
          exec (.regen f) s = .next (told { s with prism := { heard with epochs := Tab.set f.wave f.epoch p.epochs } })))
    ∧ (p.regen = some (w, l) → bit p.live m = true → (∀ q ∈ l, q.1 ≠ m) →
      (∀ k ∈ others, k ≠ m → ∃ q ∈ l, q.1 = k) → w = 0 → top = (l ++ [(m, place)]).foldl (fun m q => max m q.2) p.seen →
      (p.applied = top → keysSent s = true → sending s = true →
        exec (.regenAnswer m place) s = .next (ownSlot 0 { s with prism := { p with seen := top, regen := none } }))
      ∧ (p.applied ≠ top ∨ keysSent s = false → (prismCtx s).isSome = true → exec (.regenAnswer m place) s = .next { s with prism := { p with
          seen := top, regen := some (w, l ++ [(m, place)]) } }))
    ∧ (bit p.live m = true →
      (p.regen = some (w, l) → m ≠ p.self → (∀ q ∈ l, q.1 ≠ m) → 80000 ≤ (s.rt - p.regenAt).toNat →
        exec (.regenAnswerTimeout m) s = .next (tryRegen (removeMember m s)))
      ∧ (p.regen = none → p.regenSeen = some (w, t0) → 80000 ≤ (s.rt - t0).toNat →
        (m ≠ p.self → exec (.regenAnswerTimeout m) s = .next (removeMember m s))
        ∧ (m = p.self → exec (.regenAnswerTimeout m) s = .next (leaveGroup s))))
    ∧ exec (.groupKeyDelivery top key) s = .next { s with prism := { p with
        key := key, keyEpoch := top % 2 ^ 16, prevKey := p.key, prevEpoch := p.keyEpoch } }
    ∧ (p.copying = true → p.held = [] → p.applied ≤ place → place = p.applied ∨ p.seen ≤ p.applied →
        exec (.prismReplicaCopy bytes ⟨place, live, joined⟩) s = .next { s with prism := { p with
          replica := bytes.foldl (fun m q => if q.1 < 2 ^ 20 then Memory.writeL m q.1 [q.2] else m) [], copying := false
          applied := place, seen := max place p.seen, live := live % 2 ^ 64, joined := joined % 2 ^ 64
          air := p.air.filter fun q => decide (place < q.1), appliedLog := p.appliedLog.take 4096 } })

/-- Collectives (R350, R358, R363 to R366): one that breaks a rule of its descriptor ends with status 3, one whose members disagree
with 2, one that counts an absent member with 1, and the other members are told; where all have issued it alike, the engine reads SRC and
its contribution waits, block by block, for the Glints of λ1 to λ7; a data frame joins its sender's contribution, a lost one is fetched
from its sender, and one that cannot be recovered ends the collective with 5; with every contribution there, DST receives the reduction in
ascending member index, or the gathered elements, and the collective ends with 0; a status that another member has met ends it here
without a byte of DST; a result of which some bytes are written already is the one that is written whole (R250). The blocks of a
contribution are log entry 69, and what the members exchange log entry 32. -/
def Obligations.Collectives : Prop :=
  (∀ (s u w : State) (ctx n v st wave count sender : Nat) (c : Coll) (peers : List CollPeer) (f : DataFrame), s.landing = false →
    findColl s ctx n = some c →
    let x := s.ctxOf ctx
    let d := c.desc
    let others := (setBits 64 (collMembers d)).filter fun m => m != x.self
    let ended (k : Nat) (t : State) : State := endColl ctx n k t
    let told (k : Nat) (t : State) : State := others.foldl (fun u m => postPacket (.collStatus m d k) u) (endColl ctx n k t)
    let upd (g : Coll → Coll) (t : State) : State := t.updCtx ctx fun y => { y with colls := y.colls.map fun q => if q.ticket = n then g q else q }
    let width := collWidth d
    let own := (List.range (collSrcLen d)).map fun i => BitVec.ofNat 64 (v / 256 ^ (width * i) % 256 ^ width)
    let present := ∀ m ∈ others, ∃ p ∈ peers, p.member = m
    (c.matched = false →
      (collValid s ctx d = false → exec (.collectiveMatch ctx n peers) s = .next (ended 3 s))
      ∧ (collValid s ctx d = true → collTwice s ctx c = true → exec (.collectiveMatch ctx n peers) s = .next (told 2 s))
      ∧ (collValid s ctx d = true → collTwice s ctx c = false →
        ((∃ m ∈ others, memberPresent s ctx m = false) → exec (.collectiveMatch ctx n peers) s = .next (told 1 s))
        ∧ ((∀ m ∈ others, memberPresent s ctx m = true) → s.mirHold = false → present →
          ((∃ p ∈ peers, p.member ∈ others ∧ collSame p.desc d = false) → exec (.collectiveMatch ctx n peers) s = .next (told 2 s))
          ∧ ((∀ p ∈ peers, p.member ∈ others → collSame p.desc d = true) → c.spoilt = false →
              hubRead ctx (collTask c) (collSrc d) (width * collSrcLen d) s = (.ok v, u) →
              let t := upd (fun q => { q with matched := true, own := own }) u
              exec (.collectiveMatch ctx n peers) s = .next
                (if others = [] then t else queueData (dataBlocks u.prism.self (leBytes (width * collSrcLen d) v)) t)))))
    ∧ (let counted (w k : Nat) : State := { s with prism := { s.prism with
          counts := Tab.set w (max (k + 1) (Tab.get 0 w s.prism.counts)) s.prism.counts } }
      let joined (t : State) : State := upd (fun q =>
        { q with frames := q.frames ++ [f], missing := q.missing.filter fun q => q != (f.sender, f.wave, f.count) }) t
      let fetched (m w k : Nat) (t : State) : State := postPacket (.frameRequest m w k) (upd (fun q => { q with missing := q.missing ++ [(m, w, k)] }) t)
      let epoch := if f.wave = 0 then s.prism.epoch else Tab.get 0 f.wave s.prism.epochs
      let good := f.tag = dataTag f s.prism.key ∨ f.tag = dataTag f s.prism.prevKey
      (epochBefore f.epoch epoch = true → exec (.dataWavelengthFrame ctx n (.frame f)) s = .next s)
      ∧ (epochBefore f.epoch epoch = false → good → exec (.dataWavelengthFrame ctx n (.frame f)) s = .next (joined (counted f.wave f.count)))
      ∧ (epochBefore f.epoch epoch = false → ¬ good →
          exec (.dataWavelengthFrame ctx n (.frame f)) s = .next (fetched f.sender f.wave f.count (counted f.wave f.count)))
      ∧ exec (.dataWavelengthFrame ctx n (.missing sender wave count)) s = .next (fetched sender wave count (counted wave count))
      ∧ ((f.sender, f.wave, f.count) ∈ c.missing → exec (.dataWavelengthFrame ctx n (.fetched f)) s = .next (joined s))
      ∧ ((sender, wave, count) ∈ c.missing → exec (.dataWavelengthFrame ctx n (.gone sender wave count)) s = .next (endSpoilt ctx c 5 s)))
    ∧ (c.matched = true →
      (∀ l, st = 0 → (c.out = none ∧ c.missing = [] ∧ present
            ∧ l = (collResult d x.self (contributions s ctx c peers)).flatMap (leBytes width)) ∨ c.out = some l →
          hubWriteRuns ctx (collTask c) (pageRuns (collDst d) l.length) l s = (.ok u, w) →
          exec (.collectiveComplete ctx n peers st) s = .next (ended 0 u))
      ∧ (c.out = none → 1 ≤ st → st ≤ 3 → exec (.collectiveComplete ctx n peers st) s = .next (ended st s))
      ∧ (st = 4 ∨ st = 5 → exec (.collectiveComplete ctx n peers st) s = .next (endSpoilt ctx c st s))))
  ∧ (∀ (sender i : Nat) (l : List Byte), (dataBlocks sender l)[i]? =
      if 32 * i < l.length then some { sender := sender, wave := 1 + i % 7, offset := 32 * i, bytes := (l.drop (32 * i)).take 32 } else none)
  ∧ (∀ (s : State) (l : List DataFrame) (w : Nat), Tab.get [] w (queueData l s).prism.dataq
      = Tab.get [] w s.prism.dataq ++ l.filter fun f => f.wave == w)
  ∧ (∀ (d : BitVec 512) (self a b : Nat), collCount d = 1 → collOp d = 1 → collType d = 7 →
      (collRed d = 0 → collResult d self [[a], [b]] = [(a + b) % 2 ^ 32])
      ∧ (collRed d = 1 → a < 2 ^ 32 → b < 2 ^ 32 → collResult d self [[a], [b]] = [if sext b 32 < sext a 32 then b else a]))
  ∧ (∀ (d : BitVec 512) (self a b : Nat), collCount d = 1 → collOp d = 2 → collResult d self [[a], [b]] = [a, b])

/-- What the host does (R296, R372 to R380, R386, R401 to R403): GO is set once, with offered features only; the records that it puts into
the ring of its memory become available with the tail that it writes; registers of the rings are written until GO, and by aligned words
only; a doorbell starts a conductor or rings at a running one; counters clear; BAR2 reads and writes memory under key slot 0, word by
word, BAR4 a conductor's memories; the next event of a source enters the ring in host memory while it has room; a KEYSET binds a key slot,
or is refused by the first status that applies; the root of trust answers once versions, capabilities and algorithms are settled. What the
host's steps bring is log entry 35, the order of the statuses entry 23, the order of an SPDM exchange entry 67, and the data of a bad word
entry 4. -/
def Obligations.HostPort : Prop :=
  ∀ (s : State) (v : Word) (key : BitVec 256) (r r' : BitVec 512) (off size n o src chan : Nat) (k : KeySetReq), s.powered = true →
    s.host.ready = true →
    let h := s.host
    let f (i : Nat) : Nat := (Tab.get 0 i h.feata).toNat
    let acceptable := f 0 % 2 = 1 ∧ f 0 < 64 ∧ f 1 = 0 ∧ f 2 = 0 ∧ f 3 = 0
    let set (h : HostIf) : State := { s with host := h }
    let bell (m : Nat) (t : State) : State :=
      let u := t.updCond m fun y => if y.st = .running then { y with doorbell := true }
        else { y with st := .running, pc := 0x00FFFF0000000000#64, block := none }
      if t.err.badCond.any (fun w => w.1 == m) then condMemFault m u else u
    let entry (base size at_ : Word) : Nat := (base.toNat + 64 * (at_.toNat % size.toNat)) % 2 ^ 64
    let put (at_ : Word) (r : BitVec 512) (m : Memory) : Memory := Memory.writeN m (entry h.cmdbase h.cmdsize at_) 64 r.toNat
    let pa := h.winbase.toNat + off
    let write := exec (.registerWrite ⟨off, 8⟩ v) s
    (h.go = false → bit v.toNat 0 = true →
      (acceptable → exec (.hctlGo v key) s = .next { s with
        host := { h with go := true, refused := false }
        sec := if bit (f 0) 3 then { s.sec with suspendKey := key } else s.sec })
      ∧ (¬ acceptable → exec (.hctlGo v key) s = .next (set { h with refused := true })))
    ∧ ((v - h.cmdhead).toNat ≤ h.cmdsize.toNat →
        exec (.cmdtailWrite v []) s = .next (set { h with cmdtail := v })
        ∧ exec (.cmdtailWrite v [r]) s = .next (set { h with cmdtail := v, hmem := put h.cmdtail r h.hmem })
        ∧ exec (.cmdtailWrite v [r, r']) s = .next (set { h with cmdtail := v, hmem := put (h.cmdtail + 1) r' (put h.cmdtail r h.hmem) }))
    ∧ (h.cmdsize.toNat < (v - h.cmdhead).toNat → exec (.cmdtailWrite v [r]) s = .next (set { h with hmem := put h.cmdtail r h.hmem }))
    ∧ exec (.evheadWrite v) s = .next (set { h with evhead := v })
    ∧ (size ≠ 8 ∨ off % 8 ≠ 0 → exec (.registerWrite ⟨off, size⟩ v) s = .next s)
    ∧ (off = 0xA0 → write = .next (set { h with nextdist := BitVec.ofNat 64 (v.toNat % 2 ^ 36) }))
    ∧ (off = 0xA8 → write = .next (set { h with winbase := BitVec.ofNat 64 (v.toNat / 2 ^ 32 % 2 ^ 20 * 2 ^ 32) }))
    ∧ (h.go = false → ∀ i < 4, off = 0x20 + 8 * i → write = .next (set { h with feata := Tab.set i v h.feata }))
    ∧ (h.go = false → off = 0x48 → write = .next (set { h with cmdbase := BitVec.ofNat 64 (v.toNat / 4096 * 4096) }))
    ∧ (h.go = false → off = 0x68 → write = .next (set { h with evbase := BitVec.ofNat 64 (v.toNat / 4096 * 4096) }))
    ∧ (h.go = false → ∀ i < 11, v.toNat = 2 ^ (i + 6) →
        (off = 0x50 → write = .next (set { h with cmdsize := v })) ∧ (off = 0x70 → write = .next (set { h with evsize := v })))
    ∧ (h.go = false → (∀ i < 11, v.toNat ≠ 2 ^ (i + 6)) → off = 0x50 ∨ off = 0x70 → write = .next s)
    ∧ (h.go = true → off < 0xA0 → write = .next s)
    ∧ exec (.dbell v) s = .next ((setBits 16 v.toNat).foldl (fun t m => bell m t) s)
    ∧ exec (.errclr v) s = .next { s with err := { s.err with
        ce := s.err.ce.filter fun q => !(decide (q.1 ≤ 28) && bit v.toNat q.1)
        ue := s.err.ue.filter fun q => !(decide (q.1 ≤ 28) && bit v.toNat q.1) } }
    ∧ (0 < size → off % 8 + size ≤ 8 → off + size ≤ 2 ^ 32 →
      (hbmOk s pa size = true → s.badPart pa size = none → MemoryOk s → ∃ t, exec (.hostWindowWrite ⟨off, size⟩ v) s = .next t
        ∧ Wrote s t pa size (v.toNat % 256 ^ size) 0
        ∧ t = { s with mem := t.mem, keyTag := t.keyTag, oldWords := t.oldWords, err := t.err, l1 := t.l1 })
      ∧ (∀ c, hbmOk s pa size = true → s.badPart pa size = some c →
          exec (.hostWindowWrite ⟨off, size⟩ v) s = .next (errorNoted 0 1 c (BitVec.ofNat 64 pa) allOnes s))
      ∧ (hbmOk s pa size = true → s.badAt pa size = none →
          exec (.hostWindowRead ⟨off, size⟩) s = .next (set { h with readData := BitVec.ofNat 64 (s.memRead pa size 0) }))
      ∧ (hbmOk s pa size = false → exec (.hostWindowWrite ⟨off, size⟩ v) s = .next s
          ∧ exec (.hostWindowRead ⟨off, size⟩) s = .next (set { h with readData := BitVec.ofNat 64 (256 ^ size - 1) })))
    ∧ (8 < off % 8 + size → size ≤ 8 → off + size ≤ 2 ^ 32 →
        let a := 8 - off % 8
        ∃ t, exec (.hostWindowWrite ⟨off, a⟩ v) s = .next t
          ∧ exec (.hostWindowWrite ⟨off, size⟩ v) s = exec (.hostWindowWrite ⟨off + a, size - a⟩ (v >>> (8 * a))) t)
    ∧ (8 < size ∨ 2 ^ 32 < off + size → exec (.hostWindowWrite ⟨off, size⟩ v) s = .next s)
    ∧ (n < 16 → o % 8 = 0 →
      (o < 0x100000 → (s.condOf n).st ≠ .running → exec (.bar4Write ⟨0x100000 * n + o, 8⟩ v) s = .next (condWrite n o 8 v.toNat s))
      ∧ (o < 0x100000 → (s.condOf n).st = .running → exec (.bar4Write ⟨0x100000 * n + o, 8⟩ v) s = .next s)
      ∧ (o < 0x40000 → exec (.bar4Write ⟨0x1000000 + 0x40000 * n + o, 8⟩ v) s = .next (condWrite n (0x100000 + o) 8 v.toNat s))
      ∧ (o < 0x100000 → (n, o) ∉ s.err.badCond →
          exec (.bar4Read ⟨0x100000 * n + o, 8⟩) s = .next (set { h with readData := BitVec.ofNat 64 (condRead s n o 8) })))
    ∧ (size ≠ 8 ∨ off % 8 ≠ 0 → exec (.bar4Write ⟨off, size⟩ v) s = .next s ∧ exec (.bar4Read ⟨off, size⟩) s = .next (set { h with readData := 0 }))
    ∧ (∀ (e : Event) (rest : List Event), h.go = true → h.evtail - h.evhead ≠ h.evsize → (Tab.get {} src h.sources).held = e :: rest →
        let record := (h.dseqlast + 1).toNat + e.sseq % 2 ^ 32 * 2 ^ 64 + src % 2 ^ 16 * 2 ^ 96 + e.kind % 2 ^ 16 * 2 ^ 112 + e.time.toNat * 2 ^ 128
          + e.hseq.toNat * 2 ^ 192 + e.d0.toNat * 2 ^ 256 + e.d1.toNat * 2 ^ 320 + e.d2.toNat * 2 ^ 384 + e.d3.toNat * 2 ^ 448
        exec (.eventRecordWrite src) s = .next (set { h with
          hmem := Memory.writeN h.hmem (entry h.evbase h.evsize h.evtail) 64 record, dseqlast := h.dseqlast + 1, evtail := h.evtail + 1
          sources := Tab.set src { Tab.get {} src h.sources with held := rest } h.sources }))
    ∧ (h.evtail - h.evhead = h.evsize → exec (.eventRecordWrite src) s = .next s)
    ∧ (let ctx := k.ctxid / 2 ^ 16 % 2 ^ 6
       let slot := k.slot % 4096
       let x := s.ctxOf ctx
       let encrypts := h.go = true ∧ bit (f 0) 4 = true
       let named := x.st = .live ∧ x.asid = k.ctxid % 2 ^ 16 ∧ k.ctxid < 2 ^ 22
       let free := (Tab.get {} slot s.sec.slots).ctx = none
       let authentic := Tab.get .start k.chan s.sec.spdm = .secured true
       let answered (m : Nat) : Sec := { s.sec with answers := (0, BitVec.ofNat 256 m) :: s.sec.answers }
       let refused (m : Nat) := exec (.keyset k) s = .next { s with sec := answered m }
       (¬ encrypts → refused 1)
       ∧ (encrypts → slot = 0 → refused 2)
       ∧ (encrypts → slot ≠ 0 → ¬ free → refused 3)
       ∧ (encrypts → slot ≠ 0 → free → ¬ named → refused 4)
       ∧ (encrypts → slot ≠ 0 → free → named → ¬ authentic → refused 5)
       ∧ (encrypts → slot ≠ 0 → free → named → authentic → exec (.keyset k) s = .next { s with sec := { answered 0 with
           slots := Tab.set slot { ctx := some ctx, dataKey := k.dataKey, tweakKey := k.tweakKey } s.sec.slots } }))
    ∧ (let p := Tab.get .start chan s.sec.spdm
       let tells (l : List (Nat × BitVec 256)) : State := { s with sec := { s.sec with answers := l ++ s.sec.answers } }
       let goes (q : SpdmSt) (l : List (Nat × BitVec 256)) : State :=
         { s with sec := { s.sec with spdm := Tab.set chan q s.sec.spdm, answers := l ++ s.sec.answers } }
       let ask (q : SpdmReq) := exec (.spdmRequest ⟨chan, q⟩) s
       let settled := p = .negotiated ∨ p = .exchanged ∨ p = .secured true ∨ p = .secured false
       ask .getVersion = .next (goes .versioned [(9, 0x13)])
       ∧ (p = .versioned → ask .getCapabilities = .next (goes .capable [(9, 0)]))
       ∧ (p = .capable → ask (.negotiateAlgorithms 0xF) = .next (goes .negotiated [(9, 0xF)]))
       ∧ (settled → ask (.getCertificate 0) = .next (tells [(8, aliasCert s), (5, s.sec.chain)])
         ∧ ask (.getMeasurement 2) = .next (tells [(2, s.sec.payloadDigest)])
         ∧ ask (.getMeasurement 3) = .next (tells [(3, s.sec.ownerRoot), (3, BitVec.ofNat 256 s.sec.svn)])
         ∧ ask (.getMeasurement 4) = .next (tells
             [(4, BitVec.ofNat 256 s.err.fencedDies), (4, BitVec.ofNat 256 s.err.fencedCells), (4, BitVec.ofNat 256 (f 0))]))
       ∧ (¬ settled → ask (.getMeasurement 2) = .next (tells [(7, 0)]) ∧ ask (.getCertificate 0) = .next (tells [(7, 0)]))
       ∧ (∀ c, p = .exchanged → Config.chainRoot c = some s.sec.ownerRoot → ask (.finish (some c)) = .next (goes (.secured true) [(9, 0)]))
       ∧ (p = .exchanged → ask (.finish none) = .next (goes (.secured false) [(9, 0)]))
       ∧ (p = .secured true → ask .endSession = .next (goes .negotiated [(9, 0)])))

/-- Power, heat and suspend (R6, R381, R382, R388 to R396, R404): a cold start leaves memory, cells, contexts and queues empty and the
package ready where an image passes its checks; power removal ends the span; a corrected error is counted; the throttle moves one step at
a time, not twice within 1 ms, and up only after 10 ms below the limits; a thermal trip reports and drops the rails; at T tasks are marked
to freeze and the cut markers go out; once all is still the state is kept in retention under the suspend key, the TLBs with it (R323) and
the caches not; a resume verifies an image first, bumps every RDC generation (R255) and awaits T′, and then frozen tasks go on and what was
kept back is sent. What a power-up finds is log entry 26, the freeze and the order of a resume entry 33, the throttle and the repairs
entry 34. -/
def Obligations.PowerAndSuspend : Prop :=
  ∀ (s : State) (p : PowerUp) (pa tj link n : Nat) (therm pwr : Bool) (tt : Word) (again : Option Word),
    let th := s.thr
    let free := ∀ c, th.changed = some c → 4000000 ≤ (s.rt - c).toNat
    let cool := ∀ c, th.hot = some c → 40000000 ≤ (s.rt - c).toNat
    let off (t : State) : State := { t with powered := false, susp := .none, host := { t.host with ready := false } }
    let at_ (t : Word) := s.landing = false ∧ t.toNat ≤ s.rt.toNat
    let dark := s.powered = false ∨ s.host.ready = false
    let boots := bankOk s p s.sec.active = true ∨ bankOk s p (1 - s.sec.active) = true
    (dark → s.susp ≠ .retained → ∃ t, exec (.powerGood p) s = .next t ∧ t.mem = [] ∧ t.cells = [] ∧ t.ctxs = [] ∧ t.accs = []
        ∧ t.conds = [] ∧ t.recs = [] ∧ t.time.rt = 0 ∧ t.err.fencedCells = p.fencedCells ||| cellsOf p.fencedDies
        ∧ t.err.fencedDies = p.fencedDies ∧ t.sec.slots = [] ∧ t.sec.suspendKey = 0
        ∧ (t.host.ready = true ↔ ∃ b, bootBank s p = some b) ∧ t.host.go = false)
    ∧ (dark → s.susp = .retained → ¬ boots ∨ s.sec.area ≠ some s.sec.suspendKey → exec (.powerGood p) s = .next { s with powered := true })
    ∧ (dark → s.susp = .retained → boots → s.sec.area = some s.sec.suspendKey → p.fencedCells = 0 → p.fencedDies = 0 → s.err.repairRows = [] →
        s.prism.members = 0 →
      ∃ t, exec (.powerGood p) s = .next t ∧ t.powered = true ∧ t.host.ready = true ∧ t.susp = .restored none none ∧ t.cells = s.cells
        ∧ t.conds = s.conds ∧ t.mem = s.mem
        ∧ (∀ q ∈ s.ctxs, t.ctxOf q.1 = { s.ctxOf q.1 with rdcgen := (t.ctxOf q.1).rdcgen }
          ∧ ((s.ctxs.map (·.1)).Nodup → ∀ d < 8, Tab.get 0 d (t.ctxOf q.1).rdcgen = Tab.get 0 d (s.ctxOf q.1).rdcgen + 1))
        ∧ t.prism.epoch = (s.prism.epoch + 1) % 2 ^ 16 ∧ t.time = s.time
        ∧ (∀ w, 0 < w → w < 8 → Tab.get 0 w t.prism.epochs = (Tab.get 0 w s.prism.epochs + 1) % 2 ^ 16))
    ∧ exec .powerRemoval s = .next (off s)
    ∧ (s.powered = true → exec (.thermalTrip) s = .next (off (hostEvent 0 0x20 0 4 0 allOnes
        (BitVec.ofNat 64 (min (2 ^ 64 - 1) (Tab.get 0 0 s.err.ue))) s)))
    ∧ (s.powered = true → exec (.tjMeasurement tj) s = .next { s with
        thr := { th with tj := tj % 256, hot := if 95 < tj % 256 then some s.rt else th.hot } })
    ∧ (s.powered = true → therm = true ∨ pwr = true →
      (th.step < 3 → free → exec (.throttleStepDown therm pwr) s = .next { s with
        thr := { th with step := th.step + 1, therm := th.therm || therm, pwr := th.pwr || pwr, changed := some s.rt, hot := some s.rt } })
      ∧ (¬ free ∨ 3 ≤ th.step → exec (.throttleStepDown therm pwr) s = .next { s with thr := { th with hot := some s.rt } }))
    ∧ (s.powered = true → free → cool →
      (1 < th.step → exec .throttleStepUp s = .next { s with thr := { th with step := th.step - 1, changed := some s.rt } })
      ∧ (th.step = 1 → exec .throttleStepUp s = .next { s with
          thr := { th with step := 0, therm := false, pwr := false, changed := some s.rt } }))
    ∧ (¬ free ∨ ¬ cool → exec .throttleStepUp s = .next s)
    ∧ (s.powered = true → pa < 2 ^ 39 → bit s.err.fencedDies (pa / 2 ^ 36) = false → s.err.badHbm.contains (pa / 32 * 32) = false →
        let r := Config.hbmRow pa
        let l := (r, s.rt) :: s.err.rowCe.filter fun q => decide ((s.rt - q.2).toNat ≤ 86400 * 4000000000)
        let often := 16 ≤ (l.filter fun q => q.1 == r).length ∧ ∀ a ∈ s.err.repairRows, Config.hbmRow a ≠ r
        exec (.patrolScrub pa true) s = .next (countCorrected (1 + pa / 2 ^ 36) (0x10 + pa / 2 ^ 36) 0x01 (BitVec.ofNat 64 pa)
          { s with err := { s.err with rowCe := l, repairRows := if often then pa :: s.err.repairRows else s.err.repairRows } }))
    ∧ (s.susp = .armed tt ∨ s.susp = .restored again (some tt) → s.powered = true → at_ tt →
      ∃ t, exec .suspendFreeze s = .next t ∧ t.susp = .frozen ∧ t.mem = s.mem
        ∧ (∀ c k, (s.slot c k).st = .run ∨ (s.slot c k).st = .parked ∨ (s.slot c k).st = .preload →
            t.slot c k = { s.slot c k with freezing := some .suspend, freezeNext := (s.slot c k).freezing })
        ∧ t.outbox = s.outbox ++ (cutLinks s).flatMap fun l =>
            if l < 16 then [.cutMarker l (Tab.get 0 0 (s.link l).sent), .cutMarker l (Tab.get 0 1 (s.link l).sent)]
            else [.cutMarker l (Tab.get {} (l - 16) s.ports).txSeq])
    ∧ (s.susp = .frozen →
      (link < 16 → exec (.cutMarker link n) s = .next (s.updLink link fun y => { y with seq := n, cut := true }))
      ∧ (16 ≤ link → link < 34 → exec (.cutMarker link n) s = .next (s.updPort (link - 16) fun y => { y with seq := n, cut := true })))
    ∧ (s.susp = .frozen → s.landing = false → allCut s = true → enginesStill s = true →
      ∃ t, exec .suspendSave s = .next t ∧ t.susp = .retained ∧ t.powered = false ∧ t.host.ready = false ∧ t.mem = s.mem ∧ t.ctxs = s.ctxs
        ∧ t.conds = s.conds ∧ t.rdc = [] ∧ t.l1 = [] ∧ t.dirs = [] ∧ t.accs = s.accs ∧ t.sec.area = some s.sec.suspendKey
        ∧ (∀ c, (t.cell c).regs = (s.cell c).regs ∧ (t.cell c).tlb = (s.cell c).tlb))
    ∧ (s.susp = .frozen → allCut s = false ∨ enginesStill s = false → exec .suspendSave s = .next s)
    ∧ (s.susp = .restored (some tt) again → s.powered = true → s.mirHold = false → at_ tt → ∃ t, exec .resumeAtTPrime s = .next t
        ∧ t.susp = (match again with | some u => .armed u | none => .none) ∧ t.replyq = []
        ∧ t.outbox = s.outbox ++ s.replyq ∧ t.mem = s.mem
        ∧ (∀ c k, (s.slot c k).st ≠ .frozen → t.slot c k = s.slot c k))

/-- R102: FCLASS sets the one bit of its destination that names the class of its operand, in either precision, and clears all others. -/
def Obligations.FClassSetsOneBit : Prop :=
  ∀ (s : State) (x : FmtA), AgentOk s.cur.agent = true →
    let double := bit x.f 9
    let a := (s.rs x.a).toNat
    let sign := bit a (if double then 63 else 31)
    let expo := if double then a / 2 ^ 52 % 2 ^ 11 else a / 2 ^ 23 % 2 ^ 8
    let frac := if double then a % 2 ^ 52 else a % 2 ^ 23
    let most := if double then 2047 else 255
    let cls :=
      if expo = most then (if frac ≠ 0 then 8 else if sign then 0 else 7)
      else if expo = 0 then (if frac = 0 then (if sign then 3 else 4) else if sign then 2 else 5)
      else if sign then 1 else 6
    CompletesS (.fclass x) s x.d (BitVec.ofNat 64 (2 ^ cls)) 2

/-- R81: the listed opcodes are not instructions. A word with one of them decodes to nothing for any strand kind, and an agent that may
issue and finds one at its PC takes a precise illegal-instruction trap with sub-code 1 and no other effect; a word of zeros is one. -/
def Obligations.OpcodesThatTrap : Prop :=
  ∀ op : Nat, op = 0x00 ∨ (0x28 ≤ op ∧ op ≤ 0x2F) ∨ op = 0x3B ∨ (0x4B ≤ op ∧ op ≤ 0x4F) ∨ (0x69 ≤ op ∧ op ≤ 0x6F)
      ∨ (0x9E ≤ op ∧ op ≤ 0xAF) ∨ (0xC9 ≤ op ∧ op ≤ 0xCF) ∨ (0xD9 ≤ op ∧ op ≤ 0xDF) ∨ (0xEA ≤ op ∧ op ≤ 0xFF) →
    (∀ (k : Kind) (w lit : Nat), w / 2 ^ 40 % 2 ^ 8 = op → decode k w lit = .error .opcode)
    ∧ (∀ (s t : State) (a : Agent) (rest : List Move) (w : Word), s.agenda = .issue a :: rest →
        let u : State := { s with agenda := rest }
        timeDue u = none → mayIssue u a = true → outranked u a = false → fetchWord a (u.pcOf a) u = (.word w, t) → w.toNat / 2 ^ 40 % 2 ^ 8 = op →
        let pc := u.pcOf a
        let cur : Cur := { agent := a, pc := pc, hdr := Hdr.dec w.toNat, word := w, seq := t.seq, len := 1 }
        let v := takeFault a { kind := 0, code := 0x01, sub := 1, fpc := pc, rpc := pc, len := 1 } (takePlace { t with cur := cur })
        step s = .next { v with free := v.free + 1, cur := { v.cur with done := false } })

/-- The checks of a word in their order (R26, R29, R79, R82, R83): the first that fails decides, and a word that passes them all is an
instruction. -/
def Obligations.ChecksOfAWord : Prop :=
  ∀ (k : Kind) (w lit : Nat),
    let op := w / 2 ^ 40 % 2 ^ 8
    let x := w % 2 ^ 36
    let wb := w / 2 ^ 56 % 2 ^ 8
    let sb := w / 2 ^ 48 % 2 ^ 8
    let gd := w / 2 ^ 36 % 2 ^ 4
    let legal := opLegal op = true
    let strand := strandOk k op = true
    let signals := waitSigOk k wb sb = true
    (¬ legal → decode k w lit = .error .opcode)
    ∧ (legal → ¬ strand → decode k w lit = .error .strand)
    ∧ (legal → strand → ¬ signals → decode k w lit = .error .waitSignal)
    ∧ (legal → strand → signals → gd = 8 → decode k w lit = .error .guard)
    ∧ (legal → strand → signals → gd ≠ 8 → ok5 k op x lit = false → decode k w lit = .error .fieldValue)
    ∧ (legal → strand → signals → gd ≠ 8 → ok5 k op x lit = true → ok6 k op x = false → decode k w lit = .error .mustBeZero)
    ∧ (legal → strand → signals → gd ≠ 8 → ok5 k op x lit = true → ok6 k op x = true → ∃ i, decode k w lit = .ok (⟨wb, sb, gd⟩, i))

/-- A few words of the manual decode to the instructions that it names (R73 to R80 and the worked examples). -/
def Obligations.WordsOfTheManual : Prop :=
  decodeTableWord 64 0x00000100C4140000 = some (.add ⟨3, 4, 5, 0, 0⟩)
  ∧ decodeTableWord 64 0x0000020082FFFFF8 = some (.addi ⟨2, 2, 0xFFFFF8⟩)
  ∧ decodeTableWord 128 0x0123456789ABCDEF0000250500000000 = some (.liw ⟨20, 0, 0⟩ 0x0123456789ABCDEF#64)
  ∧ decodeTableWord 64 0x00003D01004FFFFB = some (.bne ⟨4, 0, 1, 0, 0xFFFFB⟩)
  ∧ decodeTableWord 64 0x0000500189291010 = some (.ld ⟨6, 9, 2, 2, 2, 1, 16⟩)
  ∧ decodeTableWord 64 0x00005D018900874A = some (.pst ⟨6, 9, 0, 2, 1, 3, 2, 10⟩)
  ∧ decodeTableWord 64 0x002273B214C73010 = some (.vfma ⟨4, 5, 6, 7, 12, 0, 1, 0⟩)
  ∧ decodeTableWord 64 0x0042B10126500400 = some (.tfill ⟨1, 2, 1, 1, 10, 0, 1, 0⟩)
  ∧ decodeTableWord 64 0x0000C00A8D158140 = some (.mma ⟨5, 2, 3, 4, 5, 6, 0, 0, 2, 2, 0⟩)
  ∧ decodeTableWord 64 0x0000E00140012000 = some (.sysr ⟨5, 0, 0x012, 0⟩)
  ∧ decodeTableWord 64 0x0000C7000E029000 = some (.kset ⟨0, 14, 0, 41, 0⟩)
  ∧ decode .A 0x0000700000000000 0 = .error .strand ∧ decode .S 0x00230100C4140000 0 = .error .waitSignal
  ∧ decode .S 0x00000180C4140000 0 = .error .guard ∧ decode .A 0x00005001892B9010 0 = .error .fieldValue
  ∧ decode .X 0x00000100C4140001 0 = .error .mustBeZero ∧ decode .S 0x00230180C4140000 0 = .error .waitSignal

/-- Decoding gives back every well-formed instruction with its header, operand for operand, whatever bytes follow it (R73 to R80). -/
def Obligations.DecodeOfEncode : Prop :=
  ∀ (k : Kind) (h : Hdr) (i : Instr) (rest : List Byte), i.wf k h = true → decodeBytes k (encode h i ++ rest) = .ok ((h, i), rest)

/-- A write to memory is read back, leaves every other byte as it was, keeps memory in its canonical form (R8, R328, R329), and takes the
copies of what it overlaps from the L1s (R252). -/
def Obligations.MemoryReadsBack : Prop :=
  ∀ (s : State) (who pa n v key : Nat), MemoryOk s →
    let t := s.memWrite who pa n v key
    Wrote s t pa n v key ∧ t.memRead pa n key = v % 256 ^ n ∧ MemoryOk t
      ∧ t = { s with mem := t.mem, keyTag := t.keyTag, oldWords := t.oldWords, err := t.err, l1 := s.l1.filter fun q => !overlap q.pa 64 pa n }

/-- Every step keeps memory and the table of key slots in their canonical form. -/
def Obligations.EveryStepKeepsMemory : Prop :=
  ∀ s t : State, step s = .next t → MemoryOk s → MemoryOk t

/-- A step always answers a next state: no state and no move ends a run, and no instruction is refused or faults the machine; what the
manual calls a fault is taken as an exception (R28, R203, R217). -/
def Obligations.EveryStepAnswers : Prop :=
  (∀ s : State, ∃ t, step s = .next t) ∧ ∀ (i : Instr) (s : State), ∃ t, exec i s = .next t

/-- A step runs the decoded instruction (R26 to R30, R46, R47, R83, R107, R108, R131, R201, R208, R221, R392, R394): where no step that
Reticle time has brought about is due, an agent may issue, is not outranked, and finds at its PC a word, with what that needs after it,
that decodes, and the terms of its wait are met, the step is `exec` of that instruction in the state in which it is the current one, of
an ERET what its conductor's ERCTL makes it, with the count of a REP after it, and an acquire where it was issued under the bar condition;
guarded off, it only issues; a source that cannot be corrected is its fault; a word that does not decode takes the trap of its sub-code,
and so does an ADRN .nan into a tensor of another type than E4M3. A step that is due comes first (log entry 30). Of two checks the one
that R83 lists first decides (log entry 17).

What a word of memory is to a conductor's fetch, and where an instruction stands for it (R8, R296): eight bytes of its own memories,
little-endian, as they stand (log entry 58). -/
def Obligations.StepRunsTheInstruction : Prop :=
  (∀ (s t t' u : State) (a : Agent) (rest : List Move) (w lit nx nl : Word) (h : Hdr) (i : Instr), s.agenda = .issue a :: rest →
      let r : State := { s with agenda := rest }
      let pc := r.pcOf a
      let op := w.toNat / 2 ^ 40 % 2 ^ 8
      let settled (z : State) : State := { z with free := z.free + 1, cur := { z.cur with done := false } }
      (∀ j, timeDue r = some j → step s = .next (settled { r with agenda := .event j :: .issue a :: rest }))
      ∧ (r.held = [] → r.susp = .none → timeDue r = none)
      ∧ (timeDue r = none → mayIssue r a = true → outranked r a = false → fetchWord a pc r = (.word w, t) →
      let n := if hasLit op then 2 else 1
      let first : Cur := { agent := a, pc := pc, hdr := Hdr.dec w.toNat, word := w, seq := t.seq, len := n }
      let cur : Cur := { first with lit := lit, next := nx, nextLit := nl }
      let v : State := { u with cur := cur, seq := u.seq + 2 }
      let acquires (z : State) : State :=
        if z.cur.done = true ∧ z.cur.hdr.wb % 2 ^ 3 = 3 then acquireBump a (v.ctxNum a) 2 z else z
      let traps (sub : Nat) (z : State) : Prop :=
        step s = .next (settled (takeFault a { kind := 0, code := 0x01, sub := sub, fpc := pc, rpc := pc, len := n } (takePlace z)))
      let k := agentKind a
      let instr := match i with
        | .eret z => (match v.ercl.toNat / 2 ^ 62 with | 1 => .eretKill z | 2 => .eretSkip z | _ => .eret z)
        | j => j
      (nanRefused t a w.toNat = true → ∀ q, decode k w.toNat 0 = .ok q → traps 5 { t with cur := first })
      ∧ (nanRefused t a w.toNat = true → ∀ e, decode k w.toNat 0 = .error e → op ≠ 0xB2 → traps (if e.sub = 6 then 5 else e.sub) { t with cur := first })
      ∧ (nanRefused t a w.toNat = false → ∀ e, decode k w.toNat 0 = .error e → op ≠ 0xB2 ∨ e.sub ≤ 4 → traps e.sub { t with cur := first })
      ∧ (nanRefused t a w.toNat = false → (hasLit op = true → fetchWord a (pc + 8) t = (.word lit, u)) →
        (hasLit op = false → op ≠ 0x47 → lit = 0 ∧ u = t) → (op ≠ 0x47 → nx = 0 ∧ nl = 0) →
        (op = 0x47 → lit = 0 ∧ fetchWord a (pc + 8) t = (.word nx, t') ∧ (hasLit (nx.toNat / 2 ^ 40 % 2 ^ 8) = false → nl = 0 ∧ u = t')
          ∧ (hasLit (nx.toNat / 2 ^ 40 % 2 ^ 8) = true → fetchWord a (pc + 16) t' = (.word nl, u))) →
        (nanRefused u a w.toNat = false → decode k w.toNat lit.toNat = .ok (h, i) → termsMet v = true →
          let runs := guardHolds (v.qpred a) h.gd = true
          (v.repeating a = false →
            (runs → badSource v a op w.toNat = none → ∀ z, exec instr v = .next z → step s = .next (settled (acquires z)))
            ∧ (¬ runs → step s = .next (settled (acquires (guardedOff v)))))
          ∧ (v.repeating a = true →
            (runs → badSource v a op w.toNat = none → ∀ z z', exec instr v = .next z →
              (z.cur.done = false → step s = .next (settled z))
              ∧ (z.cur.done = true → exec (.repRepetition z.cur.agent) z = .next z' → step s = .next (settled (acquires z'))))
            ∧ (¬ runs → ∀ z, exec (.repRepetition a) (guardedOff v) = .next z → step s = .next (settled (acquires z))))
          ∧ (runs → ∀ off, badSource v a op w.toNat = some off → step s = .next (settled (takeFault a
              { kind := 0, code := 0x08, fpc := pc, rpc := pc, addr := BitVec.ofNat 64 off, aux := 0x06, len := n } (takePlace v)))))
        ∧ (op = 0xB2 → ∀ e, decode k w.toNat lit.toNat = .error e → e.sub ≥ 5 → traps e.sub { u with cur := cur }))))
  ∧ (∀ (s : State) (n o : Nat), o + 8 ≤ 0x100000 →
      fetchWord (.cond n) (BitVec.ofNat 64 (0x00FFFF0000000000 + o)) s = (.word (BitVec.ofNat 64 (Memory.readN (s.condOf n).imem o 8)), s))

/-- The machine after reset (R7, R11, R12, R18, R325, R362, R373, R374, R381; what no rule gives is the model's choice, log entry 1): every byte
of memory reads zero, no context, task, access, packet or report exists and no L1 holds a copy, every conductor is stopped with registers of
zero, the rings have their reset sizes, no feature is accepted, neither READY nor GO is set, Reticle starts at 0 and is disciplined, and
memory is canonical. -/
def Obligations.StateAfterReset : Prop :=
  let s := State.reset
  (∀ pa, s.byteAt pa 0 = 0) ∧ MemoryOk s ∧ s.powered = true ∧ s.susp = .none
    ∧ (∀ n, (s.ctxOf n).st = .absent) ∧ (∀ c k, (s.slot c k).st = .free) ∧ (∀ c o, Memory.read o (s.cell c).regs = 0)
    ∧ (∀ c, (s.cell c).lens = [] ∧ (s.cell c).tlb = []) ∧ s.accs = [] ∧ s.reports = [] ∧ s.recs = [] ∧ s.packets = [] ∧ s.l1 = []
    ∧ (∀ n, (s.condOf n).st = .stopped ∧ ∀ i, Tab.get 0 i (s.condOf n).regs = 0)
    ∧ s.host.cmdsize = 64 ∧ s.host.evsize = 64 ∧ s.host.cmdtail = 0 ∧ s.host.cmdhead = 0 ∧ s.host.evtail = 0 ∧ s.host.evhead = 0
    ∧ s.host.hseqlast = 0 ∧ s.host.dseqlast = 0 ∧ (∀ i, Tab.get 0 i s.host.feata = 0) ∧ s.host.ready = false ∧ s.host.go = false
    ∧ s.host.winbase = 0 ∧ s.time.rt = 0 ∧ s.time.holdover = false ∧ s.thr.step = 0 ∧ s.err.ce = [] ∧ s.err.ue = []
    ∧ (∀ k, freshStrand 0x40#64 k = { pc := 0x40#64, rotv := k }) ∧ ({} : Strand).qpred = 0 ∧ ({} : Strand).nbt = 0
    ∧ ({} : Strand).barsel = 0 ∧ ({} : Strand).defsel = 0 ∧ ({} : Strand).k = [] ∧ ({} : Strand).ks = [] ∧ ({} : Strand).slate = []
end

