-- ==== Sys2Proof/Laws/Exec.lean ====
section
/-! SUPPORT. Each arm of `exec`, by name: what stands for an instruction is its meaning. -/

namespace Sys2Proof.Machine

open Sys2Proof

theorem exec_add (x0 : FmtA) (s : State) : exec (.add x0) s = execAdd x0 s := rfl
theorem exec_addi (x0 : FmtI) (s : State) : exec (.addi x0) s = execAddi x0 s := rfl
theorem exec_sub (x0 : FmtA) (s : State) : exec (.sub x0) s = execSub x0 s := rfl
theorem exec_mul (x0 : FmtA) (s : State) : exec (.mul x0) s = execMul x0 s := rfl
theorem exec_mulh (x0 : FmtA) (s : State) : exec (.mulh x0) s = execMulh x0 s := rfl
theorem exec_mulhn (x0 : FmtA) (s : State) : exec (.mulhn x0) s = execMulhn x0 s := rfl
theorem exec_madd (x0 : FmtA) (s : State) : exec (.madd x0) s = execMadd x0 s := rfl
theorem exec_div (x0 : FmtA) (s : State) : exec (.div x0) s = execDiv x0 s := rfl
theorem exec_divn (x0 : FmtA) (s : State) : exec (.divn x0) s = execDivn x0 s := rfl
theorem exec_rem (x0 : FmtA) (s : State) : exec (.rem x0) s = execRem x0 s := rfl
theorem exec_remn (x0 : FmtA) (s : State) : exec (.remn x0) s = execRemn x0 s := rfl
theorem exec_and (x0 : FmtA) (s : State) : exec (.and x0) s = execAnd x0 s := rfl
theorem exec_andi (x0 : FmtI) (s : State) : exec (.andi x0) s = execAndi x0 s := rfl
theorem exec_or (x0 : FmtA) (s : State) : exec (.or x0) s = execOr x0 s := rfl
theorem exec_ori (x0 : FmtI) (s : State) : exec (.ori x0) s = execOri x0 s := rfl
theorem exec_xor (x0 : FmtA) (s : State) : exec (.xor x0) s = execXor x0 s := rfl
theorem exec_andn (x0 : FmtA) (s : State) : exec (.andn x0) s = execAndn x0 s := rfl
theorem exec_shl (x0 : FmtA) (s : State) : exec (.shl x0) s = execShl x0 s := rfl
theorem exec_shli (x0 : FmtI) (s : State) : exec (.shli x0) s = execShli x0 s := rfl
theorem exec_shr (x0 : FmtA) (s : State) : exec (.shr x0) s = execShr x0 s := rfl
theorem exec_shri (x0 : FmtI) (s : State) : exec (.shri x0) s = execShri x0 s := rfl
theorem exec_sha (x0 : FmtA) (s : State) : exec (.sha x0) s = execSha x0 s := rfl
theorem exec_shai (x0 : FmtI) (s : State) : exec (.shai x0) s = execShai x0 s := rfl
theorem exec_rol (x0 : FmtA) (s : State) : exec (.rol x0) s = execRol x0 s := rfl
theorem exec_clz (x0 : FmtA) (s : State) : exec (.clz x0) s = execClz x0 s := rfl
theorem exec_ctz (x0 : FmtA) (s : State) : exec (.ctz x0) s = execCtz x0 s := rfl
theorem exec_pcnt (x0 : FmtA) (s : State) : exec (.pcnt x0) s = execPcnt x0 s := rfl
theorem exec_min (x0 : FmtA) (s : State) : exec (.min x0) s = execMin x0 s := rfl
theorem exec_max (x0 : FmtA) (s : State) : exec (.max x0) s = execMax x0 s := rfl
theorem exec_minn (x0 : FmtA) (s : State) : exec (.minn x0) s = execMinn x0 s := rfl
theorem exec_maxn (x0 : FmtA) (s : State) : exec (.maxn x0) s = execMaxn x0 s := rfl
theorem exec_slt (x0 : FmtA) (s : State) : exec (.slt x0) s = execSlt x0 s := rfl
theorem exec_sltn (x0 : FmtA) (s : State) : exec (.sltn x0) s = execSltn x0 s := rfl
theorem exec_seq (x0 : FmtA) (s : State) : exec (.seq x0) s = execSeq x0 s := rfl
theorem exec_sel (x0 : FmtA) (s : State) : exec (.sel x0) s = execSel x0 s := rfl
theorem exec_li (x0 : FmtI) (s : State) : exec (.li x0) s = execLi x0 s := rfl
theorem exec_liw (x0 : FmtI) (x1 : Word) (s : State) : exec (.liw x0 x1) s = execLiw x0 x1 s := rfl
theorem exec_bext (x0 : FmtA) (s : State) : exec (.bext x0) s = execBext x0 s := rfl
theorem exec_bins (x0 : FmtA) (s : State) : exec (.bins x0) s = execBins x0 s := rfl
theorem exec_fadd (x0 : FmtA) (s : State) : exec (.fadd x0) s = execFadd x0 s := rfl
theorem exec_fsub (x0 : FmtA) (s : State) : exec (.fsub x0) s = execFsub x0 s := rfl
theorem exec_fmul (x0 : FmtA) (s : State) : exec (.fmul x0) s = execFmul x0 s := rfl
theorem exec_fdiv (x0 : FmtA) (s : State) : exec (.fdiv x0) s = execFdiv x0 s := rfl
theorem exec_fsqrt (x0 : FmtA) (s : State) : exec (.fsqrt x0) s = execFsqrt x0 s := rfl
theorem exec_ffma (x0 : FmtA) (s : State) : exec (.ffma x0) s = execFfma x0 s := rfl
theorem exec_fmin (x0 : FmtA) (s : State) : exec (.fmin x0) s = execFmin x0 s := rfl
theorem exec_fmax (x0 : FmtA) (s : State) : exec (.fmax x0) s = execFmax x0 s := rfl
theorem exec_fcmp (x0 : FmtA) (s : State) : exec (.fcmp x0) s = execFcmp x0 s := rfl
theorem exec_fcvt (x0 : FmtA) (s : State) : exec (.fcvt x0) s = execFcvt x0 s := rfl
theorem exec_fclass (x0 : FmtA) (s : State) : exec (.fclass x0) s = execFclass x0 s := rfl
theorem exec_beq (x0 : FmtB) (s : State) : exec (.beq x0) s = execBeq x0 s := rfl
theorem exec_bne (x0 : FmtB) (s : State) : exec (.bne x0) s = execBne x0 s := rfl
theorem exec_blt (x0 : FmtB) (s : State) : exec (.blt x0) s = execBlt x0 s := rfl
theorem exec_bge (x0 : FmtB) (s : State) : exec (.bge x0) s = execBge x0 s := rfl
theorem exec_bltn (x0 : FmtB) (s : State) : exec (.bltn x0) s = execBltn x0 s := rfl
theorem exec_bgen (x0 : FmtB) (s : State) : exec (.bgen x0) s = execBgen x0 s := rfl
theorem exec_jmp (x0 : FmtB) (s : State) : exec (.jmp x0) s = execJmp x0 s := rfl
theorem exec_jal (x0 : FmtB) (s : State) : exec (.jal x0) s = execJal x0 s := rfl
theorem exec_jr (x0 : FmtA) (s : State) : exec (.jr x0) s = execJr x0 s := rfl
theorem exec_loopi (x0 : FmtI) (s : State) : exec (.loopi x0) s = execLoopi x0 s := rfl
theorem exec_loop (x0 : FmtB) (s : State) : exec (.loop x0) s = execLoop x0 s := rfl
theorem exec_rep (x0 : FmtI) (s : State) : exec (.rep x0) s = execRep x0 s := rfl
theorem exec_repRepetition (x0 : Agent) (s : State) : exec (.repRepetition x0) s = execRepRepetition x0 s := rfl
theorem exec_yield (x0 : FmtZ) (s : State) : exec (.yield x0) s = execYield x0 s := rfl
theorem exec_endStrand (x0 : FmtZ) (s : State) : exec (.endStrand x0) s = execEndStrand x0 s := rfl
theorem exec_nop (x0 : FmtZ) (s : State) : exec (.nop x0) s = execNop x0 s := rfl
theorem exec_ld (x0 : FmtM) (s : State) : exec (.ld x0) s = execLd x0 s := rfl
theorem exec_st (x0 : FmtM) (s : State) : exec (.st x0) s = execSt x0 s := rfl
theorem exec_prefL1 (x0 : FmtM) (s : State) : exec (.prefL1 x0) s = execPrefL1 x0 s := rfl
theorem exec_prefL2 (x0 : FmtM) (s : State) : exec (.prefL2 x0) s = execPrefL2 x0 s := rfl
theorem exec_cinvLine (x0 : FmtM) (s : State) : exec (.cinvLine x0) s = execCinvLine x0 s := rfl
theorem exec_cinvDie (x0 : FmtM) (s : State) : exec (.cinvDie x0) s = execCinvDie x0 s := rfl
theorem exec_cinvPkg (x0 : FmtM) (s : State) : exec (.cinvPkg x0) s = execCinvPkg x0 s := rfl
theorem exec_amo (x0 : FmtP) (s : State) : exec (.amo x0) s = execAmo x0 s := rfl
theorem exec_cas (x0 : FmtP) (s : State) : exec (.cas x0) s = execCas x0 s := rfl
theorem exec_fence (x0 : FmtI) (s : State) : exec (.fence x0) s = execFence x0 s := rfl
theorem exec_vld (x0 : FmtM) (s : State) : exec (.vld x0) s = execVld x0 s := rfl
theorem exec_vst (x0 : FmtM) (s : State) : exec (.vst x0) s = execVst x0 s := rfl
theorem exec_vgth (x0 : FmtA) (s : State) : exec (.vgth x0) s = execVgth x0 s := rfl
theorem exec_vsct (x0 : FmtA) (s : State) : exec (.vsct x0) s = execVsct x0 s := rfl
theorem exec_stat (x0 : FmtP) (s : State) : exec (.stat x0) s = execStat x0 s := rfl
theorem exec_ldnb (x0 : FmtP) (s : State) : exec (.ldnb x0) s = execLdnb x0 s := rfl
theorem exec_pld (x0 : FmtP) (s : State) : exec (.pld x0) s = execPld x0 s := rfl
theorem exec_pst (x0 : FmtP) (s : State) : exec (.pst x0) s = execPst x0 s := rfl
theorem exec_pamo (x0 : FmtP) (s : State) : exec (.pamo x0) s = execPamo x0 s := rfl
theorem exec_pcas (x0 : FmtP) (s : State) : exec (.pcas x0) s = execPcas x0 s := rfl
theorem exec_pstat (x0 : FmtP) (s : State) : exec (.pstat x0) s = execPstat x0 s := rfl
theorem exec_pldnb (x0 : FmtP) (s : State) : exec (.pldnb x0) s = execPldnb x0 s := rfl
theorem exec_mcst (x0 : FmtP) (s : State) : exec (.mcst x0) s = execMcst x0 s := rfl
theorem exec_bst (x0 : FmtP) (s : State) : exec (.bst x0) s = execBst x0 s := rfl
theorem exec_bamo (x0 : FmtP) (s : State) : exec (.bamo x0) s = execBamo x0 s := rfl
theorem exec_bld (x0 : FmtP) (s : State) : exec (.bld x0) s = execBld x0 s := rfl
theorem exec_mcpy (x0 : FmtA) (s : State) : exec (.mcpy x0) s = execMcpy x0 s := rfl
theorem exec_mcpyFp (x0 : FmtA) (s : State) : exec (.mcpyFp x0) s = execMcpyFp x0 s := rfl
theorem exec_mcpyHash (x0 : FmtA) (s : State) : exec (.mcpyHash x0) s = execMcpyHash x0 s := rfl
theorem exec_mcmp (x0 : FmtA) (s : State) : exec (.mcmp x0) s = execMcmp x0 s := rfl
theorem exec_vadd (x0 : FmtV) (s : State) : exec (.vadd x0) s = execVadd x0 s := rfl
theorem exec_vsub (x0 : FmtV) (s : State) : exec (.vsub x0) s = execVsub x0 s := rfl
theorem exec_vmul (x0 : FmtV) (s : State) : exec (.vmul x0) s = execVmul x0 s := rfl
theorem exec_vfma (x0 : FmtV) (s : State) : exec (.vfma x0) s = execVfma x0 s := rfl
theorem exec_vfms (x0 : FmtV) (s : State) : exec (.vfms x0) s = execVfms x0 s := rfl
theorem exec_vmin (x0 : FmtV) (s : State) : exec (.vmin x0) s = execVmin x0 s := rfl
theorem exec_vmax (x0 : FmtV) (s : State) : exec (.vmax x0) s = execVmax x0 s := rfl
theorem exec_vabs (x0 : FmtV) (s : State) : exec (.vabs x0) s = execVabs x0 s := rfl
theorem exec_vneg (x0 : FmtV) (s : State) : exec (.vneg x0) s = execVneg x0 s := rfl
theorem exec_vand (x0 : FmtV) (s : State) : exec (.vand x0) s = execVand x0 s := rfl
theorem exec_vor (x0 : FmtV) (s : State) : exec (.vor x0) s = execVor x0 s := rfl
theorem exec_vxor (x0 : FmtV) (s : State) : exec (.vxor x0) s = execVxor x0 s := rfl
theorem exec_vnot (x0 : FmtV) (s : State) : exec (.vnot x0) s = execVnot x0 s := rfl
theorem exec_vshl (x0 : FmtV) (s : State) : exec (.vshl x0) s = execVshl x0 s := rfl
theorem exec_vshr (x0 : FmtV) (s : State) : exec (.vshr x0) s = execVshr x0 s := rfl
theorem exec_vsha (x0 : FmtV) (s : State) : exec (.vsha x0) s = execVsha x0 s := rfl
theorem exec_vcmp (x0 : FmtV) (s : State) : exec (.vcmp x0) s = execVcmp x0 s := rfl
theorem exec_vsel (x0 : FmtV) (s : State) : exec (.vsel x0) s = execVsel x0 s := rfl
theorem exec_vmov (x0 : FmtV) (s : State) : exec (.vmov x0) s = execVmov x0 s := rfl
theorem exec_vbcst (x0 : FmtV) (s : State) : exec (.vbcst x0) s = execVbcst x0 s := rfl
theorem exec_viota (x0 : FmtV) (s : State) : exec (.viota x0) s = execViota x0 s := rfl
theorem exec_vext (x0 : FmtV) (s : State) : exec (.vext x0) s = execVext x0 s := rfl
theorem exec_vins (x0 : FmtV) (s : State) : exec (.vins x0) s = execVins x0 s := rfl
theorem exec_vcvt (x0 : FmtV) (s : State) : exec (.vcvt x0) s = execVcvt x0 s := rfl
theorem exec_vcvts (x0 : FmtV) (s : State) : exec (.vcvts x0) s = execVcvts x0 s := rfl
theorem exec_vpack (x0 : FmtV) (s : State) : exec (.vpack x0) s = execVpack x0 s := rfl
theorem exec_vunpk (x0 : FmtV) (s : State) : exec (.vunpk x0) s = execVunpk x0 s := rfl
theorem exec_vrcp (x0 : FmtV) (s : State) : exec (.vrcp x0) s = execVrcp x0 s := rfl
theorem exec_vrsq (x0 : FmtV) (s : State) : exec (.vrsq x0) s = execVrsq x0 s := rfl
theorem exec_vexp2 (x0 : FmtV) (s : State) : exec (.vexp2 x0) s = execVexp2 x0 s := rfl
theorem exec_vlog2 (x0 : FmtV) (s : State) : exec (.vlog2 x0) s = execVlog2 x0 s := rfl
theorem exec_vsin (x0 : FmtV) (s : State) : exec (.vsin x0) s = execVsin x0 s := rfl
theorem exec_vtanh (x0 : FmtV) (s : State) : exec (.vtanh x0) s = execVtanh x0 s := rfl
theorem exec_vreds (x0 : FmtV) (s : State) : exec (.vreds x0) s = execVreds x0 s := rfl
theorem exec_vredm (x0 : FmtV) (s : State) : exec (.vredm x0) s = execVredm x0 s := rfl
theorem exec_vscan (x0 : FmtV) (s : State) : exec (.vscan x0) s = execVscan x0 s := rfl
theorem exec_vperm (x0 : FmtV) (s : State) : exec (.vperm x0) s = execVperm x0 s := rfl
theorem exec_vlsh (x0 : FmtV) (s : State) : exec (.vlsh x0) s = execVlsh x0 s := rfl
theorem exec_vlrot (x0 : FmtV) (s : State) : exec (.vlrot x0) s = execVlrot x0 s := rfl
theorem exec_vfam (x0 : FmtV) (s : State) : exec (.vfam x0) s = execVfam x0 s := rfl
theorem exec_vfax (x0 : FmtV) (s : State) : exec (.vfax x0) s = execVfax x0 s := rfl
theorem exec_vdot4 (x0 : FmtV) (s : State) : exec (.vdot4 x0) s = execVdot4 x0 s := rfl
theorem exec_vtopk (x0 : FmtV) (s : State) : exec (.vtopk x0) s = execVtopk x0 s := rfl
theorem exec_vdefq (x0 : FmtV) (s : State) : exec (.vdefq x0) s = execVdefq x0 s := rfl
theorem exec_vdefd (x0 : FmtV) (s : State) : exec (.vdefd x0) s = execVdefd x0 s := rfl
theorem exec_vdefn (x0 : FmtV) (s : State) : exec (.vdefn x0) s = execVdefn x0 s := rfl
theorem exec_thndLd (x0 : FmtT) (s : State) : exec (.thndLd x0) s = execThndLd x0 s := rfl
theorem exec_thndSetc (x0 : FmtT) (s : State) : exec (.thndSetc x0) s = execThndSetc x0 s := rfl
theorem exec_thndAddc (x0 : FmtT) (s : State) : exec (.thndAddc x0) s = execThndAddc x0 s := rfl
theorem exec_thndGetc (x0 : FmtT) (s : State) : exec (.thndGetc x0) s = execThndGetc x0 s := rfl
theorem exec_tfill (x0 : FmtT) (s : State) : exec (.tfill x0) s = execTfill x0 s := rfl
theorem exec_tfillm (x0 : FmtT) (x1 : TfLit) (s : State) : exec (.tfillm x0 x1) s = execTfillm x0 x1 s := rfl
theorem exec_talloc (x0 : FmtT) (s : State) : exec (.talloc x0) s = execTalloc x0 s := rfl
theorem exec_tdrain (x0 : FmtT) (s : State) : exec (.tdrain x0) s = execTdrain x0 s := rfl
theorem exec_tpost (x0 : FmtT) (s : State) : exec (.tpost x0) s = execTpost x0 s := rfl
theorem exec_thint (x0 : FmtT) (s : State) : exec (.thint x0) s = execThint x0 s := rfl
theorem exec_tpref (x0 : FmtT) (s : State) : exec (.tpref x0) s = execTpref x0 s := rfl
theorem exec_titin (x0 : FmtT) (s : State) : exec (.titin x0) s = execTitin x0 s := rfl
theorem exec_tinv (x0 : FmtT) (s : State) : exec (.tinv x0) s = execTinv x0 s := rfl
theorem exec_tld (x0 : FmtT) (s : State) : exec (.tld x0) s = execTld x0 s := rfl
theorem exec_tst (x0 : FmtT) (s : State) : exec (.tst x0) s = execTst x0 s := rfl
theorem exec_tgth (x0 : FmtT) (s : State) : exec (.tgth x0) s = execTgth x0 s := rfl
theorem exec_tsct (x0 : FmtT) (s : State) : exec (.tsct x0) s = execTsct x0 s := rfl
theorem exec_tver (x0 : FmtT) (s : State) : exec (.tver x0) s = execTver x0 s := rfl
theorem exec_tqrel (x0 : FmtT) (s : State) : exec (.tqrel x0) s = execTqrel x0 s := rfl
theorem exec_mma (x0 : FmtX) (s : State) : exec (.mma x0) s = execMma x0 s := rfl
theorem exec_mmas (x0 : FmtX) (s : State) : exec (.mmas x0) s = execMmas x0 s := rfl
theorem exec_aclr (x0 : FmtX) (s : State) : exec (.aclr x0) s = execAclr x0 s := rfl
theorem exec_acommit (x0 : FmtX) (s : State) : exec (.acommit x0) s = execAcommit x0 s := rfl
theorem exec_adiscard (x0 : FmtX) (s : State) : exec (.adiscard x0) s = execAdiscard x0 s := rfl
theorem exec_amov (x0 : FmtX) (s : State) : exec (.amov x0) s = execAmov x0 s := rfl
theorem exec_adrn (x0 : FmtX) (s : State) : exec (.adrn x0) s = execAdrn x0 s := rfl
theorem exec_kset (x0 : FmtQ) (s : State) : exec (.kset x0) s = execKset x0 s := rfl
theorem exec_kget (x0 : FmtQ) (s : State) : exec (.kget x0) s = execKget x0 s := rfl
theorem exec_launch (x0 : FmtQ) (s : State) : exec (.launch x0) s = execLaunch x0 s := rfl
theorem exec_qpush (x0 : FmtQ) (s : State) : exec (.qpush x0) s = execQpush x0 s := rfl
theorem exec_semw (x0 : FmtQ) (s : State) : exec (.semw x0) s = execSemw x0 s := rfl
theorem exec_semadd (x0 : FmtQ) (s : State) : exec (.semadd x0) s = execSemadd x0 s := rfl
theorem exec_bara (x0 : FmtQ) (s : State) : exec (.bara x0) s = execBara x0 s := rfl
theorem exec_barw (x0 : FmtQ) (s : State) : exec (.barw x0) s = execBarw x0 s := rfl
theorem exec_barm (x0 : FmtQ) (s : State) : exec (.barm x0) s = execBarm x0 s := rfl
theorem exec_coll (x0 : FmtQ) (s : State) : exec (.coll x0) s = execColl x0 s := rfl
theorem exec_collw (x0 : FmtQ) (s : State) : exec (.collw x0) s = execCollw x0 s := rfl
theorem exec_sysr (x0 : FmtS) (s : State) : exec (.sysr x0) s = execSysr x0 s := rfl
theorem exec_sysw (x0 : FmtS) (s : State) : exec (.sysw x0) s = execSysw x0 s := rfl
theorem exec_trap (x0 : FmtI) (s : State) : exec (.trap x0) s = execTrap x0 s := rfl
theorem exec_eret (x0 : FmtZ) (s : State) : exec (.eret x0) s = execEret x0 s := rfl
theorem exec_eretKill (x0 : FmtZ) (s : State) : exec (.eretKill x0) s = execEretKill x0 s := rfl
theorem exec_eretSkip (x0 : FmtZ) (s : State) : exec (.eretSkip x0) s = execEretSkip x0 s := rfl
theorem exec_ppt (x0 : FmtI) (s : State) : exec (.ppt x0) s = execPpt x0 s := rfl
theorem exec_time (x0 : FmtA) (s : State) : exec (.time x0) s = execTime x0 s := rfl
theorem exec_timeNbt (x0 : FmtA) (s : State) : exec (.timeNbt x0) s = execTimeNbt x0 s := rfl
theorem exec_tlbiAsid (x0 : FmtA) (s : State) : exec (.tlbiAsid x0) s = execTlbiAsid x0 s := rfl
theorem exec_tlbiPage (x0 : FmtA) (s : State) : exec (.tlbiPage x0) s = execTlbiPage x0 s := rfl
theorem exec_tlbiAll (x0 : FmtA) (s : State) : exec (.tlbiAll x0) s = execTlbiAll x0 s := rfl
theorem exec_iflush (x0 : FmtZ) (s : State) : exec (.iflush x0) s = execIflush x0 s := rfl
theorem exec_brk (x0 : FmtI) (s : State) : exec (.brk x0) s = execBrk x0 s := rfl
theorem exec_waite (x0 : FmtI) (s : State) : exec (.waite x0) s = execWaite x0 s := rfl
theorem exec_resultWriteback (x0 : Nat) (s : State) : exec (.resultWriteback x0) s = execResultWriteback x0 s := rfl
theorem exec_accessPerform (x0 : Nat) (x1 : Src) (s : State) : exec (.accessPerform x0 x1) s = execAccessPerform x0 x1 s := rfl
theorem exec_remoteReply (x0 : Nat) (x1 : MemberRes) (s : State) : exec (.remoteReply x0 x1) s = execRemoteReply x0 x1 s := rfl
theorem exec_peerAccessArrive (x0 : PeerReq) (s : State) : exec (.peerAccessArrive x0) s = execPeerAccessArrive x0 s := rfl
theorem exec_timeTaggedStoreAccept (x0 : Nat) (s : State) : exec (.timeTaggedStoreAccept x0) s = execTimeTaggedStoreAccept x0 s := rfl
theorem exec_heldStorePerform (x0 : Nat) (s : State) : exec (.heldStorePerform x0) s = execHeldStorePerform x0 s := rfl
theorem exec_lateStoreReport (x0 : Nat) (s : State) : exec (.lateStoreReport x0) s = execLateStoreReport x0 s := rfl
theorem exec_ldnbRelease (x0 : Nat) (s : State) : exec (.ldnbRelease x0) s = execLdnbRelease x0 s := rfl
theorem exec_mcstComplete (x0 : Nat) (s : State) : exec (.mcstComplete x0) s = execMcstComplete x0 s := rfl
theorem exec_asyncFaultRaise (x0 : Agent) (s : State) : exec (.asyncFaultRaise x0) s = execAsyncFaultRaise x0 s := rfl
theorem exec_faultReportAfterIssue (x0 : Nat) (s : State) : exec (.faultReportAfterIssue x0) s = execFaultReportAfterIssue x0 s := rfl
theorem exec_faultRecordWrite (x0 : Nat) (s : State) : exec (.faultRecordWrite x0) s = execFaultRecordWrite x0 s := rfl
theorem exec_slateLanding (x0 : Nat) (s : State) : exec (.slateLanding x0) s = execSlateLanding x0 s := rfl
theorem exec_endingComplete (x0 : Nat) (x1 : Nat) (s : State) : exec (.endingComplete x0 x1) s = execEndingComplete x0 x1 s := rfl
theorem exec_copyPiece (x0 : Nat) (x1 : Nat) (s : State) : exec (.copyPiece x0 x1) s = execCopyPiece x0 x1 s := rfl
theorem exec_lensAllocate (x0 : Nat) (x1 : Nat) (s : State) : exec (.lensAllocate x0 x1) s = execLensAllocate x0 x1 s := rfl
theorem exec_frameScan (x0 : Nat) (s : State) : exec (.frameScan x0) s = execFrameScan x0 s := rfl
theorem exec_pinExhaustion (x0 : Nat) (x1 : Nat) (s : State) : exec (.pinExhaustion x0 x1) s = execPinExhaustion x0 x1 s := rfl
theorem exec_spill (x0 : Nat) (x1 : Nat) (s : State) : exec (.spill x0 x1) s = execSpill x0 x1 s := rfl
theorem exec_spillReadback (x0 : Nat) (x1 : Nat) (s : State) : exec (.spillReadback x0 x1) s = execSpillReadback x0 x1 s := rfl
theorem exec_fillResolve (x0 : Nat) (x1 : Nat) (x2 : Option RemoteTile) (s : State) : exec (.fillResolve x0 x1 x2) s = execFillResolve x0 x1 x2 s := rfl
theorem exec_lensTransferServe (x0 : Nat) (x1 : Nat) (s : State) : exec (.lensTransferServe x0 x1) s = execLensTransferServe x0 x1 s := rfl
theorem exec_fillGranuleLand (x0 : Nat) (x1 : Nat) (x2 : List Nat) (s : State) : exec (.fillGranuleLand x0 x1 x2) s = execFillGranuleLand x0 x1 x2 s := rfl
theorem exec_drainGrant (x0 : Nat) (x1 : Nat) (s : State) : exec (.drainGrant x0 x1) s = execDrainGrant x0 x1 s := rfl
theorem exec_drainPublish (x0 : Nat) (x1 : Nat) (s : State) : exec (.drainPublish x0 x1) s = execDrainPublish x0 x1 s := rfl
theorem exec_versionNotice (x0 : VerNotice) (s : State) : exec (.versionNotice x0) s = execVersionNotice x0 s := rfl
theorem exec_tqrelRecord (x0 : Nat) (s : State) : exec (.tqrelRecord x0) s = execTqrelRecord x0 s := rfl
theorem exec_replayHandoff (x0 : Nat) (s : State) : exec (.replayHandoff x0) s = execReplayHandoff x0 s := rfl
theorem exec_mmaAccept (x0 : Nat) (s : State) : exec (.mmaAccept x0) s = execMmaAccept x0 s := rfl
theorem exec_arrayRowWrite (x0 : Nat) (s : State) : exec (.arrayRowWrite x0) s = execArrayRowWrite x0 s := rfl
theorem exec_accumRowWrite (x0 : Nat) (s : State) : exec (.accumRowWrite x0) s = execAccumRowWrite x0 s := rfl
theorem exec_launchAccept (x0 : Nat) (s : State) : exec (.launchAccept x0) s = execLaunchAccept x0 s := rfl
theorem exec_blockRequest (x0 : Nat) (x1 : Nat) (s : State) : exec (.blockRequest x0 x1) s = execBlockRequest x0 x1 s := rfl
theorem exec_dieWalkerPlace (x0 : Nat) (s : State) : exec (.dieWalkerPlace x0) s = execDieWalkerPlace x0 s := rfl
theorem exec_taskHandoff (x0 : Nat) (s : State) : exec (.taskHandoff x0) s = execTaskHandoff x0 s := rfl
theorem exec_preloadComplete (x0 : Nat) (x1 : Nat) (s : State) : exec (.preloadComplete x0 x1) s = execPreloadComplete x0 x1 s := rfl
theorem exec_stealRequest (x0 : Nat) (x1 : Nat) (s : State) : exec (.stealRequest x0 x1) s = execStealRequest x0 x1 s := rfl
theorem exec_stealAnswer (x0 : Nat) (s : State) : exec (.stealAnswer x0) s = execStealAnswer x0 s := rfl
theorem exec_stealReply (x0 : Nat) (s : State) : exec (.stealReply x0) s = execStealReply x0 s := rfl
theorem exec_lockstepRound (x0 : Nat) (s : State) : exec (.lockstepRound x0) s = execLockstepRound x0 s := rfl
theorem exec_deferralSweepHandoff (x0 : Nat) (x1 : Nat) (x2 : Nat) (s : State) : exec (.deferralSweepHandoff x0 x1 x2) s = execDeferralSweepHandoff x0 x1 x2 s := rfl
theorem exec_recordComplete (x0 : Nat) (s : State) : exec (.recordComplete x0) s = execRecordComplete x0 s := rfl
theorem exec_barrierGenerationComplete (x0 : Nat) (x1 : Nat) (s : State) : exec (.barrierGenerationComplete x0 x1) s = execBarrierGenerationComplete x0 x1 s := rfl
theorem exec_semaphoreWake (x0 : Nat) (s : State) : exec (.semaphoreWake x0) s = execSemaphoreWake x0 s := rfl
theorem exec_hostLaunch (s : State) : exec .hostLaunch s = execHostLaunch s := rfl
theorem exec_create (x0 : Word) (x1 : Nat) (s : State) : exec (.create x0 x1) s = execCreate x0 x1 s := rfl
theorem exec_destroy (s : State) : exec .destroy s = execDestroy s := rfl
theorem exec_dyingComplete (x0 : Nat) (s : State) : exec (.dyingComplete x0) s = execDyingComplete x0 s := rfl
theorem exec_mirprep (s : State) : exec .mirprep s = execMirprep s := rfl
theorem exec_mirDrainTimeout (s : State) : exec .mirDrainTimeout s = execMirDrainTimeout s := rfl
theorem exec_mircommit (x0 : Nat) (s : State) : exec (.mircommit x0) s = execMircommit x0 s := rfl
theorem exec_fwload (s : State) : exec .fwload s = execFwload s := rfl
theorem exec_suspend (s : State) : exec .suspend s = execSuspend s := rfl
theorem exec_suspendResume (s : State) : exec .suspendResume s = execSuspendResume s := rfl
theorem exec_run (x0 : Nat) (x1 : Nat) (s : State) : exec (.run x0 x1) s = execRun x0 x1 s := rfl
theorem exec_wait (x0 : Nat) (x1 : Nat) (s : State) : exec (.wait x0 x1) s = execWait x0 x1 s := rfl
theorem exec_signal (x0 : Nat) (x1 : Nat) (s : State) : exec (.signal x0 x1) s = execSignal x0 x1 s := rfl
theorem exec_preempt (x0 : Nat) (x1 : Nat) (s : State) : exec (.preempt x0 x1) s = execPreempt x0 x1 s := rfl
theorem exec_restore (x0 : Nat) (x1 : Nat) (s : State) : exec (.restore x0 x1) s = execRestore x0 x1 s := rfl
theorem exec_rdcinv (x0 : Nat) (x1 : Nat) (s : State) : exec (.rdcinv x0 x1) s = execRdcinv x0 x1 s := rfl
theorem exec_qmove (x0 : Nat) (x1 : Nat) (s : State) : exec (.qmove x0 x1) s = execQmove x0 x1 s := rfl
theorem exec_qload (x0 : Nat) (x1 : Nat) (s : State) : exec (.qload x0 x1) s = execQload x0 x1 s := rfl
theorem exec_prebndExpiry (x0 : Nat) (x1 : Nat) (s : State) : exec (.prebndExpiry x0 x1) s = execPrebndExpiry x0 x1 s := rfl
theorem exec_taskSave (x0 : Nat) (x1 : Nat) (s : State) : exec (.taskSave x0 x1) s = execTaskSave x0 x1 s := rfl
theorem exec_registerRegionScrub (x0 : Nat) (x1 : Nat) (s : State) : exec (.registerRegionScrub x0 x1) s = execRegisterRegionScrub x0 x1 s := rfl
theorem exec_pageWalk (x0 : Nat) (x1 : Option Nat) (s : State) : exec (.pageWalk x0 x1) s = execPageWalk x0 x1 s := rfl
theorem exec_nextPageFill (x0 : Nat) (x1 : Nat) (x2 : Nat) (s : State) : exec (.nextPageFill x0 x1 x2) s = execNextPageFill x0 x1 x2 s := rfl
theorem exec_shootdownComplete (x0 : Nat) (s : State) : exec (.shootdownComplete x0) s = execShootdownComplete x0 s := rfl
theorem exec_linkDead (x0 : Nat) (s : State) : exec (.linkDead x0) s = execLinkDead x0 s := rfl
theorem exec_linkRetrain (x0 : Nat) (s : State) : exec (.linkRetrain x0) s = execLinkRetrain x0 s := rfl
theorem exec_facetPortDown (x0 : Nat) (s : State) : exec (.facetPortDown x0) s = execFacetPortDown x0 s := rfl
theorem exec_keyUpdate (x0 : Nat) (x1 : LinkKey) (s : State) : exec (.keyUpdate x0 x1) s = execKeyUpdate x0 x1 s := rfl
theorem exec_verifyNewKey (x0 : PortMsg) (s : State) : exec (.verifyNewKey x0) s = execVerifyNewKey x0 s := rfl
theorem exec_keyUpdateStart (x0 : Nat) (x1 : LinkKey) (s : State) : exec (.keyUpdateStart x0 x1) s = execKeyUpdateStart x0 x1 s := rfl
theorem exec_bankLimit (x0 : Nat) (s : State) : exec (.bankLimit x0) s = execBankLimit x0 s := rfl
theorem exec_sessionRenewal (x0 : Nat) (x1 : NewSession) (s : State) : exec (.sessionRenewal x0 x1) s = execSessionRenewal x0 x1 s := rfl
theorem exec_glintSlot (x0 : GlintEv) (s : State) : exec (.glintSlot x0) s = execGlintSlot x0 s := rfl
theorem exec_bstFrame (x0 : Frame) (s : State) : exec (.bstFrame x0) s = execBstFrame x0 s := rfl
theorem exec_bamoFrame (x0 : Frame) (s : State) : exec (.bamoFrame x0) s = execBamoFrame x0 s := rfl
theorem exec_suspendAt (x0 : Frame) (s : State) : exec (.suspendAt x0) s = execSuspendAt x0 s := rfl
theorem exec_resumeAt (x0 : Frame) (s : State) : exec (.resumeAt x0) s = execResumeAt x0 s := rfl
theorem exec_regen (x0 : Frame) (s : State) : exec (.regen x0) s = execRegen x0 s := rfl
theorem exec_void (x0 : Frame) (s : State) : exec (.void x0) s = execVoid x0 s := rfl
theorem exec_join (x0 : Frame) (s : State) : exec (.join x0) s = execJoin x0 s := rfl
theorem exec_leave (x0 : Frame) (s : State) : exec (.leave x0) s = execLeave x0 s := rfl
theorem exec_frameRecoveryRequest (x0 : LostFrame) (s : State) : exec (.frameRecoveryRequest x0) s = execFrameRecoveryRequest x0 s := rfl
theorem exec_frameRecoveryTimeout (x0 : Nat) (s : State) : exec (.frameRecoveryTimeout x0) s = execFrameRecoveryTimeout x0 s := rfl
theorem exec_glintTimeout (x0 : Nat) (x1 : BitVec 256) (s : State) : exec (.glintTimeout x0 x1) s = execGlintTimeout x0 x1 s := rfl
theorem exec_regenAnswerTimeout (x0 : Nat) (s : State) : exec (.regenAnswerTimeout x0) s = execRegenAnswerTimeout x0 s := rfl
theorem exec_groupKeyDelivery (x0 : Nat) (x1 : BitVec 256) (s : State) : exec (.groupKeyDelivery x0 x1) s = execGroupKeyDelivery x0 x1 s := rfl
theorem exec_collectiveMatch (x0 : Nat) (x1 : Nat) (x2 : List CollPeer) (s : State) : exec (.collectiveMatch x0 x1 x2) s = execCollectiveMatch x0 x1 x2 s := rfl
theorem exec_collectiveComplete (x0 : Nat) (x1 : Nat) (x2 : List CollPeer) (x3 : Nat) (s : State) : exec (.collectiveComplete x0 x1 x2 x3) s = execCollectiveComplete x0 x1 x2 x3 s := rfl
theorem exec_twoWayExchange (x0 : Nat) (x1 : Nat) (x2 : Nat) (x3 : Nat) (x4 : Nat) (s : State) : exec (.twoWayExchange x0 x1 x2 x3 x4) s = execTwoWayExchange x0 x1 x2 x3 x4 s := rfl
theorem exec_exchangeTimeout (s : State) : exec .exchangeTimeout s = execExchangeTimeout s := rfl
theorem exec_groupFormation (x0 : GroupForm) (s : State) : exec (.groupFormation x0) s = execGroupFormation x0 s := rfl
theorem exec_hctlGo (x0 : Word) (x1 : BitVec 256) (s : State) : exec (.hctlGo x0 x1) s = execHctlGo x0 x1 s := rfl
theorem exec_cmdtailWrite (x0 : Word) (x1 : List (BitVec 512)) (s : State) : exec (.cmdtailWrite x0 x1) s = execCmdtailWrite x0 x1 s := rfl
theorem exec_evheadWrite (x0 : Word) (s : State) : exec (.evheadWrite x0) s = execEvheadWrite x0 s := rfl
theorem exec_dbell (x0 : Word) (s : State) : exec (.dbell x0) s = execDbell x0 s := rfl
theorem exec_errclr (x0 : Word) (s : State) : exec (.errclr x0) s = execErrclr x0 s := rfl
theorem exec_registerWrite (x0 : HostAt) (x1 : Word) (s : State) : exec (.registerWrite x0 x1) s = execRegisterWrite x0 x1 s := rfl
theorem exec_hostWindowWrite (x0 : HostAt) (x1 : Word) (s : State) : exec (.hostWindowWrite x0 x1) s = execHostWindowWrite x0 x1 s := rfl
theorem exec_hostWindowRead (x0 : HostAt) (s : State) : exec (.hostWindowRead x0) s = execHostWindowRead x0 s := rfl
theorem exec_bar4Write (x0 : HostAt) (x1 : Word) (s : State) : exec (.bar4Write x0 x1) s = execBar4Write x0 x1 s := rfl
theorem exec_bar4Read (x0 : HostAt) (s : State) : exec (.bar4Read x0) s = execBar4Read x0 s := rfl
theorem exec_eventRecordWrite (x0 : Nat) (s : State) : exec (.eventRecordWrite x0) s = execEventRecordWrite x0 s := rfl
theorem exec_powerGood (x0 : PowerUp) (s : State) : exec (.powerGood x0) s = execPowerGood x0 s := rfl
theorem exec_powerRemoval (s : State) : exec .powerRemoval s = execPowerRemoval s := rfl
theorem exec_patrolScrub (x0 : Nat) (x1 : Bool) (s : State) : exec (.patrolScrub x0 x1) s = execPatrolScrub x0 x1 s := rfl
theorem exec_tjMeasurement (x0 : Nat) (s : State) : exec (.tjMeasurement x0) s = execTjMeasurement x0 s := rfl
theorem exec_throttleStepDown (x0 : Bool) (x1 : Bool) (s : State) : exec (.throttleStepDown x0 x1) s = execThrottleStepDown x0 x1 s := rfl
theorem exec_throttleStepUp (s : State) : exec .throttleStepUp s = execThrottleStepUp s := rfl
theorem exec_thermalTrip (s : State) : exec .thermalTrip s = execThermalTrip s := rfl
theorem exec_suspendFreeze (s : State) : exec .suspendFreeze s = execSuspendFreeze s := rfl
theorem exec_cutMarker (x0 : Nat) (x1 : Nat) (s : State) : exec (.cutMarker x0 x1) s = execCutMarker x0 x1 s := rfl
theorem exec_suspendSave (s : State) : exec .suspendSave s = execSuspendSave s := rfl
theorem exec_resumeAtTPrime (s : State) : exec .resumeAtTPrime s = execResumeAtTPrime s := rfl
theorem exec_keyset (x0 : KeySetReq) (s : State) : exec (.keyset x0) s = execKeyset x0 s := rfl
theorem exec_spdmRequest (x0 : SpdmMsg) (s : State) : exec (.spdmRequest x0) s = execSpdmRequest x0 s := rfl
theorem exec_dataWavelengthFrame (x0 : Nat) (x1 : Nat) (x2 : DataEv) (s : State) : exec (.dataWavelengthFrame x0 x1 x2) s = execDataWavelengthFrame x0 x1 x2 s := rfl
theorem exec_frameRecoveryServe (x0 : FrameName) (x1 : Nat) (s : State) : exec (.frameRecoveryServe x0 x1) s = execFrameRecoveryServe x0 x1 s := rfl
theorem exec_frameRecoveryReply (x0 : FrameReply) (s : State) : exec (.frameRecoveryReply x0) s = execFrameRecoveryReply x0 s := rfl
theorem exec_regenAnswer (x0 : Nat) (x1 : Nat) (s : State) : exec (.regenAnswer x0 x1) s = execRegenAnswer x0 x1 s := rfl
theorem exec_prismReplicaCopy (x0 : List Host.Cell) (x1 : CopyPoint) (s : State) : exec (.prismReplicaCopy x0 x1) s = execPrismReplicaCopy x0 x1 s := rfl
theorem exec_tpostPublication (x0 : Nat) (s : State) : exec (.tpostPublication x0) s = execTpostPublication x0 s := rfl

end Sys2Proof.Machine
end

