-- ==== Sys2Proof/Laws/State.lean ====
section
/-! SUPPORT. Reading back what an update of the state wrote: tables, places in the state, and every field that an update of
a cell, slot, strand, conductor, context or queue leaves alone. -/

namespace Sys2Proof

/-- A table reads back what was written at a key, and every other key as before. -/
theorem Tab.get_set {α : Type} (d : α) (k j : Nat) (v : α) (t : Tab α) :
    Tab.get d j (Tab.set k v t) = if j = k then v else Tab.get d j t := by
  induction t with
  | nil => simp [Tab.set, Tab.get, eq_comm]
  | cons p t ih =>
    obtain ⟨i, a⟩ := p
    simp only [Tab.set]
    split
    · simp only [Tab.get]; grind
    · split
      · simp only [Tab.get]; grind
      · simp only [Tab.get, ih]; grind

@[simp] theorem Tab.get_set_same {α : Type} (d : α) (k : Nat) (v : α) (t : Tab α) : Tab.get d k (Tab.set k v t) = v := by
  simp [Tab.get_set]

theorem Tab.get_set_ne {α : Type} (d : α) {k j : Nat} (h : j ≠ k) (v : α) (t : Tab α) :
    Tab.get d j (Tab.set k v t) = Tab.get d j t := by
  simp [Tab.get_set, h]

namespace Machine

/-! ## Places -/

theorem cell_setCell (s : State) (c j : Nat) (x : Cell) : (s.setCell c x).cell j = if j = c then x else s.cell j := by
  simp [State.setCell, State.cell, Tab.get_set]
theorem cell_updCell (s : State) (c j : Nat) (f : Cell → Cell) :
    (s.updCell c f).cell j = if j = c then f (s.cell c) else s.cell j := by
  simp [State.updCell, cell_setCell]
@[simp] theorem cell_updCell_same (s : State) (c : Nat) (f : Cell → Cell) : (s.updCell c f).cell c = f (s.cell c) := by
  simp [cell_updCell]
theorem slot_setSlot (x : Cell) (k j : Nat) (y : Slot) : (x.setSlot k y).slot j = if j = k then y else x.slot j := by
  simp [Cell.setSlot, Cell.slot, Tab.get_set]
@[simp] theorem slot_setSlot_same (x : Cell) (k : Nat) (y : Slot) : (x.setSlot k y).slot k = y := by simp [slot_setSlot]
@[simp] theorem slot_updSlot_same (s : State) (c k : Nat) (f : Slot → Slot) : (s.updSlot c k f).slot c k = f (s.slot c k) := by
  simp [State.slot, State.updSlot]
theorem slot_updSlot_ne (s : State) (c k j : Nat) (f : Slot → Slot) (h : j ≠ k) : (s.updSlot c k f).slot c j = s.slot c j := by
  simp [State.slot, State.updSlot, slot_setSlot, h]
theorem strand_setStrand (y : Slot) (q r : Kind) (v : Strand) (h : q ≠ .C) (h2 : r ≠ .C) :
    (y.setStrand q v).strand r = if r = q then v else y.strand r := by
  cases q <;> cases r <;> simp_all [Slot.setStrand, Slot.strand]
theorem condOf_updCond (s : State) (n j : Nat) (f : Cond → Cond) :
    (s.updCond n f).condOf j = if j = n then f (s.condOf n) else s.condOf j := by
  simp [State.updCond, State.condOf, Tab.get_set]
@[simp] theorem condOf_updCond_same (s : State) (n : Nat) (f : Cond → Cond) : (s.updCond n f).condOf n = f (s.condOf n) := by
  simp [condOf_updCond]
theorem ctxOf_updCtx (s : State) (n j : Nat) (f : Ctx → Ctx) :
    (s.updCtx n f).ctxOf j = if j = n then f (s.ctxOf n) else s.ctxOf j := by
  simp [State.updCtx, State.ctxOf, Tab.get_set]
@[simp] theorem ctxOf_updCtx_same (s : State) (n : Nat) (f : Ctx → Ctx) : (s.updCtx n f).ctxOf n = f (s.ctxOf n) := by
  simp [ctxOf_updCtx]

/-! ## What an update leaves alone -/

@[simp] theorem updCell_powered (s : State) (c : Nat) (f : Cell → Cell) : (s.updCell c f).powered = s.powered := rfl
@[simp] theorem updCell_agenda (s : State) (c : Nat) (f : Cell → Cell) : (s.updCell c f).agenda = s.agenda := rfl
@[simp] theorem updCell_clk (s : State) (c : Nat) (f : Cell → Cell) : (s.updCell c f).clk = s.clk := rfl
@[simp] theorem updCell_seq (s : State) (c : Nat) (f : Cell → Cell) : (s.updCell c f).seq = s.seq := rfl
@[simp] theorem updCell_free (s : State) (c : Nat) (f : Cell → Cell) : (s.updCell c f).free = s.free := rfl
@[simp] theorem updCell_landing (s : State) (c : Nat) (f : Cell → Cell) : (s.updCell c f).landing = s.landing := rfl
@[simp] theorem updCell_cur (s : State) (c : Nat) (f : Cell → Cell) : (s.updCell c f).cur = s.cur := rfl
@[simp] theorem updCell_sysws (s : State) (c : Nat) (f : Cell → Cell) : (s.updCell c f).sysws = s.sysws := rfl
@[simp] theorem updCell_conds (s : State) (c : Nat) (f : Cell → Cell) : (s.updCell c f).conds = s.conds := rfl
@[simp] theorem updCell_mem (s : State) (c : Nat) (f : Cell → Cell) : (s.updCell c f).mem = s.mem := rfl
@[simp] theorem updCell_keyTag (s : State) (c : Nat) (f : Cell → Cell) : (s.updCell c f).keyTag = s.keyTag := rfl
@[simp] theorem updCell_oldWords (s : State) (c : Nat) (f : Cell → Cell) : (s.updCell c f).oldWords = s.oldWords := rfl
@[simp] theorem updCell_accs (s : State) (c : Nat) (f : Cell → Cell) : (s.updCell c f).accs = s.accs := rfl
@[simp] theorem updCell_held (s : State) (c : Nat) (f : Cell → Cell) : (s.updCell c f).held = s.held := rfl
@[simp] theorem updCell_late (s : State) (c : Nat) (f : Cell → Cell) : (s.updCell c f).late = s.late := rfl
@[simp] theorem updCell_reports (s : State) (c : Nat) (f : Cell → Cell) : (s.updCell c f).reports = s.reports := rfl
@[simp] theorem updCell_walks (s : State) (c : Nat) (f : Cell → Cell) : (s.updCell c f).walks = s.walks := rfl
@[simp] theorem updCell_refusals (s : State) (c : Nat) (f : Cell → Cell) : (s.updCell c f).refusals = s.refusals := rfl
@[simp] theorem updCell_wcache (s : State) (c : Nat) (f : Cell → Cell) : (s.updCell c f).wcache = s.wcache := rfl
@[simp] theorem updCell_lcache (s : State) (c : Nat) (f : Cell → Cell) : (s.updCell c f).lcache = s.lcache := rfl
@[simp] theorem updCell_rdc (s : State) (c : Nat) (f : Cell → Cell) : (s.updCell c f).rdc = s.rdc := rfl
@[simp] theorem updCell_shoots (s : State) (c : Nat) (f : Cell → Cell) : (s.updCell c f).shoots = s.shoots := rfl
@[simp] theorem updCell_recs (s : State) (c : Nat) (f : Cell → Cell) : (s.updCell c f).recs = s.recs := rfl
@[simp] theorem updCell_chains (s : State) (c : Nat) (f : Cell → Cell) : (s.updCell c f).chains = s.chains := rfl
@[simp] theorem updCell_dieqs (s : State) (c : Nat) (f : Cell → Cell) : (s.updCell c f).dieqs = s.dieqs := rfl
@[simp] theorem updCell_ctxs (s : State) (c : Nat) (f : Cell → Cell) : (s.updCell c f).ctxs = s.ctxs := rfl
@[simp] theorem updCell_outbox (s : State) (c : Nat) (f : Cell → Cell) : (s.updCell c f).outbox = s.outbox := rfl
@[simp] theorem updCell_replyq (s : State) (c : Nat) (f : Cell → Cell) : (s.updCell c f).replyq = s.replyq := rfl
@[simp] theorem updCell_mirHold (s : State) (c : Nat) (f : Cell → Cell) : (s.updCell c f).mirHold = s.mirHold := rfl
@[simp] theorem updCell_mircfg (s : State) (c : Nat) (f : Cell → Cell) : (s.updCell c f).mircfg = s.mircfg := rfl
@[simp] theorem updCell_connected (s : State) (c : Nat) (f : Cell → Cell) : (s.updCell c f).connected = s.connected := rfl
@[simp] theorem updCell_prism (s : State) (c : Nat) (f : Cell → Cell) : (s.updCell c f).prism = s.prism := rfl
@[simp] theorem updCell_time (s : State) (c : Nat) (f : Cell → Cell) : (s.updCell c f).time = s.time := rfl
@[simp] theorem updCell_links (s : State) (c : Nat) (f : Cell → Cell) : (s.updCell c f).links = s.links := rfl
@[simp] theorem updCell_ports (s : State) (c : Nat) (f : Cell → Cell) : (s.updCell c f).ports = s.ports := rfl
@[simp] theorem updCell_packets (s : State) (c : Nat) (f : Cell → Cell) : (s.updCell c f).packets = s.packets := rfl
@[simp] theorem updCell_dirs (s : State) (c : Nat) (f : Cell → Cell) : (s.updCell c f).dirs = s.dirs := rfl
@[simp] theorem updCell_fillReads (s : State) (c : Nat) (f : Cell → Cell) : (s.updCell c f).fillReads = s.fillReads := rfl
@[simp] theorem updCell_l1 (s : State) (c : Nat) (f : Cell → Cell) : (s.updCell c f).l1 = s.l1 := rfl
@[simp] theorem updCell_host (s : State) (c : Nat) (f : Cell → Cell) : (s.updCell c f).host = s.host := rfl
@[simp] theorem updCell_susp (s : State) (c : Nat) (f : Cell → Cell) : (s.updCell c f).susp = s.susp := rfl
@[simp] theorem updCell_err (s : State) (c : Nat) (f : Cell → Cell) : (s.updCell c f).err = s.err := rfl
@[simp] theorem updCell_thr (s : State) (c : Nat) (f : Cell → Cell) : (s.updCell c f).thr = s.thr := rfl
@[simp] theorem updCell_sec (s : State) (c : Nat) (f : Cell → Cell) : (s.updCell c f).sec = s.sec := rfl
@[simp] theorem updCell_condOf (s : State) (c : Nat) (f : Cell → Cell) (j : Nat) : (s.updCell c f).condOf j = s.condOf j := rfl
@[simp] theorem updCell_ctxOf (s : State) (c : Nat) (f : Cell → Cell) (j : Nat) : (s.updCell c f).ctxOf j = s.ctxOf j := rfl
@[simp] theorem updSlot_powered (s : State) (c k : Nat) (f : Slot → Slot) : (s.updSlot c k f).powered = s.powered := rfl
@[simp] theorem updSlot_agenda (s : State) (c k : Nat) (f : Slot → Slot) : (s.updSlot c k f).agenda = s.agenda := rfl
@[simp] theorem updSlot_clk (s : State) (c k : Nat) (f : Slot → Slot) : (s.updSlot c k f).clk = s.clk := rfl
@[simp] theorem updSlot_seq (s : State) (c k : Nat) (f : Slot → Slot) : (s.updSlot c k f).seq = s.seq := rfl
@[simp] theorem updSlot_free (s : State) (c k : Nat) (f : Slot → Slot) : (s.updSlot c k f).free = s.free := rfl
@[simp] theorem updSlot_landing (s : State) (c k : Nat) (f : Slot → Slot) : (s.updSlot c k f).landing = s.landing := rfl
@[simp] theorem updSlot_cur (s : State) (c k : Nat) (f : Slot → Slot) : (s.updSlot c k f).cur = s.cur := rfl
@[simp] theorem updSlot_sysws (s : State) (c k : Nat) (f : Slot → Slot) : (s.updSlot c k f).sysws = s.sysws := rfl
@[simp] theorem updSlot_conds (s : State) (c k : Nat) (f : Slot → Slot) : (s.updSlot c k f).conds = s.conds := rfl
@[simp] theorem updSlot_mem (s : State) (c k : Nat) (f : Slot → Slot) : (s.updSlot c k f).mem = s.mem := rfl
@[simp] theorem updSlot_keyTag (s : State) (c k : Nat) (f : Slot → Slot) : (s.updSlot c k f).keyTag = s.keyTag := rfl
@[simp] theorem updSlot_oldWords (s : State) (c k : Nat) (f : Slot → Slot) : (s.updSlot c k f).oldWords = s.oldWords := rfl
@[simp] theorem updSlot_accs (s : State) (c k : Nat) (f : Slot → Slot) : (s.updSlot c k f).accs = s.accs := rfl
@[simp] theorem updSlot_held (s : State) (c k : Nat) (f : Slot → Slot) : (s.updSlot c k f).held = s.held := rfl
@[simp] theorem updSlot_late (s : State) (c k : Nat) (f : Slot → Slot) : (s.updSlot c k f).late = s.late := rfl
@[simp] theorem updSlot_reports (s : State) (c k : Nat) (f : Slot → Slot) : (s.updSlot c k f).reports = s.reports := rfl
@[simp] theorem updSlot_walks (s : State) (c k : Nat) (f : Slot → Slot) : (s.updSlot c k f).walks = s.walks := rfl
@[simp] theorem updSlot_refusals (s : State) (c k : Nat) (f : Slot → Slot) : (s.updSlot c k f).refusals = s.refusals := rfl
@[simp] theorem updSlot_wcache (s : State) (c k : Nat) (f : Slot → Slot) : (s.updSlot c k f).wcache = s.wcache := rfl
@[simp] theorem updSlot_lcache (s : State) (c k : Nat) (f : Slot → Slot) : (s.updSlot c k f).lcache = s.lcache := rfl
@[simp] theorem updSlot_rdc (s : State) (c k : Nat) (f : Slot → Slot) : (s.updSlot c k f).rdc = s.rdc := rfl
@[simp] theorem updSlot_shoots (s : State) (c k : Nat) (f : Slot → Slot) : (s.updSlot c k f).shoots = s.shoots := rfl
@[simp] theorem updSlot_recs (s : State) (c k : Nat) (f : Slot → Slot) : (s.updSlot c k f).recs = s.recs := rfl
@[simp] theorem updSlot_chains (s : State) (c k : Nat) (f : Slot → Slot) : (s.updSlot c k f).chains = s.chains := rfl
@[simp] theorem updSlot_dieqs (s : State) (c k : Nat) (f : Slot → Slot) : (s.updSlot c k f).dieqs = s.dieqs := rfl
@[simp] theorem updSlot_ctxs (s : State) (c k : Nat) (f : Slot → Slot) : (s.updSlot c k f).ctxs = s.ctxs := rfl
@[simp] theorem updSlot_outbox (s : State) (c k : Nat) (f : Slot → Slot) : (s.updSlot c k f).outbox = s.outbox := rfl
@[simp] theorem updSlot_replyq (s : State) (c k : Nat) (f : Slot → Slot) : (s.updSlot c k f).replyq = s.replyq := rfl
@[simp] theorem updSlot_mirHold (s : State) (c k : Nat) (f : Slot → Slot) : (s.updSlot c k f).mirHold = s.mirHold := rfl
@[simp] theorem updSlot_mircfg (s : State) (c k : Nat) (f : Slot → Slot) : (s.updSlot c k f).mircfg = s.mircfg := rfl
@[simp] theorem updSlot_connected (s : State) (c k : Nat) (f : Slot → Slot) : (s.updSlot c k f).connected = s.connected := rfl
@[simp] theorem updSlot_prism (s : State) (c k : Nat) (f : Slot → Slot) : (s.updSlot c k f).prism = s.prism := rfl
@[simp] theorem updSlot_time (s : State) (c k : Nat) (f : Slot → Slot) : (s.updSlot c k f).time = s.time := rfl
@[simp] theorem updSlot_links (s : State) (c k : Nat) (f : Slot → Slot) : (s.updSlot c k f).links = s.links := rfl
@[simp] theorem updSlot_ports (s : State) (c k : Nat) (f : Slot → Slot) : (s.updSlot c k f).ports = s.ports := rfl
@[simp] theorem updSlot_packets (s : State) (c k : Nat) (f : Slot → Slot) : (s.updSlot c k f).packets = s.packets := rfl
@[simp] theorem updSlot_dirs (s : State) (c k : Nat) (f : Slot → Slot) : (s.updSlot c k f).dirs = s.dirs := rfl
@[simp] theorem updSlot_fillReads (s : State) (c k : Nat) (f : Slot → Slot) : (s.updSlot c k f).fillReads = s.fillReads := rfl
@[simp] theorem updSlot_l1 (s : State) (c k : Nat) (f : Slot → Slot) : (s.updSlot c k f).l1 = s.l1 := rfl
@[simp] theorem updSlot_host (s : State) (c k : Nat) (f : Slot → Slot) : (s.updSlot c k f).host = s.host := rfl
@[simp] theorem updSlot_susp (s : State) (c k : Nat) (f : Slot → Slot) : (s.updSlot c k f).susp = s.susp := rfl
@[simp] theorem updSlot_err (s : State) (c k : Nat) (f : Slot → Slot) : (s.updSlot c k f).err = s.err := rfl
@[simp] theorem updSlot_thr (s : State) (c k : Nat) (f : Slot → Slot) : (s.updSlot c k f).thr = s.thr := rfl
@[simp] theorem updSlot_sec (s : State) (c k : Nat) (f : Slot → Slot) : (s.updSlot c k f).sec = s.sec := rfl
@[simp] theorem updSlot_condOf (s : State) (c k : Nat) (f : Slot → Slot) (j : Nat) : (s.updSlot c k f).condOf j = s.condOf j := rfl
@[simp] theorem updSlot_ctxOf (s : State) (c k : Nat) (f : Slot → Slot) (j : Nat) : (s.updSlot c k f).ctxOf j = s.ctxOf j := rfl
@[simp] theorem updStrand_powered (s : State) (c k : Nat) (x : Kind) (f : Strand → Strand) : (s.updStrand c k x f).powered = s.powered := rfl
@[simp] theorem updStrand_agenda (s : State) (c k : Nat) (x : Kind) (f : Strand → Strand) : (s.updStrand c k x f).agenda = s.agenda := rfl
@[simp] theorem updStrand_clk (s : State) (c k : Nat) (x : Kind) (f : Strand → Strand) : (s.updStrand c k x f).clk = s.clk := rfl
@[simp] theorem updStrand_seq (s : State) (c k : Nat) (x : Kind) (f : Strand → Strand) : (s.updStrand c k x f).seq = s.seq := rfl
@[simp] theorem updStrand_free (s : State) (c k : Nat) (x : Kind) (f : Strand → Strand) : (s.updStrand c k x f).free = s.free := rfl
@[simp] theorem updStrand_landing (s : State) (c k : Nat) (x : Kind) (f : Strand → Strand) : (s.updStrand c k x f).landing = s.landing := rfl
@[simp] theorem updStrand_cur (s : State) (c k : Nat) (x : Kind) (f : Strand → Strand) : (s.updStrand c k x f).cur = s.cur := rfl
@[simp] theorem updStrand_sysws (s : State) (c k : Nat) (x : Kind) (f : Strand → Strand) : (s.updStrand c k x f).sysws = s.sysws := rfl
@[simp] theorem updStrand_conds (s : State) (c k : Nat) (x : Kind) (f : Strand → Strand) : (s.updStrand c k x f).conds = s.conds := rfl
@[simp] theorem updStrand_mem (s : State) (c k : Nat) (x : Kind) (f : Strand → Strand) : (s.updStrand c k x f).mem = s.mem := rfl
@[simp] theorem updStrand_keyTag (s : State) (c k : Nat) (x : Kind) (f : Strand → Strand) : (s.updStrand c k x f).keyTag = s.keyTag := rfl
@[simp] theorem updStrand_oldWords (s : State) (c k : Nat) (x : Kind) (f : Strand → Strand) : (s.updStrand c k x f).oldWords = s.oldWords := rfl
@[simp] theorem updStrand_accs (s : State) (c k : Nat) (x : Kind) (f : Strand → Strand) : (s.updStrand c k x f).accs = s.accs := rfl
@[simp] theorem updStrand_held (s : State) (c k : Nat) (x : Kind) (f : Strand → Strand) : (s.updStrand c k x f).held = s.held := rfl
@[simp] theorem updStrand_late (s : State) (c k : Nat) (x : Kind) (f : Strand → Strand) : (s.updStrand c k x f).late = s.late := rfl
@[simp] theorem updStrand_reports (s : State) (c k : Nat) (x : Kind) (f : Strand → Strand) : (s.updStrand c k x f).reports = s.reports := rfl
@[simp] theorem updStrand_walks (s : State) (c k : Nat) (x : Kind) (f : Strand → Strand) : (s.updStrand c k x f).walks = s.walks := rfl
@[simp] theorem updStrand_refusals (s : State) (c k : Nat) (x : Kind) (f : Strand → Strand) : (s.updStrand c k x f).refusals = s.refusals := rfl
@[simp] theorem updStrand_wcache (s : State) (c k : Nat) (x : Kind) (f : Strand → Strand) : (s.updStrand c k x f).wcache = s.wcache := rfl
@[simp] theorem updStrand_lcache (s : State) (c k : Nat) (x : Kind) (f : Strand → Strand) : (s.updStrand c k x f).lcache = s.lcache := rfl
@[simp] theorem updStrand_rdc (s : State) (c k : Nat) (x : Kind) (f : Strand → Strand) : (s.updStrand c k x f).rdc = s.rdc := rfl
@[simp] theorem updStrand_shoots (s : State) (c k : Nat) (x : Kind) (f : Strand → Strand) : (s.updStrand c k x f).shoots = s.shoots := rfl
@[simp] theorem updStrand_recs (s : State) (c k : Nat) (x : Kind) (f : Strand → Strand) : (s.updStrand c k x f).recs = s.recs := rfl
@[simp] theorem updStrand_chains (s : State) (c k : Nat) (x : Kind) (f : Strand → Strand) : (s.updStrand c k x f).chains = s.chains := rfl
@[simp] theorem updStrand_dieqs (s : State) (c k : Nat) (x : Kind) (f : Strand → Strand) : (s.updStrand c k x f).dieqs = s.dieqs := rfl
@[simp] theorem updStrand_ctxs (s : State) (c k : Nat) (x : Kind) (f : Strand → Strand) : (s.updStrand c k x f).ctxs = s.ctxs := rfl
@[simp] theorem updStrand_outbox (s : State) (c k : Nat) (x : Kind) (f : Strand → Strand) : (s.updStrand c k x f).outbox = s.outbox := rfl
@[simp] theorem updStrand_replyq (s : State) (c k : Nat) (x : Kind) (f : Strand → Strand) : (s.updStrand c k x f).replyq = s.replyq := rfl
@[simp] theorem updStrand_mirHold (s : State) (c k : Nat) (x : Kind) (f : Strand → Strand) : (s.updStrand c k x f).mirHold = s.mirHold := rfl
@[simp] theorem updStrand_mircfg (s : State) (c k : Nat) (x : Kind) (f : Strand → Strand) : (s.updStrand c k x f).mircfg = s.mircfg := rfl
@[simp] theorem updStrand_connected (s : State) (c k : Nat) (x : Kind) (f : Strand → Strand) : (s.updStrand c k x f).connected = s.connected := rfl
@[simp] theorem updStrand_prism (s : State) (c k : Nat) (x : Kind) (f : Strand → Strand) : (s.updStrand c k x f).prism = s.prism := rfl
@[simp] theorem updStrand_time (s : State) (c k : Nat) (x : Kind) (f : Strand → Strand) : (s.updStrand c k x f).time = s.time := rfl
@[simp] theorem updStrand_links (s : State) (c k : Nat) (x : Kind) (f : Strand → Strand) : (s.updStrand c k x f).links = s.links := rfl
@[simp] theorem updStrand_ports (s : State) (c k : Nat) (x : Kind) (f : Strand → Strand) : (s.updStrand c k x f).ports = s.ports := rfl
@[simp] theorem updStrand_packets (s : State) (c k : Nat) (x : Kind) (f : Strand → Strand) : (s.updStrand c k x f).packets = s.packets := rfl
@[simp] theorem updStrand_dirs (s : State) (c k : Nat) (x : Kind) (f : Strand → Strand) : (s.updStrand c k x f).dirs = s.dirs := rfl
@[simp] theorem updStrand_fillReads (s : State) (c k : Nat) (x : Kind) (f : Strand → Strand) : (s.updStrand c k x f).fillReads = s.fillReads := rfl
@[simp] theorem updStrand_l1 (s : State) (c k : Nat) (x : Kind) (f : Strand → Strand) : (s.updStrand c k x f).l1 = s.l1 := rfl
@[simp] theorem updStrand_host (s : State) (c k : Nat) (x : Kind) (f : Strand → Strand) : (s.updStrand c k x f).host = s.host := rfl
@[simp] theorem updStrand_susp (s : State) (c k : Nat) (x : Kind) (f : Strand → Strand) : (s.updStrand c k x f).susp = s.susp := rfl
@[simp] theorem updStrand_err (s : State) (c k : Nat) (x : Kind) (f : Strand → Strand) : (s.updStrand c k x f).err = s.err := rfl
@[simp] theorem updStrand_thr (s : State) (c k : Nat) (x : Kind) (f : Strand → Strand) : (s.updStrand c k x f).thr = s.thr := rfl
@[simp] theorem updStrand_sec (s : State) (c k : Nat) (x : Kind) (f : Strand → Strand) : (s.updStrand c k x f).sec = s.sec := rfl
@[simp] theorem updStrand_condOf (s : State) (c k : Nat) (x : Kind) (f : Strand → Strand) (j : Nat) : (s.updStrand c k x f).condOf j = s.condOf j := rfl
@[simp] theorem updStrand_ctxOf (s : State) (c k : Nat) (x : Kind) (f : Strand → Strand) (j : Nat) : (s.updStrand c k x f).ctxOf j = s.ctxOf j := rfl
@[simp] theorem updCond_powered (s : State) (n : Nat) (f : Cond → Cond) : (s.updCond n f).powered = s.powered := rfl
@[simp] theorem updCond_agenda (s : State) (n : Nat) (f : Cond → Cond) : (s.updCond n f).agenda = s.agenda := rfl
@[simp] theorem updCond_clk (s : State) (n : Nat) (f : Cond → Cond) : (s.updCond n f).clk = s.clk := rfl
@[simp] theorem updCond_seq (s : State) (n : Nat) (f : Cond → Cond) : (s.updCond n f).seq = s.seq := rfl
@[simp] theorem updCond_free (s : State) (n : Nat) (f : Cond → Cond) : (s.updCond n f).free = s.free := rfl
@[simp] theorem updCond_landing (s : State) (n : Nat) (f : Cond → Cond) : (s.updCond n f).landing = s.landing := rfl
@[simp] theorem updCond_cur (s : State) (n : Nat) (f : Cond → Cond) : (s.updCond n f).cur = s.cur := rfl
@[simp] theorem updCond_sysws (s : State) (n : Nat) (f : Cond → Cond) : (s.updCond n f).sysws = s.sysws := rfl
@[simp] theorem updCond_cells (s : State) (n : Nat) (f : Cond → Cond) : (s.updCond n f).cells = s.cells := rfl
@[simp] theorem updCond_mem (s : State) (n : Nat) (f : Cond → Cond) : (s.updCond n f).mem = s.mem := rfl
@[simp] theorem updCond_keyTag (s : State) (n : Nat) (f : Cond → Cond) : (s.updCond n f).keyTag = s.keyTag := rfl
@[simp] theorem updCond_oldWords (s : State) (n : Nat) (f : Cond → Cond) : (s.updCond n f).oldWords = s.oldWords := rfl
@[simp] theorem updCond_accs (s : State) (n : Nat) (f : Cond → Cond) : (s.updCond n f).accs = s.accs := rfl
@[simp] theorem updCond_held (s : State) (n : Nat) (f : Cond → Cond) : (s.updCond n f).held = s.held := rfl
@[simp] theorem updCond_late (s : State) (n : Nat) (f : Cond → Cond) : (s.updCond n f).late = s.late := rfl
@[simp] theorem updCond_reports (s : State) (n : Nat) (f : Cond → Cond) : (s.updCond n f).reports = s.reports := rfl
@[simp] theorem updCond_walks (s : State) (n : Nat) (f : Cond → Cond) : (s.updCond n f).walks = s.walks := rfl
@[simp] theorem updCond_refusals (s : State) (n : Nat) (f : Cond → Cond) : (s.updCond n f).refusals = s.refusals := rfl
@[simp] theorem updCond_wcache (s : State) (n : Nat) (f : Cond → Cond) : (s.updCond n f).wcache = s.wcache := rfl
@[simp] theorem updCond_lcache (s : State) (n : Nat) (f : Cond → Cond) : (s.updCond n f).lcache = s.lcache := rfl
@[simp] theorem updCond_rdc (s : State) (n : Nat) (f : Cond → Cond) : (s.updCond n f).rdc = s.rdc := rfl
@[simp] theorem updCond_shoots (s : State) (n : Nat) (f : Cond → Cond) : (s.updCond n f).shoots = s.shoots := rfl
@[simp] theorem updCond_recs (s : State) (n : Nat) (f : Cond → Cond) : (s.updCond n f).recs = s.recs := rfl
@[simp] theorem updCond_chains (s : State) (n : Nat) (f : Cond → Cond) : (s.updCond n f).chains = s.chains := rfl
@[simp] theorem updCond_dieqs (s : State) (n : Nat) (f : Cond → Cond) : (s.updCond n f).dieqs = s.dieqs := rfl
@[simp] theorem updCond_ctxs (s : State) (n : Nat) (f : Cond → Cond) : (s.updCond n f).ctxs = s.ctxs := rfl
@[simp] theorem updCond_outbox (s : State) (n : Nat) (f : Cond → Cond) : (s.updCond n f).outbox = s.outbox := rfl
@[simp] theorem updCond_replyq (s : State) (n : Nat) (f : Cond → Cond) : (s.updCond n f).replyq = s.replyq := rfl
@[simp] theorem updCond_mirHold (s : State) (n : Nat) (f : Cond → Cond) : (s.updCond n f).mirHold = s.mirHold := rfl
@[simp] theorem updCond_mircfg (s : State) (n : Nat) (f : Cond → Cond) : (s.updCond n f).mircfg = s.mircfg := rfl
@[simp] theorem updCond_connected (s : State) (n : Nat) (f : Cond → Cond) : (s.updCond n f).connected = s.connected := rfl
@[simp] theorem updCond_prism (s : State) (n : Nat) (f : Cond → Cond) : (s.updCond n f).prism = s.prism := rfl
@[simp] theorem updCond_time (s : State) (n : Nat) (f : Cond → Cond) : (s.updCond n f).time = s.time := rfl
@[simp] theorem updCond_links (s : State) (n : Nat) (f : Cond → Cond) : (s.updCond n f).links = s.links := rfl
@[simp] theorem updCond_ports (s : State) (n : Nat) (f : Cond → Cond) : (s.updCond n f).ports = s.ports := rfl
@[simp] theorem updCond_packets (s : State) (n : Nat) (f : Cond → Cond) : (s.updCond n f).packets = s.packets := rfl
@[simp] theorem updCond_dirs (s : State) (n : Nat) (f : Cond → Cond) : (s.updCond n f).dirs = s.dirs := rfl
@[simp] theorem updCond_fillReads (s : State) (n : Nat) (f : Cond → Cond) : (s.updCond n f).fillReads = s.fillReads := rfl
@[simp] theorem updCond_l1 (s : State) (n : Nat) (f : Cond → Cond) : (s.updCond n f).l1 = s.l1 := rfl
@[simp] theorem updCond_host (s : State) (n : Nat) (f : Cond → Cond) : (s.updCond n f).host = s.host := rfl
@[simp] theorem updCond_susp (s : State) (n : Nat) (f : Cond → Cond) : (s.updCond n f).susp = s.susp := rfl
@[simp] theorem updCond_err (s : State) (n : Nat) (f : Cond → Cond) : (s.updCond n f).err = s.err := rfl
@[simp] theorem updCond_thr (s : State) (n : Nat) (f : Cond → Cond) : (s.updCond n f).thr = s.thr := rfl
@[simp] theorem updCond_sec (s : State) (n : Nat) (f : Cond → Cond) : (s.updCond n f).sec = s.sec := rfl
@[simp] theorem updCond_cell (s : State) (n : Nat) (f : Cond → Cond) (j : Nat) : (s.updCond n f).cell j = s.cell j := rfl
@[simp] theorem updCond_ctxOf (s : State) (n : Nat) (f : Cond → Cond) (j : Nat) : (s.updCond n f).ctxOf j = s.ctxOf j := rfl
@[simp] theorem updCtx_powered (s : State) (n : Nat) (f : Ctx → Ctx) : (s.updCtx n f).powered = s.powered := rfl
@[simp] theorem updCtx_agenda (s : State) (n : Nat) (f : Ctx → Ctx) : (s.updCtx n f).agenda = s.agenda := rfl
@[simp] theorem updCtx_clk (s : State) (n : Nat) (f : Ctx → Ctx) : (s.updCtx n f).clk = s.clk := rfl
@[simp] theorem updCtx_seq (s : State) (n : Nat) (f : Ctx → Ctx) : (s.updCtx n f).seq = s.seq := rfl
@[simp] theorem updCtx_free (s : State) (n : Nat) (f : Ctx → Ctx) : (s.updCtx n f).free = s.free := rfl
@[simp] theorem updCtx_landing (s : State) (n : Nat) (f : Ctx → Ctx) : (s.updCtx n f).landing = s.landing := rfl
@[simp] theorem updCtx_cur (s : State) (n : Nat) (f : Ctx → Ctx) : (s.updCtx n f).cur = s.cur := rfl
@[simp] theorem updCtx_sysws (s : State) (n : Nat) (f : Ctx → Ctx) : (s.updCtx n f).sysws = s.sysws := rfl
@[simp] theorem updCtx_cells (s : State) (n : Nat) (f : Ctx → Ctx) : (s.updCtx n f).cells = s.cells := rfl
@[simp] theorem updCtx_conds (s : State) (n : Nat) (f : Ctx → Ctx) : (s.updCtx n f).conds = s.conds := rfl
@[simp] theorem updCtx_mem (s : State) (n : Nat) (f : Ctx → Ctx) : (s.updCtx n f).mem = s.mem := rfl
@[simp] theorem updCtx_keyTag (s : State) (n : Nat) (f : Ctx → Ctx) : (s.updCtx n f).keyTag = s.keyTag := rfl
@[simp] theorem updCtx_oldWords (s : State) (n : Nat) (f : Ctx → Ctx) : (s.updCtx n f).oldWords = s.oldWords := rfl
@[simp] theorem updCtx_accs (s : State) (n : Nat) (f : Ctx → Ctx) : (s.updCtx n f).accs = s.accs := rfl
@[simp] theorem updCtx_held (s : State) (n : Nat) (f : Ctx → Ctx) : (s.updCtx n f).held = s.held := rfl
@[simp] theorem updCtx_late (s : State) (n : Nat) (f : Ctx → Ctx) : (s.updCtx n f).late = s.late := rfl
@[simp] theorem updCtx_reports (s : State) (n : Nat) (f : Ctx → Ctx) : (s.updCtx n f).reports = s.reports := rfl
@[simp] theorem updCtx_walks (s : State) (n : Nat) (f : Ctx → Ctx) : (s.updCtx n f).walks = s.walks := rfl
@[simp] theorem updCtx_refusals (s : State) (n : Nat) (f : Ctx → Ctx) : (s.updCtx n f).refusals = s.refusals := rfl
@[simp] theorem updCtx_wcache (s : State) (n : Nat) (f : Ctx → Ctx) : (s.updCtx n f).wcache = s.wcache := rfl
@[simp] theorem updCtx_lcache (s : State) (n : Nat) (f : Ctx → Ctx) : (s.updCtx n f).lcache = s.lcache := rfl
@[simp] theorem updCtx_rdc (s : State) (n : Nat) (f : Ctx → Ctx) : (s.updCtx n f).rdc = s.rdc := rfl
@[simp] theorem updCtx_shoots (s : State) (n : Nat) (f : Ctx → Ctx) : (s.updCtx n f).shoots = s.shoots := rfl
@[simp] theorem updCtx_recs (s : State) (n : Nat) (f : Ctx → Ctx) : (s.updCtx n f).recs = s.recs := rfl
@[simp] theorem updCtx_chains (s : State) (n : Nat) (f : Ctx → Ctx) : (s.updCtx n f).chains = s.chains := rfl
@[simp] theorem updCtx_dieqs (s : State) (n : Nat) (f : Ctx → Ctx) : (s.updCtx n f).dieqs = s.dieqs := rfl
@[simp] theorem updCtx_outbox (s : State) (n : Nat) (f : Ctx → Ctx) : (s.updCtx n f).outbox = s.outbox := rfl
@[simp] theorem updCtx_replyq (s : State) (n : Nat) (f : Ctx → Ctx) : (s.updCtx n f).replyq = s.replyq := rfl
@[simp] theorem updCtx_mirHold (s : State) (n : Nat) (f : Ctx → Ctx) : (s.updCtx n f).mirHold = s.mirHold := rfl
@[simp] theorem updCtx_mircfg (s : State) (n : Nat) (f : Ctx → Ctx) : (s.updCtx n f).mircfg = s.mircfg := rfl
@[simp] theorem updCtx_connected (s : State) (n : Nat) (f : Ctx → Ctx) : (s.updCtx n f).connected = s.connected := rfl
@[simp] theorem updCtx_prism (s : State) (n : Nat) (f : Ctx → Ctx) : (s.updCtx n f).prism = s.prism := rfl
@[simp] theorem updCtx_time (s : State) (n : Nat) (f : Ctx → Ctx) : (s.updCtx n f).time = s.time := rfl
@[simp] theorem updCtx_links (s : State) (n : Nat) (f : Ctx → Ctx) : (s.updCtx n f).links = s.links := rfl
@[simp] theorem updCtx_ports (s : State) (n : Nat) (f : Ctx → Ctx) : (s.updCtx n f).ports = s.ports := rfl
@[simp] theorem updCtx_packets (s : State) (n : Nat) (f : Ctx → Ctx) : (s.updCtx n f).packets = s.packets := rfl
@[simp] theorem updCtx_dirs (s : State) (n : Nat) (f : Ctx → Ctx) : (s.updCtx n f).dirs = s.dirs := rfl
@[simp] theorem updCtx_fillReads (s : State) (n : Nat) (f : Ctx → Ctx) : (s.updCtx n f).fillReads = s.fillReads := rfl
@[simp] theorem updCtx_l1 (s : State) (n : Nat) (f : Ctx → Ctx) : (s.updCtx n f).l1 = s.l1 := rfl
@[simp] theorem updCtx_host (s : State) (n : Nat) (f : Ctx → Ctx) : (s.updCtx n f).host = s.host := rfl
@[simp] theorem updCtx_susp (s : State) (n : Nat) (f : Ctx → Ctx) : (s.updCtx n f).susp = s.susp := rfl
@[simp] theorem updCtx_err (s : State) (n : Nat) (f : Ctx → Ctx) : (s.updCtx n f).err = s.err := rfl
@[simp] theorem updCtx_thr (s : State) (n : Nat) (f : Ctx → Ctx) : (s.updCtx n f).thr = s.thr := rfl
@[simp] theorem updCtx_sec (s : State) (n : Nat) (f : Ctx → Ctx) : (s.updCtx n f).sec = s.sec := rfl
@[simp] theorem updCtx_cell (s : State) (n : Nat) (f : Ctx → Ctx) (j : Nat) : (s.updCtx n f).cell j = s.cell j := rfl
@[simp] theorem updCtx_condOf (s : State) (n : Nat) (f : Ctx → Ctx) (j : Nat) : (s.updCtx n f).condOf j = s.condOf j := rfl
@[simp] theorem updDieq_powered (s : State) (d q : Nat) (f : DieQ → DieQ) : (s.updDieq d q f).powered = s.powered := rfl
@[simp] theorem updDieq_agenda (s : State) (d q : Nat) (f : DieQ → DieQ) : (s.updDieq d q f).agenda = s.agenda := rfl
@[simp] theorem updDieq_clk (s : State) (d q : Nat) (f : DieQ → DieQ) : (s.updDieq d q f).clk = s.clk := rfl
@[simp] theorem updDieq_seq (s : State) (d q : Nat) (f : DieQ → DieQ) : (s.updDieq d q f).seq = s.seq := rfl
@[simp] theorem updDieq_free (s : State) (d q : Nat) (f : DieQ → DieQ) : (s.updDieq d q f).free = s.free := rfl
@[simp] theorem updDieq_landing (s : State) (d q : Nat) (f : DieQ → DieQ) : (s.updDieq d q f).landing = s.landing := rfl
@[simp] theorem updDieq_cur (s : State) (d q : Nat) (f : DieQ → DieQ) : (s.updDieq d q f).cur = s.cur := rfl
@[simp] theorem updDieq_sysws (s : State) (d q : Nat) (f : DieQ → DieQ) : (s.updDieq d q f).sysws = s.sysws := rfl
@[simp] theorem updDieq_cells (s : State) (d q : Nat) (f : DieQ → DieQ) : (s.updDieq d q f).cells = s.cells := rfl
@[simp] theorem updDieq_conds (s : State) (d q : Nat) (f : DieQ → DieQ) : (s.updDieq d q f).conds = s.conds := rfl
@[simp] theorem updDieq_mem (s : State) (d q : Nat) (f : DieQ → DieQ) : (s.updDieq d q f).mem = s.mem := rfl
@[simp] theorem updDieq_keyTag (s : State) (d q : Nat) (f : DieQ → DieQ) : (s.updDieq d q f).keyTag = s.keyTag := rfl
@[simp] theorem updDieq_oldWords (s : State) (d q : Nat) (f : DieQ → DieQ) : (s.updDieq d q f).oldWords = s.oldWords := rfl
@[simp] theorem updDieq_accs (s : State) (d q : Nat) (f : DieQ → DieQ) : (s.updDieq d q f).accs = s.accs := rfl
@[simp] theorem updDieq_held (s : State) (d q : Nat) (f : DieQ → DieQ) : (s.updDieq d q f).held = s.held := rfl
@[simp] theorem updDieq_late (s : State) (d q : Nat) (f : DieQ → DieQ) : (s.updDieq d q f).late = s.late := rfl
@[simp] theorem updDieq_reports (s : State) (d q : Nat) (f : DieQ → DieQ) : (s.updDieq d q f).reports = s.reports := rfl
@[simp] theorem updDieq_walks (s : State) (d q : Nat) (f : DieQ → DieQ) : (s.updDieq d q f).walks = s.walks := rfl
@[simp] theorem updDieq_refusals (s : State) (d q : Nat) (f : DieQ → DieQ) : (s.updDieq d q f).refusals = s.refusals := rfl
@[simp] theorem updDieq_wcache (s : State) (d q : Nat) (f : DieQ → DieQ) : (s.updDieq d q f).wcache = s.wcache := rfl
@[simp] theorem updDieq_lcache (s : State) (d q : Nat) (f : DieQ → DieQ) : (s.updDieq d q f).lcache = s.lcache := rfl
@[simp] theorem updDieq_rdc (s : State) (d q : Nat) (f : DieQ → DieQ) : (s.updDieq d q f).rdc = s.rdc := rfl
@[simp] theorem updDieq_shoots (s : State) (d q : Nat) (f : DieQ → DieQ) : (s.updDieq d q f).shoots = s.shoots := rfl
@[simp] theorem updDieq_recs (s : State) (d q : Nat) (f : DieQ → DieQ) : (s.updDieq d q f).recs = s.recs := rfl
@[simp] theorem updDieq_chains (s : State) (d q : Nat) (f : DieQ → DieQ) : (s.updDieq d q f).chains = s.chains := rfl
@[simp] theorem updDieq_ctxs (s : State) (d q : Nat) (f : DieQ → DieQ) : (s.updDieq d q f).ctxs = s.ctxs := rfl
@[simp] theorem updDieq_outbox (s : State) (d q : Nat) (f : DieQ → DieQ) : (s.updDieq d q f).outbox = s.outbox := rfl
@[simp] theorem updDieq_replyq (s : State) (d q : Nat) (f : DieQ → DieQ) : (s.updDieq d q f).replyq = s.replyq := rfl
@[simp] theorem updDieq_mirHold (s : State) (d q : Nat) (f : DieQ → DieQ) : (s.updDieq d q f).mirHold = s.mirHold := rfl
@[simp] theorem updDieq_mircfg (s : State) (d q : Nat) (f : DieQ → DieQ) : (s.updDieq d q f).mircfg = s.mircfg := rfl
@[simp] theorem updDieq_connected (s : State) (d q : Nat) (f : DieQ → DieQ) : (s.updDieq d q f).connected = s.connected := rfl
@[simp] theorem updDieq_prism (s : State) (d q : Nat) (f : DieQ → DieQ) : (s.updDieq d q f).prism = s.prism := rfl
@[simp] theorem updDieq_time (s : State) (d q : Nat) (f : DieQ → DieQ) : (s.updDieq d q f).time = s.time := rfl
@[simp] theorem updDieq_links (s : State) (d q : Nat) (f : DieQ → DieQ) : (s.updDieq d q f).links = s.links := rfl
@[simp] theorem updDieq_ports (s : State) (d q : Nat) (f : DieQ → DieQ) : (s.updDieq d q f).ports = s.ports := rfl
@[simp] theorem updDieq_packets (s : State) (d q : Nat) (f : DieQ → DieQ) : (s.updDieq d q f).packets = s.packets := rfl
@[simp] theorem updDieq_dirs (s : State) (d q : Nat) (f : DieQ → DieQ) : (s.updDieq d q f).dirs = s.dirs := rfl
@[simp] theorem updDieq_fillReads (s : State) (d q : Nat) (f : DieQ → DieQ) : (s.updDieq d q f).fillReads = s.fillReads := rfl
@[simp] theorem updDieq_l1 (s : State) (d q : Nat) (f : DieQ → DieQ) : (s.updDieq d q f).l1 = s.l1 := rfl
@[simp] theorem updDieq_host (s : State) (d q : Nat) (f : DieQ → DieQ) : (s.updDieq d q f).host = s.host := rfl
@[simp] theorem updDieq_susp (s : State) (d q : Nat) (f : DieQ → DieQ) : (s.updDieq d q f).susp = s.susp := rfl
@[simp] theorem updDieq_err (s : State) (d q : Nat) (f : DieQ → DieQ) : (s.updDieq d q f).err = s.err := rfl
@[simp] theorem updDieq_thr (s : State) (d q : Nat) (f : DieQ → DieQ) : (s.updDieq d q f).thr = s.thr := rfl
@[simp] theorem updDieq_sec (s : State) (d q : Nat) (f : DieQ → DieQ) : (s.updDieq d q f).sec = s.sec := rfl
@[simp] theorem updDieq_cell (s : State) (d q : Nat) (f : DieQ → DieQ) (j : Nat) : (s.updDieq d q f).cell j = s.cell j := rfl
@[simp] theorem updDieq_condOf (s : State) (d q : Nat) (f : DieQ → DieQ) (j : Nat) : (s.updDieq d q f).condOf j = s.condOf j := rfl
@[simp] theorem updDieq_ctxOf (s : State) (d q : Nat) (f : DieQ → DieQ) (j : Nat) : (s.updDieq d q f).ctxOf j = s.ctxOf j := rfl

/-! ## Fields of a cell and of a slot -/

@[simp] theorem setSlot_regs (x : Cell) (k : Nat) (y : Slot) : (x.setSlot k y).regs = x.regs := rfl
@[simp] theorem setSlot_wr (x : Cell) (k : Nat) (y : Slot) : (x.setSlot k y).wr = x.wr := rfl
@[simp] theorem setSlot_issued (x : Cell) (k : Nat) (y : Slot) : (x.setSlot k y).issued = x.issued := rfl
@[simp] theorem setSlot_lens (x : Cell) (k : Nat) (y : Slot) : (x.setSlot k y).lens = x.lens := rfl
@[simp] theorem setSlot_scanPtr (x : Cell) (k : Nat) (y : Slot) : (x.setSlot k y).scanPtr = x.scanPtr := rfl
@[simp] theorem setSlot_scanLeft (x : Cell) (k : Nat) (y : Slot) : (x.setSlot k y).scanLeft = x.scanLeft := rfl
@[simp] theorem setSlot_lensWr (x : Cell) (k : Nat) (y : Slot) : (x.setSlot k y).lensWr = x.lensWr := rfl
@[simp] theorem setSlot_ops (x : Cell) (k : Nat) (y : Slot) : (x.setSlot k y).ops = x.ops := rfl
@[simp] theorem setSlot_rows (x : Cell) (k : Nat) (y : Slot) : (x.setSlot k y).rows = x.rows := rfl
@[simp] theorem setSlot_lastAccept (x : Cell) (k : Nat) (y : Slot) : (x.setSlot k y).lastAccept = x.lastAccept := rfl
@[simp] theorem setSlot_handClk (x : Cell) (k : Nat) (y : Slot) : (x.setSlot k y).handClk = x.handClk := rfl
@[simp] theorem setSlot_copyq (x : Cell) (k : Nat) (y : Slot) : (x.setSlot k y).copyq = x.copyq := rfl
@[simp] theorem setSlot_defq (x : Cell) (k : Nat) (y : Slot) : (x.setSlot k y).defq = x.defq := rfl
@[simp] theorem setSlot_tlb (x : Cell) (k : Nat) (y : Slot) : (x.setSlot k y).tlb = x.tlb := rfl
@[simp] theorem setSlot_flushedOwn (x : Cell) (k : Nat) (y : Slot) : (x.setSlot k y).flushedOwn = x.flushedOwn := rfl
@[simp] theorem setSlot_flushedAll (x : Cell) (k : Nat) (y : Slot) : (x.setSlot k y).flushedAll = x.flushedAll := rfl
@[simp] theorem setSlot_iterqs (x : Cell) (k : Nat) (y : Slot) : (x.setSlot k y).iterqs = x.iterqs := rfl
@[simp] theorem setSlot_steal (x : Cell) (k : Nat) (y : Slot) : (x.setSlot k y).steal = x.steal := rfl
@[simp] theorem setSlot_stealClk (x : Cell) (k : Nat) (y : Slot) : (x.setSlot k y).stealClk = x.stealClk := rfl
@[simp] theorem setSlot_fails (x : Cell) (k : Nat) (y : Slot) : (x.setSlot k y).fails = x.fails := rfl
@[simp] theorem setSlot_tags (x : Cell) (k : Nat) (y : Slot) : (x.setSlot k y).tags = x.tags := rfl
@[simp] theorem setSlot_scrub (x : Cell) (k : Nat) (y : Slot) : (x.setSlot k y).scrub = x.scrub := rfl
@[simp] theorem setSlot_failTimes (x : Cell) (k : Nat) (y : Slot) : (x.setSlot k y).failTimes = x.failTimes := rfl
@[simp] theorem setStrand_st (y : Slot) (q : Kind) (v : Strand) : (y.setStrand q v).st = y.st := by cases q <;> rfl
@[simp] theorem setStrand_ctx (y : Slot) (q : Kind) (v : Strand) : (y.setStrand q v).ctx = y.ctx := by cases q <;> rfl
@[simp] theorem setStrand_pos (y : Slot) (q : Kind) (v : Strand) : (y.setStrand q v).pos = y.pos := by cases q <;> rfl
@[simp] theorem setStrand_recId (y : Slot) (q : Kind) (v : Strand) : (y.setStrand q v).recId = y.recId := by cases q <;> rfl
@[simp] theorem setStrand_recAddr (y : Slot) (q : Kind) (v : Strand) : (y.setStrand q v).recAddr = y.recAddr := by cases q <;> rfl
@[simp] theorem setStrand_launch (y : Slot) (q : Kind) (v : Strand) : (y.setStrand q v).launch = y.launch := by cases q <;> rfl
@[simp] theorem setStrand_prio (y : Slot) (q : Kind) (v : Strand) : (y.setStrand q v).prio = y.prio := by cases q <;> rfl
@[simp] theorem setStrand_lock (y : Slot) (q : Kind) (v : Strand) : (y.setStrand q v).lock = y.lock := by cases q <;> rfl
@[simp] theorem setStrand_round (y : Slot) (q : Kind) (v : Strand) : (y.setStrand q v).round = y.round := by cases q <;> rfl
@[simp] theorem setStrand_sweep (y : Slot) (q : Kind) (v : Strand) : (y.setStrand q v).sweep = y.sweep := by cases q <;> rfl
@[simp] theorem setStrand_stage (y : Slot) (q : Kind) (v : Strand) : (y.setStrand q v).stage = y.stage := by cases q <;> rfl
@[simp] theorem setStrand_sview (y : Slot) (q : Kind) (v : Strand) : (y.setStrand q v).sview = y.sview := by cases q <;> rfl
@[simp] theorem setStrand_vview (y : Slot) (q : Kind) (v : Strand) : (y.setStrand q v).vview = y.vview := by cases q <;> rfl
@[simp] theorem setStrand_aview (y : Slot) (q : Kind) (v : Strand) : (y.setStrand q v).aview = y.aview := by cases q <;> rfl
@[simp] theorem setStrand_q (y : Slot) (q : Kind) (v : Strand) : (y.setStrand q v).q = y.q := by cases q <;> rfl
@[simp] theorem setStrand_pushes (y : Slot) (q : Kind) (v : Strand) : (y.setStrand q v).pushes = y.pushes := by cases q <;> rfl
@[simp] theorem setStrand_h (y : Slot) (q : Kind) (v : Strand) : (y.setStrand q v).h = y.h := by cases q <;> rfl
@[simp] theorem setStrand_c (y : Slot) (q : Kind) (v : Strand) : (y.setStrand q v).c = y.c := by cases q <;> rfl
@[simp] theorem setStrand_p (y : Slot) (q : Kind) (v : Strand) : (y.setStrand q v).p = y.p := by cases q <;> rfl
@[simp] theorem setStrand_arrg (y : Slot) (q : Kind) (v : Strand) : (y.setStrand q v).arrg = y.arrg := by cases q <;> rfl
@[simp] theorem setStrand_pins (y : Slot) (q : Kind) (v : Strand) : (y.setStrand q v).pins = y.pins := by cases q <;> rfl
@[simp] theorem setStrand_itin (y : Slot) (q : Kind) (v : Strand) : (y.setStrand q v).itin = y.itin := by cases q <;> rfl
@[simp] theorem setStrand_ksets (y : Slot) (q : Kind) (v : Strand) : (y.setStrand q v).ksets = y.ksets := by cases q <;> rfl
@[simp] theorem setStrand_swaps (y : Slot) (q : Kind) (v : Strand) : (y.setStrand q v).swaps = y.swaps := by cases q <;> rfl
@[simp] theorem setStrand_freezing (y : Slot) (q : Kind) (v : Strand) : (y.setStrand q v).freezing = y.freezing := by cases q <;> rfl
@[simp] theorem setStrand_freezeNext (y : Slot) (q : Kind) (v : Strand) : (y.setStrand q v).freezeNext = y.freezeNext := by cases q <;> rfl
@[simp] theorem setStrand_frozenBy (y : Slot) (q : Kind) (v : Strand) : (y.setStrand q v).frozenBy = y.frozenBy := by cases q <;> rfl
@[simp] theorem setStrand_lastFault (y : Slot) (q : Kind) (v : Strand) : (y.setStrand q v).lastFault = y.lastFault := by cases q <;> rfl
@[simp] theorem setStrand_live (y : Slot) (q : Kind) (v : Strand) : (y.setStrand q v).live = y.live := by cases q <;> rfl
@[simp] theorem setStrand_preReq (y : Slot) (q : Kind) (v : Strand) : (y.setStrand q v).preReq = y.preReq := by cases q <;> rfl
@[simp] theorem setStrand_preClk (y : Slot) (q : Kind) (v : Strand) : (y.setStrand q v).preClk = y.preClk := by cases q <;> rfl
@[simp] theorem setStrand_preBy (y : Slot) (q : Kind) (v : Strand) : (y.setStrand q v).preBy = y.preBy := by cases q <;> rfl
@[simp] theorem setStrand_ftime (y : Slot) (q : Kind) (v : Strand) : (y.setStrand q v).ftime = y.ftime := by cases q <;> rfl
@[simp] theorem setStrand_parkSeq (y : Slot) (q : Kind) (v : Strand) : (y.setStrand q v).parkSeq = y.parkSeq := by cases q <;> rfl
@[simp] theorem setStrand_suspendEv (y : Slot) (q : Kind) (v : Strand) : (y.setStrand q v).suspendEv = y.suspendEv := by cases q <;> rfl
@[simp] theorem setStrand_pages (y : Slot) (q : Kind) (v : Strand) : (y.setStrand q v).pages = y.pages := by cases q <;> rfl
@[simp] theorem setStrand_lastVa (y : Slot) (q : Kind) (v : Strand) : (y.setStrand q v).lastVa = y.lastVa := by cases q <;> rfl
@[simp] theorem updQueue_st (y : Slot) (q r : Kind) (g : TokQ → TokQ) : (y.updQueue q r g).st = y.st := rfl
@[simp] theorem updQueue_ctx (y : Slot) (q r : Kind) (g : TokQ → TokQ) : (y.updQueue q r g).ctx = y.ctx := rfl
@[simp] theorem updQueue_pos (y : Slot) (q r : Kind) (g : TokQ → TokQ) : (y.updQueue q r g).pos = y.pos := rfl
@[simp] theorem updQueue_recId (y : Slot) (q r : Kind) (g : TokQ → TokQ) : (y.updQueue q r g).recId = y.recId := rfl
@[simp] theorem updQueue_recAddr (y : Slot) (q r : Kind) (g : TokQ → TokQ) : (y.updQueue q r g).recAddr = y.recAddr := rfl
@[simp] theorem updQueue_launch (y : Slot) (q r : Kind) (g : TokQ → TokQ) : (y.updQueue q r g).launch = y.launch := rfl
@[simp] theorem updQueue_prio (y : Slot) (q r : Kind) (g : TokQ → TokQ) : (y.updQueue q r g).prio = y.prio := rfl
@[simp] theorem updQueue_lock (y : Slot) (q r : Kind) (g : TokQ → TokQ) : (y.updQueue q r g).lock = y.lock := rfl
@[simp] theorem updQueue_round (y : Slot) (q r : Kind) (g : TokQ → TokQ) : (y.updQueue q r g).round = y.round := rfl
@[simp] theorem updQueue_sweep (y : Slot) (q r : Kind) (g : TokQ → TokQ) : (y.updQueue q r g).sweep = y.sweep := rfl
@[simp] theorem updQueue_stage (y : Slot) (q r : Kind) (g : TokQ → TokQ) : (y.updQueue q r g).stage = y.stage := rfl
@[simp] theorem updQueue_sview (y : Slot) (q r : Kind) (g : TokQ → TokQ) : (y.updQueue q r g).sview = y.sview := rfl
@[simp] theorem updQueue_vview (y : Slot) (q r : Kind) (g : TokQ → TokQ) : (y.updQueue q r g).vview = y.vview := rfl
@[simp] theorem updQueue_aview (y : Slot) (q r : Kind) (g : TokQ → TokQ) : (y.updQueue q r g).aview = y.aview := rfl
@[simp] theorem updQueue_s (y : Slot) (q r : Kind) (g : TokQ → TokQ) : (y.updQueue q r g).s = y.s := rfl
@[simp] theorem updQueue_a (y : Slot) (q r : Kind) (g : TokQ → TokQ) : (y.updQueue q r g).a = y.a := rfl
@[simp] theorem updQueue_x (y : Slot) (q r : Kind) (g : TokQ → TokQ) : (y.updQueue q r g).x = y.x := rfl
@[simp] theorem updQueue_w (y : Slot) (q r : Kind) (g : TokQ → TokQ) : (y.updQueue q r g).w = y.w := rfl
@[simp] theorem updQueue_pushes (y : Slot) (q r : Kind) (g : TokQ → TokQ) : (y.updQueue q r g).pushes = y.pushes := rfl
@[simp] theorem updQueue_h (y : Slot) (q r : Kind) (g : TokQ → TokQ) : (y.updQueue q r g).h = y.h := rfl
@[simp] theorem updQueue_c (y : Slot) (q r : Kind) (g : TokQ → TokQ) : (y.updQueue q r g).c = y.c := rfl
@[simp] theorem updQueue_p (y : Slot) (q r : Kind) (g : TokQ → TokQ) : (y.updQueue q r g).p = y.p := rfl
@[simp] theorem updQueue_arrg (y : Slot) (q r : Kind) (g : TokQ → TokQ) : (y.updQueue q r g).arrg = y.arrg := rfl
@[simp] theorem updQueue_pins (y : Slot) (q r : Kind) (g : TokQ → TokQ) : (y.updQueue q r g).pins = y.pins := rfl
@[simp] theorem updQueue_itin (y : Slot) (q r : Kind) (g : TokQ → TokQ) : (y.updQueue q r g).itin = y.itin := rfl
@[simp] theorem updQueue_ksets (y : Slot) (q r : Kind) (g : TokQ → TokQ) : (y.updQueue q r g).ksets = y.ksets := rfl
@[simp] theorem updQueue_swaps (y : Slot) (q r : Kind) (g : TokQ → TokQ) : (y.updQueue q r g).swaps = y.swaps := rfl
@[simp] theorem updQueue_freezing (y : Slot) (q r : Kind) (g : TokQ → TokQ) : (y.updQueue q r g).freezing = y.freezing := rfl
@[simp] theorem updQueue_freezeNext (y : Slot) (q r : Kind) (g : TokQ → TokQ) : (y.updQueue q r g).freezeNext = y.freezeNext := rfl
@[simp] theorem updQueue_frozenBy (y : Slot) (q r : Kind) (g : TokQ → TokQ) : (y.updQueue q r g).frozenBy = y.frozenBy := rfl
@[simp] theorem updQueue_lastFault (y : Slot) (q r : Kind) (g : TokQ → TokQ) : (y.updQueue q r g).lastFault = y.lastFault := rfl
@[simp] theorem updQueue_live (y : Slot) (q r : Kind) (g : TokQ → TokQ) : (y.updQueue q r g).live = y.live := rfl
@[simp] theorem updQueue_preReq (y : Slot) (q r : Kind) (g : TokQ → TokQ) : (y.updQueue q r g).preReq = y.preReq := rfl
@[simp] theorem updQueue_preClk (y : Slot) (q r : Kind) (g : TokQ → TokQ) : (y.updQueue q r g).preClk = y.preClk := rfl
@[simp] theorem updQueue_preBy (y : Slot) (q r : Kind) (g : TokQ → TokQ) : (y.updQueue q r g).preBy = y.preBy := rfl
@[simp] theorem updQueue_ftime (y : Slot) (q r : Kind) (g : TokQ → TokQ) : (y.updQueue q r g).ftime = y.ftime := rfl
@[simp] theorem updQueue_parkSeq (y : Slot) (q r : Kind) (g : TokQ → TokQ) : (y.updQueue q r g).parkSeq = y.parkSeq := rfl
@[simp] theorem updQueue_suspendEv (y : Slot) (q r : Kind) (g : TokQ → TokQ) : (y.updQueue q r g).suspendEv = y.suspendEv := rfl
@[simp] theorem updQueue_pages (y : Slot) (q r : Kind) (g : TokQ → TokQ) : (y.updQueue q r g).pages = y.pages := rfl
@[simp] theorem updQueue_lastVa (y : Slot) (q r : Kind) (g : TokQ → TokQ) : (y.updQueue q r g).lastVa = y.lastVa := rfl

end Machine

end Sys2Proof
end

