-- ==== Sys2Proof/Laws/Issue.lean ====
section
/-! SUPPORT. What the issue of an instruction does, said once: pops and reservations touch only token queues and pushes, the
PC of the issuing agent moves, and nothing else changes. -/

namespace Sys2Proof.Machine

/-! ## Pops and reservations -/

theorem popAll_eq (wb : Nat) (x : Kind) (sl : Slot) : popAll wb x sl = { sl with q := (popAll wb x sl).q } := by
  unfold popAll
  generalize named wb x = l
  induction l generalizing sl with
  | nil => rfl
  | cons y t ih => simp only [List.foldl_cons]; rw [ih]; simp [Slot.updQueue]

theorem reserve_eq (sb : Nat) (x : Kind) (n : Nat) (due : PushAt) (sl : Slot) :
    reserve sb x n due sl = { sl with q := (reserve sb x n due sl).q, pushes := (reserve sb x n due sl).pushes } := by
  unfold reserve
  generalize named sb x = l
  induction l generalizing sl with
  | nil => rfl
  | cons y t ih => simp only [List.foldl_cons]; rw [ih]; simp [Slot.updQueue]

/-- The slot of an issuing strand: token queues, pushes and the strand's PC and age, nothing else (R27). -/
theorem issueSlot_eq (i : Cur) (x : Kind) (stays : Bool) (pc : Word) (pf cs : PushAt) (sl : Slot) :
    issueSlot i x stays pc pf cs sl =
      ({ sl with q := (issueSlot i x stays pc pf cs sl).q, pushes := (issueSlot i x stays pc pf cs sl).pushes }).setStrand x
        { sl.strand x with pc := if stays then (sl.strand x).pc else pc, age := 0 } := by
  have h : ∀ q p, (({ sl with q := q, pushes := p } : Slot)).strand x = sl.strand x := by intros; cases x <;> rfl
  unfold issueSlot
  simp only
  rw [reserve_eq, popAll_eq]
  cases x <;> simp [Slot.setStrand, Slot.strand]

theorem issueSlot_strand (i : Cur) (x : Kind) (stays : Bool) (pc : Word) (pf cs : PushAt) (sl : Slot) (hx : x ≠ .C) :
    (issueSlot i x stays pc pf cs sl).strand x =
      { sl.strand x with pc := if stays then (sl.strand x).pc else pc, age := 0 } := by
  rw [issueSlot_eq, strand_setStrand _ _ _ _ hx hx]; simp

theorem issueSlot_strand_ne (i : Cur) (x y : Kind) (stays : Bool) (pc : Word) (pf cs : PushAt) (sl : Slot) (hy : y ≠ x)
    (hx : x ≠ .C) (hyc : y ≠ .C) : (issueSlot i x stays pc pf cs sl).strand y = sl.strand y := by
  rw [issueSlot_eq, strand_setStrand _ _ _ _ hx hyc, if_neg hy]
  cases y <;> rfl

theorem issueTo_strand (s : State) (c k : Nat) (x : Kind) (pc : Word) (pf cs : PushAt) (h : s.cur.agent = .strand c k x) :
    issueTo pc pf cs s = ({ s with cur := { s.cur with done := true } }).updCell c fun cl =>
      { cl.setSlot k (issueSlot s.cur x (s.repeating s.cur.agent) pc pf cs (cl.slot k)) with issued := (x, k) :: cl.issued } := by
  unfold issueTo; rw [h]

theorem issueTo_cond (s : State) (n : Nat) (pc : Word) (pf cs : PushAt) (h : s.cur.agent = .cond n) :
    issueTo pc pf cs s = ({ s with cur := { s.cur with done := true } }).updCond n fun y =>
      { y with pc := if s.repeating s.cur.agent then y.pc else pc, issuedClk := some s.clk } := by
  unfold issueTo; rw [h]

/-- A slot whose strand is written as it was. -/
theorem setStrand_self (y : Slot) (q : Kind) : y.setStrand q (y.strand q) = y := by cases q <;> rfl

/-- The state just before an issue: as `s`, but for writes in flight and the issuing strand, now `y`. -/
structure Pending (s s1 : State) (c k : Nat) (x : Kind) (ws : List RegWrite) (y : Strand) : Prop where
  rest : s1 = { s with cells := s1.cells }
  other : ∀ j, j ≠ c → s1.cell j = s.cell j
  cell : s1.cell c = { s.cell c with wr := (s.cell c).wr ++ ws, slots := (s1.cell c).slots }
  slots : ∀ j, j ≠ k → s1.slot c j = s.slot c j
  slot : s1.slot c k = (s.slot c k).setStrand x y

/-- What is so after the issue of a strand's instruction: results in flight, the strand `y` with its PC moved (R27, R28). -/
structure Issued (s t : State) (c k : Nat) (x : Kind) (ws : List RegWrite) (y : Strand) (pc : Word) : Prop where
  writes : (t.cell c).wr = (s.cell c).wr ++ ws
  goes : GoesTo s t pc
  only : OnlyIssuer s t
  rest : SameElsewhere s t
  strand : t.strand c k x = { y with pc := (t.strand c k x).pc, age := 0 }

theorem issue_strand {s s1 : State} {c k : Nat} {x : Kind} {ws : List RegWrite} {y : Strand} (hx : x ≠ .C)
    (h : s.cur.agent = .strand c k x) (p : Pending s s1 c k x ws y) (hy : y.repst = (s.strand c k x).repst)
    (hpc : y.pc = (s.strand c k x).pc) (pc : Word) (pf cs : PushAt) : Issued s (issueTo pc pf cs s1) c k x ws y pc := by
  have hc : s1.cur = s.cur := by rw [p.rest]
  have hs : s1.strand c k x = y := by
    simp only [State.strand, p.slot]; rw [strand_setStrand _ _ _ _ hx hx]; simp
  have hr : s1.repeating s1.cur.agent = s.repeating (.strand c k x) := by
    rw [hc, h]; simp only [State.repeating, State.repst, hs, hy]
  generalize ht' : issueTo pc pf cs s1 = t
  have ht := issueTo_strand s1 c k x pc pf cs (by rw [hc, h])
  rw [ht', hr, hc] at ht
  have e1 : t.cell c = { (s1.cell c).setSlot k (issueSlot s.cur x (s.repeating (.strand c k x)) pc pf cs ((s1.cell c).slot k)) with
      issued := (x, k) :: (s1.cell c).issued } := by
    rw [ht, cell_updCell_same]; rfl
  have e2 : t.slot c k = issueSlot s.cur x (s.repeating (.strand c k x)) pc pf cs (s1.slot c k) := by
    simp only [State.slot, e1]; simp [Cell.slot, Cell.setSlot]
  have e3 : t.strand c k x = { y with
      pc := if s.repeating (.strand c k x) then (s.strand c k x).pc else pc, age := 0 } := by
    simp only [State.strand, e2]; rw [issueSlot_strand _ _ _ _ _ _ _ hx]
    have := hs; simp only [State.strand] at this hpc; rw [this, hpc]
  have e0 : t = { s with cells := t.cells, cur := { s.cur with done := true } } := by
    rw [ht]; conv => lhs; rw [p.rest]
    rfl
  refine ⟨by rw [e1, p.cell]; simp, ⟨by rw [e0], ?_⟩, ?_, ?_, by rw [e3]⟩
  · rw [h]; simp only [State.pcOf, e3]
  · unfold OnlyIssuer; rw [h]; simp only
    refine ⟨by rw [e0], fun c' hc => ?_, ?_, fun k' hk => ?_, ?_, fun q hq hqc => ?_⟩
    · rw [← p.other c' hc, ht, cell_updCell, if_neg hc]; rfl
    · rw [e1, p.cell]; rfl
    · rw [← p.slots k' hk]; simp only [State.slot, e1]; simp [Cell.slot, Cell.setSlot, Tab.get_set, hk]
    · rw [e2, issueSlot_eq, p.slot]
      cases x <;> rfl
    · have := issueSlot_strand_ne s.cur x q (s.repeating (.strand c k x)) pc pf cs (s1.slot c k) hq hx hqc
      simp only [State.strand, e2]; rw [this, p.slot, strand_setStrand _ _ _ _ hx hqc, if_neg hq]
  · unfold SameElsewhere; conv => lhs; rw [e0]
    rw [e0]

/-- What is so after the issue of a conductor's instruction. -/
structure IssuedC (s t : State) (n : Nat) (ws : List (Nat × Nat × Word × Nat)) (y : Cond) (pc : Word) : Prop where
  writes : (t.condOf n).wr = (s.condOf n).wr ++ ws
  goes : GoesTo s t pc
  only : OnlyIssuer s t
  rest : SameElsewhere s t
  cond : t.condOf n = { y with pc := (t.condOf n).pc, wr := (t.condOf n).wr, issuedClk := some s.clk }

theorem issue_cond {s s1 : State} {n : Nat} {ws : List (Nat × Nat × Word × Nat)} {y : Cond}
    (h : s.cur.agent = .cond n) (h0 : s1 = { s with conds := s1.conds })
    (h1 : ∀ j, j ≠ n → s1.condOf j = s.condOf j) (h2 : s1.condOf n = y) (hw : y.wr = (s.condOf n).wr ++ ws)
    (hr : y.repst = (s.condOf n).repst) (hpc : y.pc = (s.condOf n).pc) (pc : Word) (pf cs : PushAt) :
    IssuedC s (issueTo pc pf cs s1) n ws y pc := by
  have hc : s1.cur = s.cur := by rw [h0]
  have hr : s1.repeating s1.cur.agent = s.repeating (.cond n) := by
    rw [hc, h]; simp only [State.repeating, State.repst, h2, hr]
  have hk : s1.clk = s.clk := by rw [h0]
  generalize ht' : issueTo pc pf cs s1 = t
  have ht := issueTo_cond s1 n pc pf cs (by rw [hc, h])
  rw [ht', hr, hc, hk] at ht
  have e1 : t.condOf n = { y with pc := if s.repeating (.cond n) then (s.condOf n).pc else pc, issuedClk := some s.clk } := by
    rw [ht, condOf_updCond_same]
    show ({ s1.condOf n with pc := if s.repeating (.cond n) then (s1.condOf n).pc else pc, issuedClk := some s.clk } : Cond) = _
    rw [h2, hpc]
  have e0 : t = { s with conds := t.conds, cur := { s.cur with done := true } } := by
    rw [ht]; conv => lhs; rw [h0]
    rfl
  refine ⟨by rw [e1]; exact hw, ⟨by rw [e0], ?_⟩, ?_, ?_, by rw [e1]⟩
  · rw [h]; simp only [State.pcOf, e1]
  · unfold OnlyIssuer; rw [h]; simp only
    refine ⟨by rw [e0], fun m hm => ?_⟩
    rw [← h1 m hm, ht, condOf_updCond, if_neg hm]; rfl
  · unfold SameElsewhere; conv => lhs; rw [e0]
    rw [e0]

/-- A result of the scalar units is in flight. -/
theorem pending_writeS {s : State} {c k : Nat} {x : Kind} (h : s.cur.agent = .strand c k x) (e : Bool) (d : Nat) (v : Word)
    (l : Nat) :
    Pending s (putS e (dstS s s.cur.agent d) v (s.clk + l - 1) s.cur.seq s) c k x
      (if d = 0 then [] else [{ seq := s.cur.seq, slot := k, k := x, engine := e, interlock := true, slate := true
                                due := s.clk + l - 1, off := sOff (s.slot c k) x d, len := 8, mask := 1, val := v.toNat }])
      (s.strand c k x) := by
  rw [h]
  by_cases hd : d = 0
  · subst hd
    exact ⟨rfl, fun _ _ => rfl, by simp [dstS, putS], fun _ _ => rfl, by
      simp only [dstS, putS, if_true]
      exact (setStrand_self _ x).symm⟩
  · simp only [dstS, putS, hd, if_false]
    refine ⟨rfl, fun j hj => by simp [cell_updCell, hj], by simp, fun j _ => by simp [State.slot, Cell.slot], ?_⟩
    exact (setStrand_self (s.slot c k) x).symm ▸ (by simp [State.slot, Cell.slot, State.cell, State.updCell, State.setCell])

end Sys2Proof.Machine
end

