-- ==== Sys2Proof/Laws/Memory.lean ====
section
/-! SUPPORT. Memory: reading what was written, and the one canonical form, which every operation over memory keeps; the same for
the table of key slots, and for the state's writes under key slots. -/

namespace Sys2Proof

namespace Memory

/-! ## The canonical form -/

/-- A memory that is canonical above `b` is canonical above every lower bound. -/
theorem wfFrom_mono {a b : Nat} (h : a ≤ b) : ∀ {m : Memory}, wfFrom b m = true → wfFrom a m = true
  | [], _ => rfl
  | (j, v) :: t, hw => by
    simp only [wfFrom, Bool.and_eq_true, decide_eq_true_eq] at hw ⊢
    exact ⟨⟨by omega, hw.1.2⟩, hw.2⟩

/-- A write keeps the canonical form. -/
theorem write_wfFrom {lo a : Nat} (v : Byte) (h : lo ≤ a) : ∀ {m : Memory}, wfFrom lo m = true → wfFrom lo (write a v m) = true
  | [], _ => by
    simp only [write]
    split <;> simp_all [wfFrom]
  | (j, b) :: t, hw => by
    have hw' := hw
    simp only [wfFrom, Bool.and_eq_true, decide_eq_true_eq] at hw
    obtain ⟨⟨hj, hb⟩, ht⟩ := hw
    simp only [write]
    split
    · split
      · exact hw'
      · simp only [wfFrom, Bool.and_eq_true, decide_eq_true_eq]
        exact ⟨⟨h, by simpa using ‹¬v = unlisted›⟩, ⟨⟨by omega, hb⟩, ht⟩⟩
    · split
      · split
        · exact wfFrom_mono (by omega) ht
        · subst_vars
          simp only [wfFrom, Bool.and_eq_true, decide_eq_true_eq]
          exact ⟨⟨h, by simpa using ‹¬v = unlisted›⟩, ht⟩
      · simp only [wfFrom, Bool.and_eq_true, decide_eq_true_eq]
        exact ⟨⟨hj, hb⟩, write_wfFrom v (by omega) ht⟩

@[simp] theorem write_wf (a : Nat) (v : Byte) {m : Memory} (h : wf m = true) : wf (write a v m) = true :=
  write_wfFrom v (Nat.zero_le a) h

theorem writeN_wf {m : Memory} (h : wf m = true) (a n v : Nat) : wf (writeN m a n v) = true := by
  induction n generalizing m a v with
  | zero => exact h
  | succ n ih => exact ih (write_wf a _ h) _ _

theorem writeL_wf {m : Memory} (h : wf m = true) (a : Nat) (l : List Byte) : wf (writeL m a l) = true := by
  induction l generalizing m a with
  | nil => exact h
  | cons b l ih => exact ih (write_wf a b h) _

/-- Taking entries away keeps the canonical form. -/
theorem filter_wfFrom (p : Host.Cell → Bool) : ∀ {lo : Nat} {m : Memory}, wfFrom lo m = true → wfFrom lo (m.filter p) = true
  | _, [], h => h
  | lo, (j, b) :: t, h => by
    simp only [wfFrom, Bool.and_eq_true, decide_eq_true_eq] at h
    simp only [List.filter]
    split
    · simp only [wfFrom, Bool.and_eq_true, decide_eq_true_eq]
      exact ⟨h.1, filter_wfFrom p h.2⟩
    · exact filter_wfFrom p (wfFrom_mono (by omega) h.2)

theorem clear_wf {m : Memory} (h : wf m = true) (a n : Nat) : wf (clear m a n) = true := filter_wfFrom _ h

/-! ## Reading back -/

/-- Below its first entry a canonical memory reads as an unlisted address. -/
theorem read_of_lt {a : Nat} : ∀ {lo : Nat} {m : Memory}, wfFrom lo m = true → a < lo → read a m = unlisted
  | _, [], _, _ => rfl
  | lo, (j, b) :: t, h, hl => by
    simp only [wfFrom, Bool.and_eq_true, decide_eq_true_eq] at h
    rw [read, if_neg (by omega)]
    exact read_of_lt h.2 (by omega)

theorem read_write_from {a j : Nat} (v : Byte) : ∀ {lo : Nat} {m : Memory}, wfFrom lo m = true →
    read j (write a v m) = if j = a then v else read j m
  | _, [], _ => by
    simp only [write]
    split <;> simp only [read] <;> grind
  | lo, (i, b) :: t, h => by
    simp only [wfFrom, Bool.and_eq_true, decide_eq_true_eq] at h
    have hi : read i t = unlisted := read_of_lt h.2 (by omega)
    have ha : a < i → read a t = unlisted := fun hl => read_of_lt h.2 (by omega)
    simp only [write]
    split
    · split <;> simp only [read] <;> grind
    · split
      · split <;> simp only [read] <;> grind
      · simp only [read, read_write_from v h.2]; grind

/-- A written byte is read back and every other byte reads as before. -/
theorem read_write {m : Memory} (h : wf m = true) (a j : Nat) (v : Byte) :
    read j (write a v m) = if j = a then v else read j m := read_write_from v h

/-- A write of `n` bytes leaves every other byte as it was. -/
theorem read_writeN_outside {m : Memory} (h : wf m = true) {a n j : Nat} (v : Nat) (hj : j < a ∨ a + n ≤ j) :
    read j (writeN m a n v) = read j m := by
  induction n generalizing m a v with
  | zero => rfl
  | succ n ih =>
    rw [writeN, ih (write_wf a _ h) _ (by omega), read_write h, if_neg (by omega)]

/-- Two canonical memories that read alike are equal. -/
theorem ext_from : ∀ {lo : Nat} {m k : Memory}, wfFrom lo m = true → wfFrom lo k = true → (∀ a, read a m = read a k) → m = k
  | _, [], [], _, _, _ => rfl
  | _, [], (i, b) :: t, _, hk, he => by
    simp only [wfFrom, Bool.and_eq_true, decide_eq_true_eq] at hk
    have := he i
    simp [read] at this
    exact absurd this.symm (by simpa using hk.1.2)
  | _, (i, b) :: t, [], hm, _, he => by
    simp only [wfFrom, Bool.and_eq_true, decide_eq_true_eq] at hm
    have := he i
    simp [read] at this
    exact absurd this (by simpa using hm.1.2)
  | lo, (i, b) :: t, (j, c) :: u, hm, hk, he => by
    simp only [wfFrom, Bool.and_eq_true, decide_eq_true_eq] at hm hk
    have hb : b ≠ unlisted := by simpa using hm.1.2
    have hc : c ≠ unlisted := by simpa using hk.1.2
    have hij : i = j := by
      rcases Nat.lt_trichotomy i j with h | h | h
      · have := he i
        rw [read, if_pos rfl, read, if_neg (by omega), read_of_lt hk.2 (by omega)] at this
        exact absurd this hb
      · exact h
      · have := he j
        rw [read, if_neg (by omega), read_of_lt hm.2 (by omega), read, if_pos rfl] at this
        exact absurd this.symm hc
    subst hij
    have hbc : b = c := by simpa [read] using he i
    subst hbc
    refine congrArg _ (ext_from hm.2 hk.2 fun a => ?_)
    rcases Nat.lt_or_ge i a with h | h
    · have := he a
      rwa [read, if_neg (by omega), read, if_neg (by omega)] at this
    · rw [read_of_lt hm.2 (by omega), read_of_lt hk.2 (by omega)]

theorem ext {m k : Memory} (hm : wf m = true) (hk : wf k = true) (he : ∀ a, read a m = read a k) : m = k := ext_from hm hk he

end Memory

namespace Tab

/-- A write to a table with rising keys keeps its keys rising, and adds no key but its own. -/
theorem set_keys {α : Type} (k : Nat) (v : α) : ∀ {t : Tab α}, (t.map Prod.fst).Pairwise (· < ·) →
    ((set k v t).map Prod.fst).Pairwise (· < ·) ∧ ∀ j ∈ (set k v t).map Prod.fst, j = k ∨ j ∈ t.map Prod.fst
  | [], _ => by simp [set]
  | (i, a) :: t, h => by
    simp only [List.map_cons, List.pairwise_cons] at h
    have ih := set_keys k v h.2
    simp only [set]
    split
    · refine ⟨?_, by simp⟩
      simp only [List.map_cons, List.pairwise_cons, List.mem_cons]
      exact ⟨by rintro j (rfl | hj); · assumption
                · exact Nat.lt_trans ‹k < i› (h.1 j hj), h.1, h.2⟩
    · split
      · subst_vars
        exact ⟨by simpa only [List.map_cons, List.pairwise_cons] using h, by simp⟩
      · simp only [List.map_cons, List.pairwise_cons, List.mem_cons]
        refine ⟨⟨fun j hj => ?_, ih.1⟩, fun j hj => ?_⟩
        · rcases ih.2 j hj with rfl | hj
          · omega
          · exact h.1 j hj
        · rcases hj with rfl | hj
          · exact .inr (.inl rfl)
          · rcases ih.2 j hj with rfl | hj
            · exact .inl rfl
            · exact .inr (.inr hj)

theorem set_rising {α : Type} (k : Nat) (v : α) {t : Tab α} (h : (t.map Prod.fst).Pairwise (· < ·)) :
    ((set k v t).map Prod.fst).Pairwise (· < ·) := (set_keys k v h).1

theorem del_sublist {α : Type} (k : Nat) : ∀ t : Tab α, (del k t).Sublist t
  | [] => .slnil
  | (i, a) :: t => by
    simp only [del]
    split
    · exact List.sublist_cons_self _ _
    · exact (del_sublist k t).cons₂ _

theorem del_rising {α : Type} (k : Nat) {t : Tab α} (h : (t.map Prod.fst).Pairwise (· < ·)) :
    ((del k t).map Prod.fst).Pairwise (· < ·) := h.sublist ((del_sublist k t).map _)

end Tab

namespace Machine

/-! ## The state's memory -/

/-- Reset has memory in its canonical form. -/
theorem reset_memoryOk : MemoryOk State.reset := ⟨rfl, List.Pairwise.nil⟩

/-- Only the memory and the table of key slots matter to the form. -/
theorem MemoryOk.of_eq {s t : State} (h : MemoryOk s) (hm : t.mem = s.mem) (hk : t.keyTag = s.keyTag) : MemoryOk t := by
  unfold MemoryOk; rw [hm, hk]; exact h

theorem MemoryOk.reachSector {s : State} (h : MemoryOk s) (pa key : Nat) : MemoryOk (s.reachSector pa key) := by
  unfold State.reachSector
  split
  · exact h
  · refine ⟨by dsimp only; exact Memory.writeN_wf h.1 _ _ _, ?_⟩
    dsimp only
    split
    · exact Tab.del_rising _ h.2
    · exact Tab.set_rising _ _ h.2

theorem MemoryOk.putByte {s : State} (h : MemoryOk s) (pa key : Nat) (v : Byte) : MemoryOk (s.putByte pa key v) := by
  have h' := h.reachSector pa key
  unfold State.putByte
  generalize s.reachSector pa key = r at h' ⊢
  exact ⟨Memory.write_wf _ _ h'.1, h'.2⟩

theorem MemoryOk.putBytes {s : State} (h : MemoryOk s) (pa key : Nat) (l : List Byte) : MemoryOk (s.putBytes pa key l) := by
  induction l generalizing s pa with
  | nil => exact h
  | cons b l ih => exact ih (h.putByte pa key b) _

theorem MemoryOk.noteOld {s : State} (h : MemoryOk s) (who pa n key : Nat) : MemoryOk (s.noteOld who pa n key) := h.of_eq rfl rfl
theorem MemoryOk.heal {s : State} (h : MemoryOk s) (pa n : Nat) : MemoryOk (s.heal pa n) := h.of_eq rfl rfl

theorem MemoryOk.memWriteL {s : State} (h : MemoryOk s) (who pa key : Nat) (l : List Byte) : MemoryOk (s.memWriteL who pa key l) :=
  ((h.noteOld who pa l.length key).putBytes pa key l).heal pa l.length

theorem MemoryOk.memWrite {s : State} (h : MemoryOk s) (who pa n v key : Nat) : MemoryOk (s.memWrite who pa n v key) :=
  h.memWriteL who pa key _

/-- A write to a cell's register space, or to a conductor's memories, keeps them canonical as it keeps memory. -/
theorem regs_writes_wf {m : Memory} (h : Memory.wf m = true) (l : List (Nat × Nat × Nat)) :
    Memory.wf (l.foldl (fun m (o, n, v) => Memory.writeN m o n v) m) = true := by
  induction l generalizing m with
  | nil => exact h
  | cons p l ih => exact ih (Memory.writeN_wf h _ _ _)

end Machine

end Sys2Proof
end

