-- ==== Sys2Proof/Laws/PerInstr.lean ====
section
/-! SUPPORT. Per instruction: `BuildOfCode`, the heart of decoding what was encoded. What the decoder builds of the opcode, operand
field and literal that an instruction is encoded with is that instruction, when every field fits and the form field is that of its
row (R73 to R80). A row without an encoding has nothing to build. -/

namespace Sys2Proof

/-! ## An operand field gives back its fields -/

/-- Format A. -/
theorem FmtA.dec_enc {x : FmtA} (h : x.fits = true) : FmtA.dec x.enc = x := by
  simp only [FmtA.fits, Bool.and_eq_true, decide_eq_true_eq] at h
  simp only [FmtA.dec, FmtA.enc]
  obtain ⟨_, _, _, _, _⟩ := x
  simp only [FmtA.mk.injEq] at *
  omega

/-- Format I. -/
theorem FmtI.dec_enc {x : FmtI} (h : x.fits = true) : FmtI.dec x.enc = x := by
  simp only [FmtI.fits, Bool.and_eq_true, decide_eq_true_eq] at h
  simp only [FmtI.dec, FmtI.enc]
  obtain ⟨_, _, _⟩ := x
  simp only [FmtI.mk.injEq] at *
  omega

/-- Format B. -/
theorem FmtB.dec_enc {x : FmtB} (h : x.fits = true) : FmtB.dec x.enc = x := by
  simp only [FmtB.fits, Bool.and_eq_true, decide_eq_true_eq] at h
  simp only [FmtB.dec, FmtB.enc]
  obtain ⟨_, _, _, _, _⟩ := x
  simp only [FmtB.mk.injEq] at *
  omega

/-- Format M. -/
theorem FmtM.dec_enc {x : FmtM} (h : x.fits = true) : FmtM.dec x.enc = x := by
  simp only [FmtM.fits, Bool.and_eq_true, decide_eq_true_eq] at h
  simp only [FmtM.dec, FmtM.enc]
  obtain ⟨_, _, _, _, _, _, _⟩ := x
  simp only [FmtM.mk.injEq] at *
  omega

/-- Format P. -/
theorem FmtP.dec_enc {x : FmtP} (h : x.fits = true) : FmtP.dec x.enc = x := by
  simp only [FmtP.fits, Bool.and_eq_true, decide_eq_true_eq] at h
  simp only [FmtP.dec, FmtP.enc]
  obtain ⟨_, _, _, _, _, _, _, _⟩ := x
  simp only [FmtP.mk.injEq] at *
  omega

/-- Format V. -/
theorem FmtV.dec_enc {x : FmtV} (h : x.fits = true) : FmtV.dec x.enc = x := by
  simp only [FmtV.fits, Bool.and_eq_true, decide_eq_true_eq] at h
  simp only [FmtV.dec, FmtV.enc]
  obtain ⟨_, _, _, _, _, _, _, _⟩ := x
  simp only [FmtV.mk.injEq] at *
  omega

/-- Format T. -/
theorem FmtT.dec_enc {x : FmtT} (h : x.fits = true) : FmtT.dec x.enc = x := by
  simp only [FmtT.fits, Bool.and_eq_true, decide_eq_true_eq] at h
  simp only [FmtT.dec, FmtT.enc]
  obtain ⟨_, _, _, _, _, _, _, _⟩ := x
  simp only [FmtT.mk.injEq] at *
  omega

/-- Format X. -/
theorem FmtX.dec_enc {x : FmtX} (h : x.fits = true) : FmtX.dec x.enc = x := by
  simp only [FmtX.fits, Bool.and_eq_true, decide_eq_true_eq] at h
  simp only [FmtX.dec, FmtX.enc]
  obtain ⟨_, _, _, _, _, _, _, _, _, _, _⟩ := x
  simp only [FmtX.mk.injEq] at *
  omega

/-- Format S. -/
theorem FmtS.dec_enc {x : FmtS} (h : x.fits = true) : FmtS.dec x.enc = x := by
  simp only [FmtS.fits, Bool.and_eq_true, decide_eq_true_eq] at h
  simp only [FmtS.dec, FmtS.enc]
  obtain ⟨_, _, _, _⟩ := x
  simp only [FmtS.mk.injEq] at *
  omega

/-- Format Q. -/
theorem FmtQ.dec_enc {x : FmtQ} (h : x.fits = true) : FmtQ.dec x.enc = x := by
  simp only [FmtQ.fits, Bool.and_eq_true, decide_eq_true_eq] at h
  simp only [FmtQ.dec, FmtQ.enc]
  obtain ⟨_, _, _, _, _⟩ := x
  simp only [FmtQ.mk.injEq] at *
  omega

/-- Format Z. -/
theorem FmtZ.dec_enc {x : FmtZ} (h : x.fits = true) : FmtZ.dec x.enc = x := by
  simp only [FmtZ.fits, Bool.and_eq_true, decide_eq_true_eq] at h
  simp only [FmtZ.dec, FmtZ.enc]
  obtain ⟨_⟩ := x
  simp only [FmtZ.mk.injEq] at *
  omega

/-- The literal of TFILLM. -/
theorem TfLit.dec_enc {l : TfLit} (h : l.fits = true) : TfLit.dec l.enc = l := by
  simp only [TfLit.fits, Bool.and_eq_true, decide_eq_true_eq] at h
  have hx := FmtX.dec_enc h.2
  have hl : l.x.enc < 2 ^ 36 := by
    have h2 := h.2
    simp only [FmtX.fits, Bool.and_eq_true, decide_eq_true_eq] at h2
    simp only [FmtX.enc]; omega
  obtain ⟨sb, m, x⟩ := l
  simp only [TfLit.dec, TfLit.enc] at *
  have e : (sb * 2 ^ 48 + (if m = true then 193 else 192) * 2 ^ 40 + x.enc) % 2 ^ 36 = x.enc := by split <;> omega
  rw [e, hx]
  cases m <;> simp <;> omega

theorem FmtA.form54 {x : FmtA} (h : x.fits = true) : bits x.enc 5 4 = bits x.f 5 4 := by
  simp only [FmtA.fits, Bool.and_eq_true, decide_eq_true_eq] at h
  simp only [bits, FmtA.enc]; omega
theorem FmtA.form10 {x : FmtA} (h : x.fits = true) : x.enc % 4 = x.f % 4 := by
  simp only [FmtA.fits, Bool.and_eq_true, decide_eq_true_eq] at h
  simp only [FmtA.enc]; omega
theorem FmtT.form10 {x : FmtT} (h : x.fits = true) : x.enc % 4 = x.sub % 4 := by
  simp only [FmtT.fits, Bool.and_eq_true, decide_eq_true_eq] at h
  simp only [FmtT.enc]; omega
theorem FmtM.form1918 {x : FmtM} (h : x.fits = true) : bits x.enc 19 18 = x.scope := by
  simp only [FmtM.fits, Bool.and_eq_true, decide_eq_true_eq] at h
  simp only [bits, FmtM.enc]; omega

namespace Laws.BuildOfCode

/-- What is built of the encoding of `i` is `i`. -/
def Statement (i : Instr) : Prop :=
  ∀ op w lit : Nat, i.code = some (op, w, lit) → i.fits = true → i.formOk = true → build op w lit = some i

theorem of_code {i : Instr} {op w lit : Nat} (hc : i.code = some (op, w, lit)) (h : i.fits = true → i.formOk = true → build op w lit = some i) :
    Statement i := by
  intro op' w' lit' hc' hf ho
  rw [hc] at hc'
  cases hc'
  exact h hf ho

theorem of_none {i : Instr} (hc : i.code = none) : Statement i := by
  intro op w lit h
  rw [hc] at h
  cases h

theorem build57 (w lit : Nat) : build 0x57 w lit =
    (match bits w 19 18 with
    | 0 => some (.prefL1 (FmtM.dec w))
    | 1 => some (.prefL2 (FmtM.dec w))
    | _ => none) := by
  with_unfolding_all rfl

theorem build66 (w lit : Nat) : build 0x66 w lit =
    (match bits w 5 4 with
    | 0 => some (.mcpy (FmtA.dec w))
    | 1 => some (.mcpyFp (FmtA.dec w))
    | 2 => some (.mcpyHash (FmtA.dec w))
    | _ => none) := by
  with_unfolding_all rfl

theorem build68 (w lit : Nat) : build 0x68 w lit =
    (match bits w 19 18 with
    | 0 => some (.cinvLine (FmtM.dec w))
    | 1 => some (.cinvDie (FmtM.dec w))
    | 2 => some (.cinvPkg (FmtM.dec w))
    | _ => none) := by
  with_unfolding_all rfl

theorem buildB0 (w lit : Nat) : build 0xB0 w lit =
    (match w % 4 with
    | 0 => some (.thndLd (FmtT.dec w))
    | 1 => some (.thndSetc (FmtT.dec w))
    | 2 => some (.thndAddc (FmtT.dec w))
    | 3 => some (.thndGetc (FmtT.dec w))
    | _ => none) := by
  with_unfolding_all rfl

theorem buildE5 (w lit : Nat) : build 0xE5 w lit =
    (match w % 4 with
    | 0 => some (.time (FmtA.dec w))
    | 1 => some (.timeNbt (FmtA.dec w))
    | _ => none) := by
  with_unfolding_all rfl

theorem buildE6 (w lit : Nat) : build 0xE6 w lit =
    (match w % 4 with
    | 0 => some (.tlbiAsid (FmtA.dec w))
    | 1 => some (.tlbiPage (FmtA.dec w))
    | 2 => some (.tlbiAll (FmtA.dec w))
    | _ => none) := by
  with_unfolding_all rfl

theorem add (x : FmtA) : Statement (.add x) := of_code rfl fun hf _ => congrArg (some ∘ Instr.add) (FmtA.dec_enc hf)
theorem addi (x : FmtI) : Statement (.addi x) := of_code rfl fun hf _ => congrArg (some ∘ Instr.addi) (FmtI.dec_enc hf)
theorem sub (x : FmtA) : Statement (.sub x) := of_code rfl fun hf _ => congrArg (some ∘ Instr.sub) (FmtA.dec_enc hf)
theorem mul (x : FmtA) : Statement (.mul x) := of_code rfl fun hf _ => congrArg (some ∘ Instr.mul) (FmtA.dec_enc hf)
theorem mulh (x : FmtA) : Statement (.mulh x) := of_code rfl fun hf _ => congrArg (some ∘ Instr.mulh) (FmtA.dec_enc hf)
theorem mulhn (x : FmtA) : Statement (.mulhn x) := of_code rfl fun hf _ => congrArg (some ∘ Instr.mulhn) (FmtA.dec_enc hf)
theorem madd (x : FmtA) : Statement (.madd x) := of_code rfl fun hf _ => congrArg (some ∘ Instr.madd) (FmtA.dec_enc hf)
theorem div (x : FmtA) : Statement (.div x) := of_code rfl fun hf _ => congrArg (some ∘ Instr.div) (FmtA.dec_enc hf)
theorem divn (x : FmtA) : Statement (.divn x) := of_code rfl fun hf _ => congrArg (some ∘ Instr.divn) (FmtA.dec_enc hf)
theorem rem (x : FmtA) : Statement (.rem x) := of_code rfl fun hf _ => congrArg (some ∘ Instr.rem) (FmtA.dec_enc hf)
theorem remn (x : FmtA) : Statement (.remn x) := of_code rfl fun hf _ => congrArg (some ∘ Instr.remn) (FmtA.dec_enc hf)
theorem and (x : FmtA) : Statement (.and x) := of_code rfl fun hf _ => congrArg (some ∘ Instr.and) (FmtA.dec_enc hf)
theorem andi (x : FmtI) : Statement (.andi x) := of_code rfl fun hf _ => congrArg (some ∘ Instr.andi) (FmtI.dec_enc hf)
theorem or (x : FmtA) : Statement (.or x) := of_code rfl fun hf _ => congrArg (some ∘ Instr.or) (FmtA.dec_enc hf)
theorem ori (x : FmtI) : Statement (.ori x) := of_code rfl fun hf _ => congrArg (some ∘ Instr.ori) (FmtI.dec_enc hf)
theorem xor (x : FmtA) : Statement (.xor x) := of_code rfl fun hf _ => congrArg (some ∘ Instr.xor) (FmtA.dec_enc hf)
theorem andn (x : FmtA) : Statement (.andn x) := of_code rfl fun hf _ => congrArg (some ∘ Instr.andn) (FmtA.dec_enc hf)
theorem shl (x : FmtA) : Statement (.shl x) := of_code rfl fun hf _ => congrArg (some ∘ Instr.shl) (FmtA.dec_enc hf)
theorem shli (x : FmtI) : Statement (.shli x) := of_code rfl fun hf _ => congrArg (some ∘ Instr.shli) (FmtI.dec_enc hf)
theorem shr (x : FmtA) : Statement (.shr x) := of_code rfl fun hf _ => congrArg (some ∘ Instr.shr) (FmtA.dec_enc hf)
theorem shri (x : FmtI) : Statement (.shri x) := of_code rfl fun hf _ => congrArg (some ∘ Instr.shri) (FmtI.dec_enc hf)
theorem sha (x : FmtA) : Statement (.sha x) := of_code rfl fun hf _ => congrArg (some ∘ Instr.sha) (FmtA.dec_enc hf)
theorem shai (x : FmtI) : Statement (.shai x) := of_code rfl fun hf _ => congrArg (some ∘ Instr.shai) (FmtI.dec_enc hf)
theorem rol (x : FmtA) : Statement (.rol x) := of_code rfl fun hf _ => congrArg (some ∘ Instr.rol) (FmtA.dec_enc hf)
theorem clz (x : FmtA) : Statement (.clz x) := of_code rfl fun hf _ => congrArg (some ∘ Instr.clz) (FmtA.dec_enc hf)
theorem ctz (x : FmtA) : Statement (.ctz x) := of_code rfl fun hf _ => congrArg (some ∘ Instr.ctz) (FmtA.dec_enc hf)
theorem pcnt (x : FmtA) : Statement (.pcnt x) := of_code rfl fun hf _ => congrArg (some ∘ Instr.pcnt) (FmtA.dec_enc hf)
theorem min (x : FmtA) : Statement (.min x) := of_code rfl fun hf _ => congrArg (some ∘ Instr.min) (FmtA.dec_enc hf)
theorem max (x : FmtA) : Statement (.max x) := of_code rfl fun hf _ => congrArg (some ∘ Instr.max) (FmtA.dec_enc hf)
theorem minn (x : FmtA) : Statement (.minn x) := of_code rfl fun hf _ => congrArg (some ∘ Instr.minn) (FmtA.dec_enc hf)
theorem maxn (x : FmtA) : Statement (.maxn x) := of_code rfl fun hf _ => congrArg (some ∘ Instr.maxn) (FmtA.dec_enc hf)
theorem slt (x : FmtA) : Statement (.slt x) := of_code rfl fun hf _ => congrArg (some ∘ Instr.slt) (FmtA.dec_enc hf)
theorem sltn (x : FmtA) : Statement (.sltn x) := of_code rfl fun hf _ => congrArg (some ∘ Instr.sltn) (FmtA.dec_enc hf)
theorem seq (x : FmtA) : Statement (.seq x) := of_code rfl fun hf _ => congrArg (some ∘ Instr.seq) (FmtA.dec_enc hf)
theorem sel (x : FmtA) : Statement (.sel x) := of_code rfl fun hf _ => congrArg (some ∘ Instr.sel) (FmtA.dec_enc hf)
theorem li (x : FmtI) : Statement (.li x) := of_code rfl fun hf _ => congrArg (some ∘ Instr.li) (FmtI.dec_enc hf)
theorem liw (x : FmtI) (lit : Word) : Statement (.liw x lit) := by
  refine of_code rfl fun hf _ => ?_
  exact congrArg some (congrArg₂ Instr.liw (FmtI.dec_enc hf) ((BitVec.ofNat_toNat _ _).trans (BitVec.setWidth_eq _)))
theorem bext (x : FmtA) : Statement (.bext x) := of_code rfl fun hf _ => congrArg (some ∘ Instr.bext) (FmtA.dec_enc hf)
theorem bins (x : FmtA) : Statement (.bins x) := of_code rfl fun hf _ => congrArg (some ∘ Instr.bins) (FmtA.dec_enc hf)
theorem fadd (x : FmtA) : Statement (.fadd x) := of_code rfl fun hf _ => congrArg (some ∘ Instr.fadd) (FmtA.dec_enc hf)
theorem fsub (x : FmtA) : Statement (.fsub x) := of_code rfl fun hf _ => congrArg (some ∘ Instr.fsub) (FmtA.dec_enc hf)
theorem fmul (x : FmtA) : Statement (.fmul x) := of_code rfl fun hf _ => congrArg (some ∘ Instr.fmul) (FmtA.dec_enc hf)
theorem fdiv (x : FmtA) : Statement (.fdiv x) := of_code rfl fun hf _ => congrArg (some ∘ Instr.fdiv) (FmtA.dec_enc hf)
theorem fsqrt (x : FmtA) : Statement (.fsqrt x) := of_code rfl fun hf _ => congrArg (some ∘ Instr.fsqrt) (FmtA.dec_enc hf)
theorem ffma (x : FmtA) : Statement (.ffma x) := of_code rfl fun hf _ => congrArg (some ∘ Instr.ffma) (FmtA.dec_enc hf)
theorem fmin (x : FmtA) : Statement (.fmin x) := of_code rfl fun hf _ => congrArg (some ∘ Instr.fmin) (FmtA.dec_enc hf)
theorem fmax (x : FmtA) : Statement (.fmax x) := of_code rfl fun hf _ => congrArg (some ∘ Instr.fmax) (FmtA.dec_enc hf)
theorem fcmp (x : FmtA) : Statement (.fcmp x) := of_code rfl fun hf _ => congrArg (some ∘ Instr.fcmp) (FmtA.dec_enc hf)
theorem fcvt (x : FmtA) : Statement (.fcvt x) := of_code rfl fun hf _ => congrArg (some ∘ Instr.fcvt) (FmtA.dec_enc hf)
theorem fclass (x : FmtA) : Statement (.fclass x) := of_code rfl fun hf _ => congrArg (some ∘ Instr.fclass) (FmtA.dec_enc hf)
theorem beq (x : FmtB) : Statement (.beq x) := of_code rfl fun hf _ => congrArg (some ∘ Instr.beq) (FmtB.dec_enc hf)
theorem bne (x : FmtB) : Statement (.bne x) := of_code rfl fun hf _ => congrArg (some ∘ Instr.bne) (FmtB.dec_enc hf)
theorem blt (x : FmtB) : Statement (.blt x) := of_code rfl fun hf _ => congrArg (some ∘ Instr.blt) (FmtB.dec_enc hf)
theorem bge (x : FmtB) : Statement (.bge x) := of_code rfl fun hf _ => congrArg (some ∘ Instr.bge) (FmtB.dec_enc hf)
theorem bltn (x : FmtB) : Statement (.bltn x) := of_code rfl fun hf _ => congrArg (some ∘ Instr.bltn) (FmtB.dec_enc hf)
theorem bgen (x : FmtB) : Statement (.bgen x) := of_code rfl fun hf _ => congrArg (some ∘ Instr.bgen) (FmtB.dec_enc hf)
theorem jmp (x : FmtB) : Statement (.jmp x) := of_code rfl fun hf _ => congrArg (some ∘ Instr.jmp) (FmtB.dec_enc hf)
theorem jal (x : FmtB) : Statement (.jal x) := of_code rfl fun hf _ => congrArg (some ∘ Instr.jal) (FmtB.dec_enc hf)
theorem jr (x : FmtA) : Statement (.jr x) := of_code rfl fun hf _ => congrArg (some ∘ Instr.jr) (FmtA.dec_enc hf)
theorem loopi (x : FmtI) : Statement (.loopi x) := of_code rfl fun hf _ => congrArg (some ∘ Instr.loopi) (FmtI.dec_enc hf)
theorem loop (x : FmtB) : Statement (.loop x) := of_code rfl fun hf _ => congrArg (some ∘ Instr.loop) (FmtB.dec_enc hf)
theorem rep (x : FmtI) : Statement (.rep x) := of_code rfl fun hf _ => congrArg (some ∘ Instr.rep) (FmtI.dec_enc hf)
theorem repRepetition (a : Agent) : Statement (.repRepetition a) := of_none rfl
theorem yield (x : FmtZ) : Statement (.yield x) := of_code rfl fun hf _ => congrArg (some ∘ Instr.yield) (FmtZ.dec_enc hf)
theorem endStrand (x : FmtZ) : Statement (.endStrand x) := of_code rfl fun hf _ => congrArg (some ∘ Instr.endStrand) (FmtZ.dec_enc hf)
theorem nop (x : FmtZ) : Statement (.nop x) := of_code rfl fun hf _ => congrArg (some ∘ Instr.nop) (FmtZ.dec_enc hf)
theorem ld (x : FmtM) : Statement (.ld x) := of_code rfl fun hf _ => congrArg (some ∘ Instr.ld) (FmtM.dec_enc hf)
theorem st (x : FmtM) : Statement (.st x) := of_code rfl fun hf _ => congrArg (some ∘ Instr.st) (FmtM.dec_enc hf)
theorem prefL1 (x : FmtM) : Statement (.prefL1 x) :=
  of_code rfl fun hf ho => by
    rw [build57, (FmtM.form1918 hf).trans (eq_of_beq ho)]
    exact congrArg (some ∘ Instr.prefL1) (FmtM.dec_enc hf)
theorem prefL2 (x : FmtM) : Statement (.prefL2 x) :=
  of_code rfl fun hf ho => by
    rw [build57, (FmtM.form1918 hf).trans (eq_of_beq ho)]
    exact congrArg (some ∘ Instr.prefL2) (FmtM.dec_enc hf)
theorem cinvLine (x : FmtM) : Statement (.cinvLine x) :=
  of_code rfl fun hf ho => by
    rw [build68, (FmtM.form1918 hf).trans (eq_of_beq ho)]
    exact congrArg (some ∘ Instr.cinvLine) (FmtM.dec_enc hf)
theorem cinvDie (x : FmtM) : Statement (.cinvDie x) :=
  of_code rfl fun hf ho => by
    rw [build68, (FmtM.form1918 hf).trans (eq_of_beq ho)]
    exact congrArg (some ∘ Instr.cinvDie) (FmtM.dec_enc hf)
theorem cinvPkg (x : FmtM) : Statement (.cinvPkg x) :=
  of_code rfl fun hf ho => by
    rw [build68, (FmtM.form1918 hf).trans (eq_of_beq ho)]
    exact congrArg (some ∘ Instr.cinvPkg) (FmtM.dec_enc hf)
theorem amo (x : FmtP) : Statement (.amo x) := of_code rfl fun hf _ => congrArg (some ∘ Instr.amo) (FmtP.dec_enc hf)
theorem cas (x : FmtP) : Statement (.cas x) := of_code rfl fun hf _ => congrArg (some ∘ Instr.cas) (FmtP.dec_enc hf)
theorem fence (x : FmtI) : Statement (.fence x) := of_code rfl fun hf _ => congrArg (some ∘ Instr.fence) (FmtI.dec_enc hf)
theorem vld (x : FmtM) : Statement (.vld x) := of_code rfl fun hf _ => congrArg (some ∘ Instr.vld) (FmtM.dec_enc hf)
theorem vst (x : FmtM) : Statement (.vst x) := of_code rfl fun hf _ => congrArg (some ∘ Instr.vst) (FmtM.dec_enc hf)
theorem vgth (x : FmtA) : Statement (.vgth x) := of_code rfl fun hf _ => congrArg (some ∘ Instr.vgth) (FmtA.dec_enc hf)
theorem vsct (x : FmtA) : Statement (.vsct x) := of_code rfl fun hf _ => congrArg (some ∘ Instr.vsct) (FmtA.dec_enc hf)
theorem stat (x : FmtP) : Statement (.stat x) := of_code rfl fun hf _ => congrArg (some ∘ Instr.stat) (FmtP.dec_enc hf)
theorem ldnb (x : FmtP) : Statement (.ldnb x) := of_code rfl fun hf _ => congrArg (some ∘ Instr.ldnb) (FmtP.dec_enc hf)
theorem pld (x : FmtP) : Statement (.pld x) := of_code rfl fun hf _ => congrArg (some ∘ Instr.pld) (FmtP.dec_enc hf)
theorem pst (x : FmtP) : Statement (.pst x) := of_code rfl fun hf _ => congrArg (some ∘ Instr.pst) (FmtP.dec_enc hf)
theorem pamo (x : FmtP) : Statement (.pamo x) := of_code rfl fun hf _ => congrArg (some ∘ Instr.pamo) (FmtP.dec_enc hf)
theorem pcas (x : FmtP) : Statement (.pcas x) := of_code rfl fun hf _ => congrArg (some ∘ Instr.pcas) (FmtP.dec_enc hf)
theorem pstat (x : FmtP) : Statement (.pstat x) := of_code rfl fun hf _ => congrArg (some ∘ Instr.pstat) (FmtP.dec_enc hf)
theorem pldnb (x : FmtP) : Statement (.pldnb x) := of_code rfl fun hf _ => congrArg (some ∘ Instr.pldnb) (FmtP.dec_enc hf)
theorem mcst (x : FmtP) : Statement (.mcst x) := of_code rfl fun hf _ => congrArg (some ∘ Instr.mcst) (FmtP.dec_enc hf)
theorem bst (x : FmtP) : Statement (.bst x) := of_code rfl fun hf _ => congrArg (some ∘ Instr.bst) (FmtP.dec_enc hf)
theorem bamo (x : FmtP) : Statement (.bamo x) := of_code rfl fun hf _ => congrArg (some ∘ Instr.bamo) (FmtP.dec_enc hf)
theorem bld (x : FmtP) : Statement (.bld x) := of_code rfl fun hf _ => congrArg (some ∘ Instr.bld) (FmtP.dec_enc hf)
theorem mcpy (x : FmtA) : Statement (.mcpy x) :=
  of_code rfl fun hf ho => by
    rw [build66, (FmtA.form54 hf).trans (eq_of_beq ho)]
    exact congrArg (some ∘ Instr.mcpy) (FmtA.dec_enc hf)
theorem mcpyFp (x : FmtA) : Statement (.mcpyFp x) :=
  of_code rfl fun hf ho => by
    rw [build66, (FmtA.form54 hf).trans (eq_of_beq ho)]
    exact congrArg (some ∘ Instr.mcpyFp) (FmtA.dec_enc hf)
theorem mcpyHash (x : FmtA) : Statement (.mcpyHash x) :=
  of_code rfl fun hf ho => by
    rw [build66, (FmtA.form54 hf).trans (eq_of_beq ho)]
    exact congrArg (some ∘ Instr.mcpyHash) (FmtA.dec_enc hf)
theorem mcmp (x : FmtA) : Statement (.mcmp x) := of_code rfl fun hf _ => congrArg (some ∘ Instr.mcmp) (FmtA.dec_enc hf)
theorem vadd (x : FmtV) : Statement (.vadd x) := of_code rfl fun hf _ => congrArg (some ∘ Instr.vadd) (FmtV.dec_enc hf)
theorem vsub (x : FmtV) : Statement (.vsub x) := of_code rfl fun hf _ => congrArg (some ∘ Instr.vsub) (FmtV.dec_enc hf)
theorem vmul (x : FmtV) : Statement (.vmul x) := of_code rfl fun hf _ => congrArg (some ∘ Instr.vmul) (FmtV.dec_enc hf)
theorem vfma (x : FmtV) : Statement (.vfma x) := of_code rfl fun hf _ => congrArg (some ∘ Instr.vfma) (FmtV.dec_enc hf)
theorem vfms (x : FmtV) : Statement (.vfms x) := of_code rfl fun hf _ => congrArg (some ∘ Instr.vfms) (FmtV.dec_enc hf)
theorem vmin (x : FmtV) : Statement (.vmin x) := of_code rfl fun hf _ => congrArg (some ∘ Instr.vmin) (FmtV.dec_enc hf)
theorem vmax (x : FmtV) : Statement (.vmax x) := of_code rfl fun hf _ => congrArg (some ∘ Instr.vmax) (FmtV.dec_enc hf)
theorem vabs (x : FmtV) : Statement (.vabs x) := of_code rfl fun hf _ => congrArg (some ∘ Instr.vabs) (FmtV.dec_enc hf)
theorem vneg (x : FmtV) : Statement (.vneg x) := of_code rfl fun hf _ => congrArg (some ∘ Instr.vneg) (FmtV.dec_enc hf)
theorem vand (x : FmtV) : Statement (.vand x) := of_code rfl fun hf _ => congrArg (some ∘ Instr.vand) (FmtV.dec_enc hf)
theorem vor (x : FmtV) : Statement (.vor x) := of_code rfl fun hf _ => congrArg (some ∘ Instr.vor) (FmtV.dec_enc hf)
theorem vxor (x : FmtV) : Statement (.vxor x) := of_code rfl fun hf _ => congrArg (some ∘ Instr.vxor) (FmtV.dec_enc hf)
theorem vnot (x : FmtV) : Statement (.vnot x) := of_code rfl fun hf _ => congrArg (some ∘ Instr.vnot) (FmtV.dec_enc hf)
theorem vshl (x : FmtV) : Statement (.vshl x) := of_code rfl fun hf _ => congrArg (some ∘ Instr.vshl) (FmtV.dec_enc hf)
theorem vshr (x : FmtV) : Statement (.vshr x) := of_code rfl fun hf _ => congrArg (some ∘ Instr.vshr) (FmtV.dec_enc hf)
theorem vsha (x : FmtV) : Statement (.vsha x) := of_code rfl fun hf _ => congrArg (some ∘ Instr.vsha) (FmtV.dec_enc hf)
theorem vcmp (x : FmtV) : Statement (.vcmp x) := of_code rfl fun hf _ => congrArg (some ∘ Instr.vcmp) (FmtV.dec_enc hf)
theorem vsel (x : FmtV) : Statement (.vsel x) := of_code rfl fun hf _ => congrArg (some ∘ Instr.vsel) (FmtV.dec_enc hf)
theorem vmov (x : FmtV) : Statement (.vmov x) := of_code rfl fun hf _ => congrArg (some ∘ Instr.vmov) (FmtV.dec_enc hf)
theorem vbcst (x : FmtV) : Statement (.vbcst x) := of_code rfl fun hf _ => congrArg (some ∘ Instr.vbcst) (FmtV.dec_enc hf)
theorem viota (x : FmtV) : Statement (.viota x) := of_code rfl fun hf _ => congrArg (some ∘ Instr.viota) (FmtV.dec_enc hf)
theorem vext (x : FmtV) : Statement (.vext x) := of_code rfl fun hf _ => congrArg (some ∘ Instr.vext) (FmtV.dec_enc hf)
theorem vins (x : FmtV) : Statement (.vins x) := of_code rfl fun hf _ => congrArg (some ∘ Instr.vins) (FmtV.dec_enc hf)
theorem vcvt (x : FmtV) : Statement (.vcvt x) := of_code rfl fun hf _ => congrArg (some ∘ Instr.vcvt) (FmtV.dec_enc hf)
theorem vcvts (x : FmtV) : Statement (.vcvts x) := of_code rfl fun hf _ => congrArg (some ∘ Instr.vcvts) (FmtV.dec_enc hf)
theorem vpack (x : FmtV) : Statement (.vpack x) := of_code rfl fun hf _ => congrArg (some ∘ Instr.vpack) (FmtV.dec_enc hf)
theorem vunpk (x : FmtV) : Statement (.vunpk x) := of_code rfl fun hf _ => congrArg (some ∘ Instr.vunpk) (FmtV.dec_enc hf)
theorem vrcp (x : FmtV) : Statement (.vrcp x) := of_code rfl fun hf _ => congrArg (some ∘ Instr.vrcp) (FmtV.dec_enc hf)
theorem vrsq (x : FmtV) : Statement (.vrsq x) := of_code rfl fun hf _ => congrArg (some ∘ Instr.vrsq) (FmtV.dec_enc hf)
theorem vexp2 (x : FmtV) : Statement (.vexp2 x) := of_code rfl fun hf _ => congrArg (some ∘ Instr.vexp2) (FmtV.dec_enc hf)
theorem vlog2 (x : FmtV) : Statement (.vlog2 x) := of_code rfl fun hf _ => congrArg (some ∘ Instr.vlog2) (FmtV.dec_enc hf)
theorem vsin (x : FmtV) : Statement (.vsin x) := of_code rfl fun hf _ => congrArg (some ∘ Instr.vsin) (FmtV.dec_enc hf)
theorem vtanh (x : FmtV) : Statement (.vtanh x) := of_code rfl fun hf _ => congrArg (some ∘ Instr.vtanh) (FmtV.dec_enc hf)
theorem vreds (x : FmtV) : Statement (.vreds x) := of_code rfl fun hf _ => congrArg (some ∘ Instr.vreds) (FmtV.dec_enc hf)
theorem vredm (x : FmtV) : Statement (.vredm x) := of_code rfl fun hf _ => congrArg (some ∘ Instr.vredm) (FmtV.dec_enc hf)
theorem vscan (x : FmtV) : Statement (.vscan x) := of_code rfl fun hf _ => congrArg (some ∘ Instr.vscan) (FmtV.dec_enc hf)
theorem vperm (x : FmtV) : Statement (.vperm x) := of_code rfl fun hf _ => congrArg (some ∘ Instr.vperm) (FmtV.dec_enc hf)
theorem vlsh (x : FmtV) : Statement (.vlsh x) := of_code rfl fun hf _ => congrArg (some ∘ Instr.vlsh) (FmtV.dec_enc hf)
theorem vlrot (x : FmtV) : Statement (.vlrot x) := of_code rfl fun hf _ => congrArg (some ∘ Instr.vlrot) (FmtV.dec_enc hf)
theorem vfam (x : FmtV) : Statement (.vfam x) := of_code rfl fun hf _ => congrArg (some ∘ Instr.vfam) (FmtV.dec_enc hf)
theorem vfax (x : FmtV) : Statement (.vfax x) := of_code rfl fun hf _ => congrArg (some ∘ Instr.vfax) (FmtV.dec_enc hf)
theorem vdot4 (x : FmtV) : Statement (.vdot4 x) := of_code rfl fun hf _ => congrArg (some ∘ Instr.vdot4) (FmtV.dec_enc hf)
theorem vtopk (x : FmtV) : Statement (.vtopk x) := of_code rfl fun hf _ => congrArg (some ∘ Instr.vtopk) (FmtV.dec_enc hf)
theorem vdefq (x : FmtV) : Statement (.vdefq x) := of_code rfl fun hf _ => congrArg (some ∘ Instr.vdefq) (FmtV.dec_enc hf)
theorem vdefd (x : FmtV) : Statement (.vdefd x) := of_code rfl fun hf _ => congrArg (some ∘ Instr.vdefd) (FmtV.dec_enc hf)
theorem vdefn (x : FmtV) : Statement (.vdefn x) := of_code rfl fun hf _ => congrArg (some ∘ Instr.vdefn) (FmtV.dec_enc hf)
theorem thndLd (x : FmtT) : Statement (.thndLd x) :=
  of_code rfl fun hf ho => by
    rw [buildB0, (FmtT.form10 hf).trans (eq_of_beq ho)]
    exact congrArg (some ∘ Instr.thndLd) (FmtT.dec_enc hf)
theorem thndSetc (x : FmtT) : Statement (.thndSetc x) :=
  of_code rfl fun hf ho => by
    rw [buildB0, (FmtT.form10 hf).trans (eq_of_beq ho)]
    exact congrArg (some ∘ Instr.thndSetc) (FmtT.dec_enc hf)
theorem thndAddc (x : FmtT) : Statement (.thndAddc x) :=
  of_code rfl fun hf ho => by
    rw [buildB0, (FmtT.form10 hf).trans (eq_of_beq ho)]
    exact congrArg (some ∘ Instr.thndAddc) (FmtT.dec_enc hf)
theorem thndGetc (x : FmtT) : Statement (.thndGetc x) :=
  of_code rfl fun hf ho => by
    rw [buildB0, (FmtT.form10 hf).trans (eq_of_beq ho)]
    exact congrArg (some ∘ Instr.thndGetc) (FmtT.dec_enc hf)
theorem tfill (x : FmtT) : Statement (.tfill x) := of_code rfl fun hf _ => congrArg (some ∘ Instr.tfill) (FmtT.dec_enc hf)
theorem tfillm (x : FmtT) (lit : TfLit) : Statement (.tfillm x lit) := by
  refine of_code rfl fun hf _ => ?_
  simp only [Instr.fits, Bool.and_eq_true] at hf
  exact congrArg some (congrArg₂ Instr.tfillm (FmtT.dec_enc hf.1) (TfLit.dec_enc hf.2))
theorem talloc (x : FmtT) : Statement (.talloc x) := of_code rfl fun hf _ => congrArg (some ∘ Instr.talloc) (FmtT.dec_enc hf)
theorem tdrain (x : FmtT) : Statement (.tdrain x) := of_code rfl fun hf _ => congrArg (some ∘ Instr.tdrain) (FmtT.dec_enc hf)
theorem tpost (x : FmtT) : Statement (.tpost x) := of_code rfl fun hf _ => congrArg (some ∘ Instr.tpost) (FmtT.dec_enc hf)
theorem thint (x : FmtT) : Statement (.thint x) := of_code rfl fun hf _ => congrArg (some ∘ Instr.thint) (FmtT.dec_enc hf)
theorem tpref (x : FmtT) : Statement (.tpref x) := of_code rfl fun hf _ => congrArg (some ∘ Instr.tpref) (FmtT.dec_enc hf)
theorem titin (x : FmtT) : Statement (.titin x) := of_code rfl fun hf _ => congrArg (some ∘ Instr.titin) (FmtT.dec_enc hf)
theorem tinv (x : FmtT) : Statement (.tinv x) := of_code rfl fun hf _ => congrArg (some ∘ Instr.tinv) (FmtT.dec_enc hf)
theorem tld (x : FmtT) : Statement (.tld x) := of_code rfl fun hf _ => congrArg (some ∘ Instr.tld) (FmtT.dec_enc hf)
theorem tst (x : FmtT) : Statement (.tst x) := of_code rfl fun hf _ => congrArg (some ∘ Instr.tst) (FmtT.dec_enc hf)
theorem tgth (x : FmtT) : Statement (.tgth x) := of_code rfl fun hf _ => congrArg (some ∘ Instr.tgth) (FmtT.dec_enc hf)
theorem tsct (x : FmtT) : Statement (.tsct x) := of_code rfl fun hf _ => congrArg (some ∘ Instr.tsct) (FmtT.dec_enc hf)
theorem tver (x : FmtT) : Statement (.tver x) := of_code rfl fun hf _ => congrArg (some ∘ Instr.tver) (FmtT.dec_enc hf)
theorem tqrel (x : FmtT) : Statement (.tqrel x) := of_code rfl fun hf _ => congrArg (some ∘ Instr.tqrel) (FmtT.dec_enc hf)
theorem mma (x : FmtX) : Statement (.mma x) := of_code rfl fun hf _ => congrArg (some ∘ Instr.mma) (FmtX.dec_enc hf)
theorem mmas (x : FmtX) : Statement (.mmas x) := of_code rfl fun hf _ => congrArg (some ∘ Instr.mmas) (FmtX.dec_enc hf)
theorem aclr (x : FmtX) : Statement (.aclr x) := of_code rfl fun hf _ => congrArg (some ∘ Instr.aclr) (FmtX.dec_enc hf)
theorem acommit (x : FmtX) : Statement (.acommit x) := of_code rfl fun hf _ => congrArg (some ∘ Instr.acommit) (FmtX.dec_enc hf)
theorem adiscard (x : FmtX) : Statement (.adiscard x) := of_code rfl fun hf _ => congrArg (some ∘ Instr.adiscard) (FmtX.dec_enc hf)
theorem amov (x : FmtX) : Statement (.amov x) := of_code rfl fun hf _ => congrArg (some ∘ Instr.amov) (FmtX.dec_enc hf)
theorem adrn (x : FmtX) : Statement (.adrn x) := of_code rfl fun hf _ => congrArg (some ∘ Instr.adrn) (FmtX.dec_enc hf)
theorem kset (x : FmtQ) : Statement (.kset x) := of_code rfl fun hf _ => congrArg (some ∘ Instr.kset) (FmtQ.dec_enc hf)
theorem kget (x : FmtQ) : Statement (.kget x) := of_code rfl fun hf _ => congrArg (some ∘ Instr.kget) (FmtQ.dec_enc hf)
theorem launch (x : FmtQ) : Statement (.launch x) := of_code rfl fun hf _ => congrArg (some ∘ Instr.launch) (FmtQ.dec_enc hf)
theorem qpush (x : FmtQ) : Statement (.qpush x) := of_code rfl fun hf _ => congrArg (some ∘ Instr.qpush) (FmtQ.dec_enc hf)
theorem semw (x : FmtQ) : Statement (.semw x) := of_code rfl fun hf _ => congrArg (some ∘ Instr.semw) (FmtQ.dec_enc hf)
theorem semadd (x : FmtQ) : Statement (.semadd x) := of_code rfl fun hf _ => congrArg (some ∘ Instr.semadd) (FmtQ.dec_enc hf)
theorem bara (x : FmtQ) : Statement (.bara x) := of_code rfl fun hf _ => congrArg (some ∘ Instr.bara) (FmtQ.dec_enc hf)
theorem barw (x : FmtQ) : Statement (.barw x) := of_code rfl fun hf _ => congrArg (some ∘ Instr.barw) (FmtQ.dec_enc hf)
theorem barm (x : FmtQ) : Statement (.barm x) := of_code rfl fun hf _ => congrArg (some ∘ Instr.barm) (FmtQ.dec_enc hf)
theorem coll (x : FmtQ) : Statement (.coll x) := of_code rfl fun hf _ => congrArg (some ∘ Instr.coll) (FmtQ.dec_enc hf)
theorem collw (x : FmtQ) : Statement (.collw x) := of_code rfl fun hf _ => congrArg (some ∘ Instr.collw) (FmtQ.dec_enc hf)
theorem sysr (x : FmtS) : Statement (.sysr x) := of_code rfl fun hf _ => congrArg (some ∘ Instr.sysr) (FmtS.dec_enc hf)
theorem sysw (x : FmtS) : Statement (.sysw x) := of_code rfl fun hf _ => congrArg (some ∘ Instr.sysw) (FmtS.dec_enc hf)
theorem trap (x : FmtI) : Statement (.trap x) := of_code rfl fun hf _ => congrArg (some ∘ Instr.trap) (FmtI.dec_enc hf)
theorem eret (x : FmtZ) : Statement (.eret x) := of_code rfl fun hf _ => congrArg (some ∘ Instr.eret) (FmtZ.dec_enc hf)
theorem eretKill (x : FmtZ) : Statement (.eretKill x) := of_none rfl
theorem eretSkip (x : FmtZ) : Statement (.eretSkip x) := of_none rfl
theorem ppt (x : FmtI) : Statement (.ppt x) := of_code rfl fun hf _ => congrArg (some ∘ Instr.ppt) (FmtI.dec_enc hf)
theorem time (x : FmtA) : Statement (.time x) :=
  of_code rfl fun hf ho => by
    rw [buildE5, (FmtA.form10 hf).trans (eq_of_beq ho)]
    exact congrArg (some ∘ Instr.time) (FmtA.dec_enc hf)
theorem timeNbt (x : FmtA) : Statement (.timeNbt x) :=
  of_code rfl fun hf ho => by
    rw [buildE5, (FmtA.form10 hf).trans (eq_of_beq ho)]
    exact congrArg (some ∘ Instr.timeNbt) (FmtA.dec_enc hf)
theorem tlbiAsid (x : FmtA) : Statement (.tlbiAsid x) :=
  of_code rfl fun hf ho => by
    rw [buildE6, (FmtA.form10 hf).trans (eq_of_beq ho)]
    exact congrArg (some ∘ Instr.tlbiAsid) (FmtA.dec_enc hf)
theorem tlbiPage (x : FmtA) : Statement (.tlbiPage x) :=
  of_code rfl fun hf ho => by
    rw [buildE6, (FmtA.form10 hf).trans (eq_of_beq ho)]
    exact congrArg (some ∘ Instr.tlbiPage) (FmtA.dec_enc hf)
theorem tlbiAll (x : FmtA) : Statement (.tlbiAll x) :=
  of_code rfl fun hf ho => by
    rw [buildE6, (FmtA.form10 hf).trans (eq_of_beq ho)]
    exact congrArg (some ∘ Instr.tlbiAll) (FmtA.dec_enc hf)
theorem iflush (x : FmtZ) : Statement (.iflush x) := of_code rfl fun hf _ => congrArg (some ∘ Instr.iflush) (FmtZ.dec_enc hf)
theorem brk (x : FmtI) : Statement (.brk x) := of_code rfl fun hf _ => congrArg (some ∘ Instr.brk) (FmtI.dec_enc hf)
theorem waite (x : FmtI) : Statement (.waite x) := of_code rfl fun hf _ => congrArg (some ∘ Instr.waite) (FmtI.dec_enc hf)
theorem resultWriteback (cell : Nat) : Statement (.resultWriteback cell) := of_none rfl
theorem accessPerform (id : Nat) (src : Src) : Statement (.accessPerform id src) := of_none rfl
theorem remoteReply (id : Nat) (a : MemberRes) : Statement (.remoteReply id a) := of_none rfl
theorem peerAccessArrive (m : PeerReq) : Statement (.peerAccessArrive m) := of_none rfl
theorem timeTaggedStoreAccept (id : Nat) : Statement (.timeTaggedStoreAccept id) := of_none rfl
theorem heldStorePerform (id : Nat) : Statement (.heldStorePerform id) := of_none rfl
theorem lateStoreReport (id : Nat) : Statement (.lateStoreReport id) := of_none rfl
theorem ldnbRelease (id : Nat) : Statement (.ldnbRelease id) := of_none rfl
theorem mcstComplete (id : Nat) : Statement (.mcstComplete id) := of_none rfl
theorem asyncFaultRaise (a : Agent) : Statement (.asyncFaultRaise a) := of_none rfl
theorem faultReportAfterIssue (k : Nat) : Statement (.faultReportAfterIssue k) := of_none rfl
theorem faultRecordWrite (ctx : Nat) : Statement (.faultRecordWrite ctx) := of_none rfl
theorem slateLanding (cell : Nat) : Statement (.slateLanding cell) := of_none rfl
theorem endingComplete (cell : Nat) (slot : Nat) : Statement (.endingComplete cell slot) := of_none rfl
theorem copyPiece (site : Nat) (id : Nat) : Statement (.copyPiece site id) := of_none rfl
theorem lensAllocate (cell : Nat) (id : Nat) : Statement (.lensAllocate cell id) := of_none rfl
theorem frameScan (cell : Nat) : Statement (.frameScan cell) := of_none rfl
theorem pinExhaustion (cell : Nat) (id : Nat) : Statement (.pinExhaustion cell id) := of_none rfl
theorem spill (cell : Nat) (id : Nat) : Statement (.spill cell id) := of_none rfl
theorem spillReadback (cell : Nat) (id : Nat) : Statement (.spillReadback cell id) := of_none rfl
theorem fillResolve (cell : Nat) (id : Nat) (remote : Option RemoteTile) : Statement (.fillResolve cell id remote) := of_none rfl
theorem lensTransferServe (cell : Nat) (id : Nat) : Statement (.lensTransferServe cell id) := of_none rfl
theorem fillGranuleLand (cell : Nat) (id : Nat) (gs : List Nat) : Statement (.fillGranuleLand cell id gs) := of_none rfl
theorem drainGrant (cell : Nat) (id : Nat) : Statement (.drainGrant cell id) := of_none rfl
theorem drainPublish (cell : Nat) (id : Nat) : Statement (.drainPublish cell id) := of_none rfl
theorem versionNotice (n : VerNotice) : Statement (.versionNotice n) := of_none rfl
theorem tqrelRecord (id : Nat) : Statement (.tqrelRecord id) := of_none rfl
theorem replayHandoff (cell : Nat) : Statement (.replayHandoff cell) := of_none rfl
theorem mmaAccept (cell : Nat) : Statement (.mmaAccept cell) := of_none rfl
theorem arrayRowWrite (cell : Nat) : Statement (.arrayRowWrite cell) := of_none rfl
theorem accumRowWrite (cell : Nat) : Statement (.accumRowWrite cell) := of_none rfl
theorem launchAccept (id : Nat) : Statement (.launchAccept id) := of_none rfl
theorem blockRequest (r : Nat) (die : Nat) : Statement (.blockRequest r die) := of_none rfl
theorem dieWalkerPlace (die : Nat) : Statement (.dieWalkerPlace die) := of_none rfl
theorem taskHandoff (cell : Nat) : Statement (.taskHandoff cell) := of_none rfl
theorem preloadComplete (cell : Nat) (slot : Nat) : Statement (.preloadComplete cell slot) := of_none rfl
theorem stealRequest (cell : Nat) (r : Nat) : Statement (.stealRequest cell r) := of_none rfl
theorem stealAnswer (cell : Nat) : Statement (.stealAnswer cell) := of_none rfl
theorem stealReply (cell : Nat) : Statement (.stealReply cell) := of_none rfl
theorem lockstepRound (r : Nat) : Statement (.lockstepRound r) := of_none rfl
theorem deferralSweepHandoff (cell : Nat) (r : Nat) (path : Nat) : Statement (.deferralSweepHandoff cell r path) := of_none rfl
theorem recordComplete (r : Nat) : Statement (.recordComplete r) := of_none rfl
theorem barrierGenerationComplete (ctx : Nat) (n : Nat) : Statement (.barrierGenerationComplete ctx n) := of_none rfl
theorem semaphoreWake (id : Nat) : Statement (.semaphoreWake id) := of_none rfl
theorem hostLaunch : Statement (.hostLaunch) := of_none rfl
theorem create (lhkey : Word) (seed : Nat) : Statement (.create lhkey seed) := of_none rfl
theorem destroy : Statement (.destroy) := of_none rfl
theorem dyingComplete (ctx : Nat) : Statement (.dyingComplete ctx) := of_none rfl
theorem mirprep : Statement (.mirprep) := of_none rfl
theorem mirDrainTimeout : Statement (.mirDrainTimeout) := of_none rfl
theorem mircommit (connected : Nat) : Statement (.mircommit connected) := of_none rfl
theorem fwload : Statement (.fwload) := of_none rfl
theorem suspend : Statement (.suspend) := of_none rfl
theorem suspendResume : Statement (.suspendResume) := of_none rfl
theorem run (die : Nat) (q : Nat) : Statement (.run die q) := of_none rfl
theorem wait (die : Nat) (q : Nat) : Statement (.wait die q) := of_none rfl
theorem signal (die : Nat) (q : Nat) : Statement (.signal die q) := of_none rfl
theorem preempt (die : Nat) (q : Nat) : Statement (.preempt die q) := of_none rfl
theorem restore (die : Nat) (q : Nat) : Statement (.restore die q) := of_none rfl
theorem rdcinv (die : Nat) (q : Nat) : Statement (.rdcinv die q) := of_none rfl
theorem qmove (die : Nat) (q : Nat) : Statement (.qmove die q) := of_none rfl
theorem qload (die : Nat) (q : Nat) : Statement (.qload die q) := of_none rfl
theorem prebndExpiry (cell : Nat) (slot : Nat) : Statement (.prebndExpiry cell slot) := of_none rfl
theorem taskSave (die : Nat) (q : Nat) : Statement (.taskSave die q) := of_none rfl
theorem registerRegionScrub (cell : Nat) (region : Nat) : Statement (.registerRegionScrub cell region) := of_none rfl
theorem pageWalk (k : Nat) (merge : Option Nat) : Statement (.pageWalk k merge) := of_none rfl
theorem nextPageFill (cell : Nat) (slot : Nat) (stream : Nat) : Statement (.nextPageFill cell slot stream) := of_none rfl
theorem shootdownComplete (id : Nat) : Statement (.shootdownComplete id) := of_none rfl
theorem linkDead (link : Nat) : Statement (.linkDead link) := of_none rfl
theorem linkRetrain (link : Nat) : Statement (.linkRetrain link) := of_none rfl
theorem facetPortDown (port : Nat) : Statement (.facetPortDown port) := of_none rfl
theorem keyUpdate (port : Nat) (key : LinkKey) : Statement (.keyUpdate port key) := of_none rfl
theorem verifyNewKey (m : PortMsg) : Statement (.verifyNewKey m) := of_none rfl
theorem keyUpdateStart (port : Nat) (key : LinkKey) : Statement (.keyUpdateStart port key) := of_none rfl
theorem bankLimit (port : Nat) : Statement (.bankLimit port) := of_none rfl
theorem sessionRenewal (port : Nat) (k : NewSession) : Statement (.sessionRenewal port k) := of_none rfl
theorem glintSlot (g : GlintEv) : Statement (.glintSlot g) := of_none rfl
theorem bstFrame (f : Frame) : Statement (.bstFrame f) := of_none rfl
theorem bamoFrame (f : Frame) : Statement (.bamoFrame f) := of_none rfl
theorem suspendAt (f : Frame) : Statement (.suspendAt f) := of_none rfl
theorem resumeAt (f : Frame) : Statement (.resumeAt f) := of_none rfl
theorem regen (f : Frame) : Statement (.regen f) := of_none rfl
theorem void (f : Frame) : Statement (.void f) := of_none rfl
theorem join (f : Frame) : Statement (.join f) := of_none rfl
theorem leave (f : Frame) : Statement (.leave f) := of_none rfl
theorem frameRecoveryRequest (q : LostFrame) : Statement (.frameRecoveryRequest q) := of_none rfl
theorem frameRecoveryTimeout (place : Nat) : Statement (.frameRecoveryTimeout place) := of_none rfl
theorem glintTimeout (w : Nat) (key : BitVec 256) : Statement (.glintTimeout w key) := of_none rfl
theorem regenAnswerTimeout (m : Nat) : Statement (.regenAnswerTimeout m) := of_none rfl
theorem groupKeyDelivery (epoch : Nat) (key : BitVec 256) : Statement (.groupKeyDelivery epoch key) := of_none rfl
theorem collectiveMatch (ctx : Nat) (ticket : Nat) (peers : List CollPeer) : Statement (.collectiveMatch ctx ticket peers) := of_none rfl
theorem collectiveComplete (ctx : Nat) (ticket : Nat) (peers : List CollPeer) (peerStatus : Nat) : Statement (.collectiveComplete ctx ticket peers peerStatus) := of_none rfl
theorem twoWayExchange (t1 : Nat) (t2 : Nat) (t3 : Nat) (t4 : Nat) (away : Nat) : Statement (.twoWayExchange t1 t2 t3 t4 away) := of_none rfl
theorem exchangeTimeout : Statement (.exchangeTimeout) := of_none rfl
theorem groupFormation (g : GroupForm) : Statement (.groupFormation g) := of_none rfl
theorem hctlGo (v : Word) (key : BitVec 256) : Statement (.hctlGo v key) := of_none rfl
theorem cmdtailWrite (v : Word) (recs : List (BitVec 512)) : Statement (.cmdtailWrite v recs) := of_none rfl
theorem evheadWrite (v : Word) : Statement (.evheadWrite v) := of_none rfl
theorem dbell (v : Word) : Statement (.dbell v) := of_none rfl
theorem errclr (v : Word) : Statement (.errclr v) := of_none rfl
theorem registerWrite (q : HostAt) (v : Word) : Statement (.registerWrite q v) := of_none rfl
theorem hostWindowWrite (q : HostAt) (v : Word) : Statement (.hostWindowWrite q v) := of_none rfl
theorem hostWindowRead (q : HostAt) : Statement (.hostWindowRead q) := of_none rfl
theorem bar4Write (q : HostAt) (v : Word) : Statement (.bar4Write q v) := of_none rfl
theorem bar4Read (q : HostAt) : Statement (.bar4Read q) := of_none rfl
theorem eventRecordWrite (src : Nat) : Statement (.eventRecordWrite src) := of_none rfl
theorem powerGood (p : PowerUp) : Statement (.powerGood p) := of_none rfl
theorem powerRemoval : Statement (.powerRemoval) := of_none rfl
theorem patrolScrub (pa : Nat) (corrected : Bool) : Statement (.patrolScrub pa corrected) := of_none rfl
theorem tjMeasurement (tj : Nat) : Statement (.tjMeasurement tj) := of_none rfl
theorem throttleStepDown (therm : Bool) (pwr : Bool) : Statement (.throttleStepDown therm pwr) := of_none rfl
theorem throttleStepUp : Statement (.throttleStepUp) := of_none rfl
theorem thermalTrip : Statement (.thermalTrip) := of_none rfl
theorem suspendFreeze : Statement (.suspendFreeze) := of_none rfl
theorem cutMarker (link : Nat) (seq : Nat) : Statement (.cutMarker link seq) := of_none rfl
theorem suspendSave : Statement (.suspendSave) := of_none rfl
theorem resumeAtTPrime : Statement (.resumeAtTPrime) := of_none rfl
theorem keyset (k : KeySetReq) : Statement (.keyset k) := of_none rfl
theorem spdmRequest (m : SpdmMsg) : Statement (.spdmRequest m) := of_none rfl
theorem dataWavelengthFrame (ctx : Nat) (ticket : Nat) (ev : DataEv) : Statement (.dataWavelengthFrame ctx ticket ev) := of_none rfl
theorem frameRecoveryServe (q : FrameName) (requester : Nat) : Statement (.frameRecoveryServe q requester) := of_none rfl
theorem frameRecoveryReply (a : FrameReply) : Statement (.frameRecoveryReply a) := of_none rfl
theorem regenAnswer (m : Nat) (place : Nat) : Statement (.regenAnswer m place) := of_none rfl
theorem prismReplicaCopy (bytes : List Host.Cell) (q : CopyPoint) : Statement (.prismReplicaCopy bytes q) := of_none rfl
theorem tpostPublication (id : Nat) : Statement (.tpostPublication id) := of_none rfl

end Laws.BuildOfCode

end Sys2Proof
end

