-- ==== Sys2Proof/Laws/Results.lean ====
section
/-! SUPPORT. Instructions that deliver one result to a register and change nothing else, and control instructions: the
operations that they are built from, each said once. -/

namespace Sys2Proof.Machine

open Sys2Proof

theorem putS_cond {s : State} {n : Nat} (h : s.cur.agent = .cond n) (e : Bool) (d : Nat) (v : Word) (l : Nat) :
    putS e (dstS s s.cur.agent d) v (s.clk + l - 1) s.cur.seq s =
      if d = 0 then s else s.updCond n fun y => { y with wr := y.wr ++ [(s.cur.seq, d, v, s.clk + l - 1)] } := by
  rw [h]; by_cases hd : d = 0 <;> simp [dstS, putS, hd]

theorem putS_cur (e : Bool) (dst : Dst) (v : Word) (due n : Nat) (s : State) : (putS e dst v due n s).cur = s.cur := by
  cases dst <;> rfl

theorem putS_clk (e : Bool) (dst : Dst) (v : Word) (due n : Nat) (s : State) : (putS e dst v due n s).clk = s.clk := by
  cases dst <;> rfl

theorem notC {c k : Nat} {x : Kind} {s : State} (ok : AgentOk s.cur.agent = true) (h : s.cur.agent = .strand c k x) : x ≠ .C := by
  intro hx; simp [AgentOk, h, hx] at ok

/-- What a strand's result puts in flight. -/
abbrev sWrite (e : Bool) (s : State) (c k : Nat) (x : Kind) (d : Nat) (v : Word) (l : Nat) : List RegWrite :=
  if d = 0 then [] else [{ seq := s.cur.seq, slot := k, k := x, engine := e, interlock := true, slate := true, due := s.clk + l - 1, off := sOff (s.slot c k) x d, len := 8, mask := 1, val := v.toNat }]

theorem pending_conductor {s : State} {n : Nat} (h : s.cur.agent = .cond n) (e : Bool) (d : Nat) (v : Word) (l : Nat) :
    (putS e (dstS s s.cur.agent d) v (s.clk + l - 1) s.cur.seq s).condOf n =
      { s.condOf n with wr := (s.condOf n).wr ++ if d = 0 then [] else [(s.cur.seq, d, v, s.clk + l - 1)] } := by
  rw [putS_cond h]; split <;> simp

/-- A result put in flight and issued: the register's write, the PC, and nothing else. -/
theorem result_spec {s : State} (ok : AgentOk s.cur.agent = true) (e : Bool) (d : Nat) (v : Word) (l : Nat) (pc : Word)
    (pf cs : PushAt) :
    let t := issueTo pc pf cs (putS e (dstS s s.cur.agent d) v (s.clk + l - 1) s.cur.seq s)
    PutsS e s t d v l ∧ GoesTo s t pc ∧ OnlyResult s t ∧ SameElsewhere s t := by
  intro t
  cases h : s.cur.agent with
  | strand c k x =>
    have r := issue_strand (notC ok h) h (pending_writeS h e d v l) rfl rfl pc pf cs
    refine ⟨?_, r.goes, ⟨r.only, (s.strand c k x).divFree, (s.strand c k x).fdivFree, ?_⟩, r.rest⟩
    · unfold PutsS; rw [h]; exact r.writes
    · unfold IssuerIs; rw [h]; exact r.strand
  | cond n =>
    have r := issue_cond (s := s) (s1 := putS e (dstS s s.cur.agent d) v (s.clk + l - 1) s.cur.seq s) h
      (by rw [putS_cond h]; split <;> rfl)
      (fun j hj => by rw [putS_cond h]; split <;> simp [condOf_updCond, hj])
      (pending_conductor h e d v l) rfl rfl rfl pc pf cs
    refine ⟨?_, r.goes, ⟨r.only, (s.condOf n).divFree, (s.condOf n).fdivFree, ?_⟩, r.rest⟩
    · unfold PutsS; rw [h]; exact r.writes
    · unfold IssuerIs; rw [h]; exact r.cond

theorem writeS_nextPc (n : Nat) (v : Word) (l : Nat) (s : State) : (writeS n v l s).nextPc = s.nextPc := by
  simp [State.nextPc, writeS, putS_cur]

theorem completesS {i : Instr} {s : State} (ok : AgentOk s.cur.agent = true) {d : Nat} {v : Word} {l : Nat} {pf cs : PushAt}
    (h : exec i s = .next (retire pf cs (writeS d v l s))) : CompletesS i s d v l :=
  ⟨_, h, by unfold retire; rw [writeS_nextPc]; exact result_spec ok false d v l _ _ _⟩

theorem completesVS {i : Instr} {s : State} (ok : AgentOk s.cur.agent = true) {d : Nat} {v : Word} {l : Nat} {pf cs : PushAt}
    (h : exec i s = .next (retire pf cs (writeVS d v l s))) : CompletesVS i s d v l := by
  refine ⟨_, h, ?_⟩
  have : (writeVS d v l s).nextPc = s.nextPc := by simp [State.nextPc, writeVS, putS_cur]
  unfold retire; rw [this]; exact result_spec ok true d v l _ _ _

/-- A vector result: lanes of a v register are in flight. -/
theorem completesV {i : Instr} {s : State} (ok : AgentOk s.cur.agent = true) {d m v l : Nat} {pf cs : PushAt}
    (h : exec i s = .next (retire pf cs (writeV d m v l s))) : CompletesV i s d m v l := by
  refine ⟨_, h, ?_⟩
  cases ha : s.cur.agent with
  | strand c k x =>
    have e : writeV d m v l s = putV c k x (vOff (s.slot c k) x d) m v (s.clk + l - 1) s.cur.seq true s := by
      unfold writeV; rw [ha]
    have p : Pending s (writeV d m v l s) c k x
        [{ seq := s.cur.seq, slot := k, k := x, engine := true, interlock := false, slate := true, due := s.clk + l - 1, off := vOff (s.slot c k) x d, len := 256, mask := m, val := v }]
        (s.strand c k x) := by
      rw [e]; unfold putV
      refine ⟨rfl, fun j hj => by simp [cell_updCell, hj], by simp, fun j _ => by simp [State.slot, Cell.slot], ?_⟩
      exact (setStrand_self (s.slot c k) x).symm ▸ (by simp [State.slot, Cell.slot, State.cell, State.updCell, State.setCell])
    have hn : (writeV d m v l s).nextPc = s.nextPc := by rw [State.nextPc, p.rest]; rfl
    have r := issue_strand (notC ok ha) ha p rfl rfl s.nextPc pf cs
    unfold retire; rw [hn]
    refine ⟨?_, r.goes, ⟨r.only, (s.strand c k x).divFree, (s.strand c k x).fdivFree, ?_⟩, r.rest⟩
    · unfold PutsV; rw [ha]; exact r.writes
    · unfold IssuerIs; rw [ha]; exact r.strand
  | cond n =>
    have e : writeV d m v l s = s := by unfold writeV; rw [ha]
    rw [e]
    have r := issue_cond (s := s) (s1 := s) (ws := []) ha rfl (fun _ _ => rfl) rfl (by simp) rfl rfl s.nextPc pf cs
    unfold retire
    refine ⟨?_, r.goes, ⟨r.only, (s.condOf n).divFree, (s.condOf n).fdivFree, ?_⟩, r.rest⟩
    · unfold PutsV; rw [ha]; trivial
    · unfold IssuerIs; rw [ha]; exact r.cond

/-- The same for an instruction that issues with the latency of its result. -/
theorem completesS_in {i : Instr} {s : State} (ok : AgentOk s.cur.agent = true) {d : Nat} {v : Word} {l : Nat}
    (h : exec i s = .next (retireIn l (writeS d v l s))) : CompletesS i s d v l := completesS ok h
theorem completesVS_in {i : Instr} {s : State} (ok : AgentOk s.cur.agent = true) {d : Nat} {v : Word} {l : Nat}
    (h : exec i s = .next (retireIn l (writeVS d v l s))) : CompletesVS i s d v l := completesVS ok h
theorem completesV_in {i : Instr} {s : State} (ok : AgentOk s.cur.agent = true) {d m v l : Nat}
    (h : exec i s = .next (retireIn l (writeV d m v l s))) : CompletesV i s d m v l := completesV ok h

/-- A strand that an update makes of one whose results are in flight. -/
theorem pending_upd {s s1 : State} {c k : Nat} {x : Kind} {ws : List RegWrite} {y : Strand} (hx : x ≠ .C)
    (p : Pending s s1 c k x ws y) (f : Strand → Strand) : Pending s (s1.updStrand c k x f) c k x ws (f y) := by
  have hs : (s1.slot c k).strand x = y := by rw [p.slot, strand_setStrand _ _ _ _ hx hx]; simp
  refine ⟨?_, fun j hj => ?_, ?_, fun j hj => ?_, ?_⟩
  · conv => lhs; rw [p.rest]
    rfl
  · rw [← p.other j hj]; simp [State.updStrand, State.updSlot, cell_updCell, hj]
  · have := p.cell; simp only [State.updStrand, State.updSlot, cell_updCell_same]
    rw [this]; rfl
  · rw [← p.slots j hj]; simp only [State.updStrand]; rw [slot_updSlot_ne _ _ _ _ _ hj]
  · simp only [State.updStrand, slot_updSlot_same]
    rw [hs, p.slot]
    cases x <;> rfl

/-- Nothing pending: the state itself. -/
theorem pending_self (s : State) (c k : Nat) (x : Kind) : Pending s s c k x [] (s.strand c k x) :=
  ⟨rfl, fun _ _ => rfl, by simp, fun _ _ => rfl, (setStrand_self (s.slot c k) x).symm⟩

/-- A division: as any result, on one of the agent's divide units. -/
theorem completesDiv {i : Instr} {s : State} (ok : AgentOk s.cur.agent = true) {d : Nat} {v : Word} {l : Nat} {pf cs : PushAt}
    (h : exec i s = .next (retire pf cs (takeDivider l (writeS d v l s)))
      ∨ exec i s = .next (retire pf cs (takeFloatDivider l (writeS d v l s)))) : CompletesS i s d v l := by
  have hk : (writeS d v l s).clk = s.clk := putS_clk ..
  cases ha : s.cur.agent with
  | strand c k x =>
    have hx := notC ok ha
    have hcur : (writeS d v l s).cur.agent = .strand c k x := by rw [writeS, putS_cur, ha]
    have key : ∀ f : Strand → Strand, (∀ y, f y = { y with divFree := (f y).divFree, fdivFree := (f y).fdivFree }) →
        ∀ i, exec i s = .next (retire pf cs ((writeS d v l s).updStrand c k x f)) → CompletesS i s d v l := by
      intro f hf i hi
      have q := pending_upd hx (pending_writeS ha false d v l) f
      have r := issue_strand hx ha q (by rw [hf]) (by rw [hf]) s.nextPc pf cs
      have hn : ((writeS d v l s).updStrand c k x f).nextPc = s.nextPc := by simp [State.nextPc, writeS, putS_cur]
      refine ⟨_, hi, ?_⟩
      unfold retire; rw [hn]
      refine ⟨?_, r.goes, ⟨r.only, (f (s.strand c k x)).divFree, (f (s.strand c k x)).fdivFree, ?_⟩, r.rest⟩
      · unfold PutsS; rw [ha]; exact r.writes
      · unfold IssuerIs; rw [ha]; have := r.strand; rw [hf] at this; exact this
    rcases h with h | h
    · unfold takeDivider at h; rw [hcur] at h; exact key _ (fun _ => rfl) i h
    · unfold takeFloatDivider at h; rw [hcur] at h; exact key _ (fun _ => rfl) i h
  | cond n =>
    have hcur : (writeS d v l s).cur.agent = .cond n := by rw [writeS, putS_cur, ha]
    have key : ∀ f : Cond → Cond, (∀ y, f y = { y with divFree := (f y).divFree, fdivFree := (f y).fdivFree }) →
        ∀ i, exec i s = .next (retire pf cs ((writeS d v l s).updCond n f)) → CompletesS i s d v l := by
      intro f hf i hi
      have hw := pending_conductor ha false d v l
      have r := issue_cond (s := s) (s1 := (writeS d v l s).updCond n f) (y := f ((writeS d v l s).condOf n))
        (ws := if d = 0 then [] else [(s.cur.seq, d, v, s.clk + l - 1)]) ha
        (by rw [writeS, putS_cond ha]; split <;> rfl)
        (fun j hj => by rw [writeS, putS_cond ha]; split <;> simp [condOf_updCond, hj])
        (by simp) (by rw [hf, writeS, hw]) (by rw [hf, writeS, hw]) (by rw [hf, writeS, hw]) s.nextPc pf cs
      have hn : ((writeS d v l s).updCond n f).nextPc = s.nextPc := by simp [State.nextPc, writeS, putS_cur]
      refine ⟨_, hi, ?_⟩
      unfold retire; rw [hn]
      refine ⟨?_, r.goes, ⟨r.only, (f ((writeS d v l s).condOf n)).divFree, (f ((writeS d v l s).condOf n)).fdivFree, ?_⟩, r.rest⟩
      · unfold PutsS; rw [ha]; exact r.writes
      · unfold IssuerIs; rw [ha]; have := r.cond; rw [hf, writeS, hw] at this; rw [writeS, hw]; exact this
    rcases h with h | h
    · unfold takeDivider at h; rw [hcur] at h; exact key _ (fun _ => rfl) i h
    · unfold takeFloatDivider at h; rw [hcur] at h; exact key _ (fun _ => rfl) i h

theorem toW_eq (x : Int) : toW x = BitVec.ofInt 64 x := by
  apply BitVec.eq_of_toNat_eq
  simp [toW, wrap]
  omega

/-- A format A result. -/
theorem completesA {i : Instr} {s : State} (ok : AgentOk s.cur.agent = true) {x : FmtA} {l : Nat} {f : Word → Word → Word → Word}
    {v : Word} (h : exec i s = aluA l f x s) (e : f (s.rs x.a) (s.rs x.b) (s.rs x.c) = v) : CompletesS i s x.d v l := by
  subst e; exact completesS ok h

/-- A format I result. -/
theorem completesI {i : Instr} {s : State} (ok : AgentOk s.cur.agent = true) {x : FmtI} {f : Word → Word} {v : Word}
    (h : exec i s = aluI f x s) (e : f (s.rs x.a) = v) : CompletesS i s x.d v 1 := by
  subst e; exact completesS ok h

/-- A division. -/
theorem completesD {i : Instr} {s : State} (ok : AgentOk s.cur.agent = true) {x : FmtA} {f : Word → Word → Word} {v : Word}
    (h : exec i s = divA f x s) (e : f (s.rs x.a) (s.rs x.b) = v) : CompletesS i s x.d v 34 := by
  subst e; exact completesDiv ok (.inl h)

/-- The agent's next issue is held back after a wrong prediction (R104). -/
theorem predicted_strand {s t : State} {c k : Nat} {x : Kind} {ws : List RegWrite} {y : Strand} {pc : Word} (hx : x ≠ .C)
    (ha : s.cur.agent = .strand c k x) (r : Issued s t c k x ws y pc) (right : Bool) :
    Issued s (predicted right t) c k x ws { y with gate := if right then y.gate else s.clk + 5 } pc := by
  have hcur : t.cur.agent = .strand c k x := by rw [r.goes.1]; exact ha
  have hclk : t.clk = s.clk := by rw [r.rest]
  cases right with
  | true => simpa [predicted] using r
  | false =>
    have e : predicted false t = t.updStrand c k x fun y => { y with gate := t.clk + 5 } := by
      unfold predicted; simp only [Bool.false_eq_true, if_false]; rw [hcur]
    rw [e, hclk]
    have ho := r.only; unfold OnlyIssuer at ho; rw [ha] at ho
    obtain ⟨h1, h2, h3, h4, h5, h6⟩ := ho
    have hs : (t.updStrand c k x fun y => { y with gate := s.clk + 5 }).strand c k x = { t.strand c k x with gate := s.clk + 5 } := by
      simp only [State.strand, State.updStrand, slot_updSlot_same]; rw [strand_setStrand _ _ _ _ hx hx]; simp
    refine ⟨?_, ⟨?_, ?_⟩, ?_, ?_, ?_⟩
    · rw [← r.writes]; simp [State.updStrand, State.updSlot]
    · rw [← r.goes.1]; rfl
    · rw [← r.goes.2, ha]; simp only [State.pcOf, hs]
    · unfold OnlyIssuer; rw [ha]; simp only
      refine ⟨h1, fun c' hc => ?_, ?_, fun k' hk => ?_, ?_, fun q hq hqc => ?_⟩
      · rw [← h2 c' hc]; simp [State.updStrand, State.updSlot, cell_updCell, hc]
      · simp only [State.updStrand, State.updSlot, cell_updCell_same]; rw [h3]; rfl
      · rw [← h4 k' hk]; simp only [State.updStrand]; rw [slot_updSlot_ne _ _ _ _ _ hk]
      · simp only [State.updStrand, slot_updSlot_same]; rw [h5]; cases x <;> rfl
      · rw [← h6 q hq hqc]; simp only [State.strand, State.updStrand, slot_updSlot_same]
        rw [strand_setStrand _ _ _ _ hx hqc, if_neg hq]
    · have := r.rest; unfold SameElsewhere at this ⊢; conv => lhs; rw [this]
      rfl
    · rw [hs, r.strand]; simp

theorem predicted_cond {s t : State} {n : Nat} {ws : List (Nat × Nat × Word × Nat)} {y : Cond} {pc : Word}
    (ha : s.cur.agent = .cond n) (r : IssuedC s t n ws y pc) (right : Bool) :
    IssuedC s (predicted right t) n ws { y with gate := if right then y.gate else s.clk + 5 } pc := by
  have hcur : t.cur.agent = .cond n := by rw [r.goes.1]; exact ha
  have hclk : t.clk = s.clk := by rw [r.rest]
  cases right with
  | true => simpa [predicted] using r
  | false =>
    have e : predicted false t = t.updCond n fun y => { y with gate := t.clk + 5 } := by
      unfold predicted; simp only [Bool.false_eq_true, if_false]; rw [hcur]
    rw [e, hclk]
    have ho := r.only; unfold OnlyIssuer at ho; rw [ha] at ho
    refine ⟨?_, ⟨?_, ?_⟩, ?_, ?_, ?_⟩
    · rw [← r.writes]; simp
    · rw [← r.goes.1]; rfl
    · rw [← r.goes.2, ha]; simp [State.pcOf]
    · unfold OnlyIssuer; rw [ha]; simp only
      refine ⟨ho.1, fun m hm => ?_⟩
      rw [condOf_updCond, if_neg hm]; exact ho.2 m hm
    · have := r.rest; unfold SameElsewhere at this ⊢; conv => lhs; rw [this]
      rfl
    · rw [condOf_updCond_same, r.cond]; simp

/-- A control instruction that puts no result in flight, from what it makes of its agent before it issues. -/
theorem controls {i : Instr} {s s1 : State} (ok : AgentOk s.cur.agent = true) {pc : Word} {right : Bool} {F : Strand → Strand}
    {G : Cond → Cond} (h : exec i s = .next (goTo pc right s1))
    (hF : ∀ y, (F y).repst = y.repst ∧ (F y).pc = y.pc ∧ (F y).gate = y.gate)
    (hG : ∀ y, (G y).repst = y.repst ∧ (G y).pc = y.pc ∧ (G y).wr = y.wr ∧ (G y).gate = y.gate)
    (h1 : s1 = match s.cur.agent with | .strand c k x => s.updStrand c k x F | .cond n => s.updCond n G) :
    Controls i s pc right F G (PutsNothing s) := by
  refine ⟨_, h, ?_⟩
  cases ha : s.cur.agent with
  | strand c k x =>
    rw [ha] at h1; simp only at h1; subst h1
    have hx := notC ok ha
    have r := predicted_strand hx ha
      (issue_strand hx ha (pending_upd hx (pending_self s c k x) F) (hF _).1 (hF _).2.1 pc (.clk (s.updStrand c k x F).clk) (.clk ((s.updStrand c k x F).clk + 1))) right
    refine ⟨r.goes, r.only, r.rest, ?_, ?_⟩
    · unfold PutsNothing; rw [ha]; exact r.writes.trans (List.append_nil _)
    · unfold IssuerIs; rw [ha]; have := r.strand; rw [(hF _).2.2] at this; exact this
  | cond n =>
    rw [ha] at h1; simp only at h1; subst h1
    have r := predicted_cond ha
      (issue_cond (s := s) (s1 := s.updCond n G) (y := G (s.condOf n)) (ws := []) ha rfl
        (fun j hj => by simp [condOf_updCond, hj]) (by simp) (by rw [(hG _).2.2.1]; simp) (hG _).1 (hG _).2.1 pc (.clk (s.updCond n G).clk) (.clk ((s.updCond n G).clk + 1))) right
    refine ⟨r.goes, r.only, r.rest, ?_, ?_⟩
    · unfold PutsNothing; rw [ha]; exact r.writes.trans (List.append_nil _)
    · unfold IssuerIs; rw [ha]; have := r.cond; rw [(hG _).2.2.2] at this; exact this

/-- A control instruction that only goes to a PC. -/
theorem controls_plain {i : Instr} {s : State} (ok : AgentOk s.cur.agent = true) {pc : Word} {right : Bool}
    (h : exec i s = .next (goTo pc right s)) : Controls i s pc right (fun y => y) (fun y => y) (PutsNothing s) := by
  refine ⟨_, h, ?_⟩
  cases ha : s.cur.agent with
  | strand c k x =>
    have hx := notC ok ha
    have r := predicted_strand hx ha
      (issue_strand hx ha (pending_self s c k x) rfl rfl pc (.clk s.clk) (.clk (s.clk + 1))) right
    refine ⟨r.goes, r.only, r.rest, ?_, ?_⟩
    · unfold PutsNothing; rw [ha]; exact r.writes.trans (List.append_nil _)
    · unfold IssuerIs; rw [ha]; exact r.strand
  | cond n =>
    have r := predicted_cond ha
      (issue_cond (s := s) (s1 := s) (ws := []) ha rfl (fun _ _ => rfl) rfl (by simp) rfl rfl pc (.clk s.clk) (.clk (s.clk + 1))) right
    refine ⟨r.goes, r.only, r.rest, ?_, ?_⟩
    · unfold PutsNothing; rw [ha]; exact r.writes.trans (List.append_nil _)
    · unfold IssuerIs; rw [ha]; exact r.cond

/-- A control instruction that links. -/
theorem controls_link {i : Instr} {s : State} (ok : AgentOk s.cur.agent = true) {pc v : Word} {right : Bool} {d : Nat}
    (h : exec i s = .next (goTo pc right (writeS d v 1 s))) :
    Controls i s pc right (fun y => y) (fun y => y) (fun t => PutsS false s t d v 1) := by
  refine ⟨_, h, ?_⟩
  cases ha : s.cur.agent with
  | strand c k x =>
    have hx := notC ok ha
    have r := predicted_strand hx ha
      (issue_strand hx ha (pending_writeS ha false d v 1) rfl rfl pc (.clk (writeS d v 1 s).clk) (.clk ((writeS d v 1 s).clk + 1))) right
    refine ⟨r.goes, r.only, r.rest, ?_, ?_⟩
    · unfold PutsS; rw [ha]; exact r.writes
    · unfold IssuerIs; rw [ha]; exact r.strand
  | cond n =>
    have r := predicted_cond ha
      (issue_cond (s := s) (s1 := writeS d v 1 s) (ws := if d = 0 then [] else [(s.cur.seq, d, v, s.clk + 1 - 1)]) ha
        (by rw [writeS, putS_cond ha]; split <;> rfl)
        (fun j hj => by rw [writeS, putS_cond ha]; split <;> simp [condOf_updCond, hj])
        (pending_conductor ha false d v 1) rfl rfl rfl pc (.clk (writeS d v 1 s).clk) (.clk ((writeS d v 1 s).clk + 1))) right
    refine ⟨r.goes, r.only, r.rest, ?_, ?_⟩
    · unfold PutsS; rw [ha]; exact r.writes
    · unfold IssuerIs; rw [ha]; exact r.cond

end Sys2Proof.Machine
end

