-- ==== Sys2Proof/Laws/Translate.lean ====
section
/-! SUPPORT. What translating an address can change, said once for every operation that translates, and what an instruction
does that puts an access in flight. -/

namespace Sys2Proof.Machine

open Sys2Proof

theorem translated_refl (s : State) : Translated s s := ⟨rfl, fun _ => rfl, fun _ _ => rfl⟩

theorem translated_trans {s t u : State} (h : Translated s t) (g : Translated t u) : Translated s u := by
  obtain ⟨h1, h2, h3⟩ := h
  obtain ⟨g1, g2, g3⟩ := g
  refine ⟨?_, fun c => ?_, fun c k => ?_⟩
  · conv => lhs; rw [g1, h1]
  · rw [g2, h2]
  · rw [g3, h3]

theorem putBytes_exists (pa key : Nat) (l : List Byte) (s : State) :
    ∃ m k, s.putBytes pa key l = { s with mem := m, keyTag := k } := by
  induction l generalizing pa s with
  | nil => exact ⟨s.mem, s.keyTag, rfl⟩
  | cons b t ih =>
    have h1 : ∃ m k, s.putByte pa key b = { s with mem := m, keyTag := k } := by
      unfold State.putByte State.reachSector
      simp only
      split
      · exact ⟨_, s.keyTag, rfl⟩
      · exact ⟨_, _, rfl⟩
    obtain ⟨m, k, h1⟩ := h1
    obtain ⟨m', k', h2⟩ := ih (pa + 1) (s.putByte pa key b)
    exact ⟨m', k', by simp only [State.putBytes]; rw [h2, h1]⟩

/-- Writes to memory leave everything but memory, its key tags, the words fetch may still see, the error records and the L1s' copies. -/
theorem memWrite_exists (who pa n v key : Nat) (s : State) :
    ∃ m k o e l, s.memWrite who pa n v key = { s with mem := m, keyTag := k, oldWords := o, err := e, l1 := l } := by
  unfold State.memWrite State.memWriteL
  obtain ⟨m, k, h⟩ := putBytes_exists pa key (leBytes n v) (s.noteOld who pa (leBytes n v).length key)
  rw [h]
  exact ⟨_, _, _, _, _, rfl⟩

theorem translated_of_eq {s t : State}
    (h : t = { s with
      walks := t.walks, refusals := t.refusals, wcache := t.wcache, mem := t.mem, keyTag := t.keyTag, oldWords := t.oldWords, err := t.err, l1 := t.l1 }) :
    Translated s t := by
  have hc : t.cells = s.cells := by rw [h]
  have hk : ∀ c, t.cell c = s.cell c := fun c => by simp only [State.cell, hc]
  refine ⟨by conv => lhs; rw [h]
             rw [← hc], fun c => by rw [hk], fun c k => ?_⟩
  have : t.slot c k = s.slot c k := by simp only [State.slot, hk]
  rw [this]

theorem setAD_translated (u : Option (Nat × Nat)) (s : State) : Translated s (setAD u s) := by
  cases u with
  | none => exact translated_refl s
  | some p =>
    obtain ⟨m, k, o, e, l, h⟩ := memWrite_exists 0 p.1 8 p.2 0 s
    have h' : setAD (some p) s = { s with mem := m, keyTag := k, oldWords := o, err := e, l1 := l } := h
    rw [h']
    exact translated_of_eq rfl

theorem noteStream_translated (c k st : Nat) (va : Word) (t : Trans) (n : Bool) (s : State) :
    Translated s (noteStream c k st va t n s) := by
  unfold noteStream
  refine ⟨rfl, fun j => ?_, fun j i => ?_⟩
  · by_cases h : j = c
    · subst h; simp [State.updSlot, Cell.setSlot]
    · simp [State.updSlot, cell_updCell, h]
  · by_cases h : j = c
    · subst h
      by_cases g : i = k
      · subst g; rw [slot_updSlot_same]
      · rw [slot_updSlot_ne _ _ _ _ _ g]
    · simp only [State.slot, State.updSlot]; rw [cell_updCell, if_neg h]

theorem translateTask_translated (a : Agent) (c k st : Nat) (va : Word) (kind : Nat) (s : State) :
    Translated s (translateTask a c k st va kind s).2 := by
  have use : ∀ (t : Trans) (n : Bool), Translated s
      (match t.refuses kind true with
        | some cause => ((.bad cause t.level, s) : Tr × State)
        | none => (.hit t, noteStream c k st va t n s)).2 := by
    intro t n; split
    · exact translated_refl s
    · exact noteStream_translated ..
  unfold translateTask
  simp only
  split
  · exact translated_refl s
  · split
    · exact use _ _
    · split
      · exact translated_of_eq rfl
      · split
        · exact translated_refl s
        · exact translated_of_eq rfl

/-- A walk notes entries in its set's cache and changes nothing else. -/
theorem noteWalk_eq (set ctx : Nat) (va : Word) (s : State) : ∃ w, noteWalk set ctx va s = { s with wcache := w } := by
  unfold noteWalk
  dsimp only
  generalize (if canonical va then walkPath s set va.toNat [5, 4, 3, 2] (s.ctxOf ctx).ptroot else []) = l
  split
  · exact ⟨s.wcache, rfl⟩
  · exact ⟨_, rfl⟩

theorem noteWalk_translated (set ctx : Nat) (va : Word) (s : State) : Translated s (noteWalk set ctx va s) := by
  obtain ⟨w, h⟩ := noteWalk_eq set ctx va s
  rw [h]
  exact translated_of_eq rfl

theorem translateHub_translated (ctx : Nat) (va : Word) (kind : Nat) (task : Bool) (s : State) :
    Translated s (translateHub ctx va kind task s).2 := by
  have n := noteWalk_translated hubSet ctx va s
  unfold translateHub
  dsimp only
  generalize noteWalk hubSet ctx va s = u at n ⊢
  split
  · exact translated_trans n (setAD_translated _ u)
  · exact n
  · exact n

theorem translate_translated (a : Agent) (st : Nat) (va : Word) (kind : Nat) (s : State) :
    Translated s (translate a st va kind s).2 := by
  unfold translate
  split
  · exact translateTask_translated ..
  · exact translateHub_translated ..

theorem place_translated {st kind : Nat} {ea : Word} {s t : State} {l : Loc} (h : place st kind ea s = .ok (l, t)) :
    Translated s t := by
  have key : ∀ r, (match translate s.cur.agent st ea kind s with
      | (.hit t, s) => (.ok (.mem (t.phys ea) t.key, s) : Except State (Loc × State))
      | (.wait, s) => .error s
      | (.bad c l, s) => .error (raise (causeCode c) 0 ea (causeWord c l kind) 0 s)) = .ok r → Translated s r.2 := by
    intro r hr
    have := translate_translated s.cur.agent st ea kind s
    split at hr
    · cases hr; rename_i e; rw [e] at this; exact this
    · cases hr
    · cases hr
  unfold place at h
  simp only at h
  split at h
  · split at h
    · cases h; exact translated_refl s
    · exact key _ h
  · exact key _ h

theorem placeScalar_translated {st kind w : Nat} {ea : Word} {s t : State} {l : Loc} (h : placeScalar st kind w ea s = .ok (l, t)) :
    Translated s t := by
  unfold placeScalar at h
  split at h
  · cases h
  · split at h
    · cases h
    · exact place_translated h

theorem placeRecord_translated {al : Nat} {ea : Word} {s t : State} {l : Loc} (h : placeRecord al ea s = .ok (l, t)) :
    Translated s t := by
  unfold placeRecord at h
  split at h
  · cases h
  · split at h
    · cases h
    · exact place_translated h

theorem placeAll_translated {st kind : Nat} {l : List Word} {s t : State} {r : List Loc} (h : placeAll st kind l s = .ok (r, t)) :
    Translated s t := by
  induction l generalizing s r with
  | nil => cases h; exact translated_refl _
  | cons v vs ih =>
    unfold placeAll at h
    split at h
    · cases h
    · rename_i h1
      split at h
      · cases h
      · rename_i h2
        cases h; exact translated_trans (place_translated h1) (ih h2)

theorem placeElems_translated {st kind w : Nat} {aux : Word → Word} {l : List Word} {s t : State} {r : List Loc}
    (h : placeElems st kind w aux l s = .ok (r, t)) : Translated s t := by
  unfold placeElems at h
  split at h
  · cases h
  · split at h
    · cases h
    · simp only at h
      split at h
      · cases h
      · rename_i h1
        cases h; exact placeAll_translated h1

/-! ## Translation changes no register -/

theorem regRead_translated {s t : State} (h : Translated s t) (c o n : Nat) : regRead t c o n = regRead s c o n := by
  unfold regRead
  rw [h.2.1 c]

theorem sOff_translated {s t : State} (h : Translated s t) (c k : Nat) (x : Kind) (n : Nat) :
    sOff (t.slot c k) x n = sOff (s.slot c k) x n := by
  rw [h.2.2]; cases x <;> rfl

theorem vOff_translated {s t : State} (h : Translated s t) (c k : Nat) (x : Kind) (n : Nat) :
    vOff (t.slot c k) x n = vOff (s.slot c k) x n := by
  rw [h.2.2]; cases x <;> rfl

theorem readS_translated {s t : State} (h : Translated s t) (a : Agent) (n : Nat) : readS t a n = readS s a n := by
  unfold readS
  split
  · rfl
  · cases a with
    | strand c k x => simp only; rw [regRead_translated h, sOff_translated h]
    | cond m =>
      have hc : t.conds = s.conds := by rw [h.1]
      simp only [State.condOf, hc]

theorem cur_translated {s t : State} (h : Translated s t) : t.cur = s.cur := by rw [h.1]

theorem rs_translated {s t : State} (h : Translated s t) (n : Nat) : t.rs n = s.rs n := by
  unfold State.rs; rw [cur_translated h, readS_translated h]

theorem rv_translated {s t : State} (h : Translated s t) (n : Nat) : t.rv n = s.rv n := by
  unfold State.rv readV
  rw [cur_translated h]
  split
  · rw [regRead_translated h, vOff_translated h]
  · rfl

theorem dstS_translated {s t : State} (h : Translated s t) (a : Agent) (n : Nat) : dstS t a n = dstS s a n := by
  unfold dstS
  split
  · rfl
  · cases a with
    | strand c k x => simp only; rw [sOff_translated h]
    | cond m => rfl

theorem dstV_translated {s t : State} (h : Translated s t) (n : Nat) : t.dstV n = s.dstV n := by
  unfold State.dstV
  rw [cur_translated h]
  split
  · rw [vOff_translated h]
  · rfl

theorem newAcc_translated {s t : State} (h : Translated s t) (kind : AccKind) (cls scope : Nat) :
    t.newAcc kind cls scope = s.newAcc kind cls scope := by
  have hc := cur_translated h
  have h1 : ∀ a, t.ctxNum a = s.ctxNum a := by
    intro a; cases a with
    | strand c k x => simp only [State.ctxNum]; rw [h.2.2]
    | cond n => have : t.conds = s.conds := by rw [h.1]
                simp only [State.ctxNum, State.condOf, this]
  have h2 : ∀ a, t.repst a = s.repst a := by
    intro a; cases a with
    | strand c k x => simp only [State.repst, State.strand]; rw [h.2.2]; cases x <;> rfl
    | cond n => have : t.conds = s.conds := by rw [h.1]
                simp only [State.repst, State.condOf, this]
  have h3 : ∀ a, t.rtOf a = s.rtOf a := by
    intro a; have : t.time = s.time := by rw [h.1]
    simp only [State.rtOf, State.dieRt, State.rt, State.skewOf, this]
  unfold State.newAcc newAcc
  rw [hc, h1, h2, h3]

theorem accessOf_eq (s : State) (kind : AccKind) (cls scope : Nat) : accessOf s kind cls scope = s.newAcc kind cls scope := by
  unfold accessOf State.newAcc newAcc scopeOf actingScope
  cases s.cur.agent <;> rfl

/-! ## An access is put in flight -/

/-- An instruction that puts one access in flight and does not hold its agent. -/
theorem starts {i : Instr} {s s1 : State} {a : Acc} (ok : AgentOk s.cur.agent = true) (h : Translated s s1)
    (e : exec i s = .next (issueAcc a s1)) : Starts i s s1 a false := by
  refine ⟨h, _, e, ?_⟩
  have hc := cur_translated h
  generalize hu : ({ s1 with accs := s1.accs ++ [a.sized s1] } : State) = u
  have hi : issueAcc a s1 = issueTo u.nextPc (.perform u.cur.seq) (.clk (u.clk + 1)) u := by rw [← hu]; rfl
  have hn : u.nextPc = s1.nextPc := by rw [← hu]; rfl
  rw [hi, hn]
  cases ha : s.cur.agent with
  | strand c k x =>
    have hx : x ≠ .C := notC ok ha
    have hau : u.cur.agent = .strand c k x := by rw [← hu]; exact hc ▸ ha
    have hsu : ∀ c, u.cell c = s1.cell c := by intro c; rw [← hu]; rfl
    have hss : ∀ c k x, u.strand c k x = s1.strand c k x := by intro c k x; rw [← hu]; rfl
    have r := issue_strand hx hau (pending_self u c k x) rfl rfl s1.nextPc (.perform u.cur.seq) (.clk (u.clk + 1))
    have ha1 : s1.cur.agent = .strand c k x := by rw [hc]; exact ha
    have ho := r.only; unfold OnlyIssuer at ho; rw [hau] at ho
    refine ⟨?_, ?_, ?_, ?_, ?_, ?_⟩
    · rw [r.rest, ← hu]
    · unfold PutsNothing; rw [ha1]; simp only; rw [r.writes, hsu]; simp
    · have := r.goes; rw [← hu] at this ⊢; exact this
    · unfold OnlyIssuer; rw [ha1]; rw [← hu] at ho ⊢; exact ho
    · unfold IssuerIs; rw [ha1]; simp only [Bool.false_eq_true, if_false]; rw [r.strand, hss]
    · have := r.rest; unfold SameElsewhere at this; rw [← hu] at this ⊢
      have e : (issueTo s1.nextPc (.perform s1.cur.seq) (.clk (s1.clk + 1)) { s1 with accs := s1.accs ++ [a.sized s1] }).accs = s1.accs ++ [a.sized s1] := by rw [this]
      refine this.trans ?_
      rw [e]
  | cond n =>
    have hau : u.cur.agent = .cond n := by rw [← hu]; exact hc ▸ ha
    have hsu : ∀ c, u.condOf c = s1.condOf c := by intro c; rw [← hu]; rfl
    have ha1 : s1.cur.agent = .cond n := by rw [hc]; exact ha
    have r := issue_cond (s := u) (s1 := u) (ws := []) hau rfl (fun _ _ => rfl) rfl (by simp) rfl rfl s1.nextPc (.perform u.cur.seq) (.clk (u.clk + 1))
    have ho := r.only; unfold OnlyIssuer at ho; rw [hau] at ho
    refine ⟨?_, ?_, ?_, ?_, ?_, ?_⟩
    · rw [r.rest, ← hu]
    · unfold PutsNothing; rw [ha1]; simp only; rw [r.writes, hsu]; simp
    · have := r.goes; rw [← hu] at this ⊢; exact this
    · unfold OnlyIssuer; rw [ha1]; rw [← hu] at ho ⊢; exact ho
    · unfold IssuerIs; rw [ha1]; simp only [Bool.false_eq_true, if_false]
      have := r.cond; rw [hsu] at this; rw [← hu] at this ⊢; exact this
    · have := r.rest; unfold SameElsewhere at this; rw [← hu] at this ⊢
      have e : (issueTo s1.nextPc (.perform s1.cur.seq) (.clk (s1.clk + 1)) { s1 with accs := s1.accs ++ [a.sized s1] }).accs = s1.accs ++ [a.sized s1] := by rw [this]
      refine this.trans ?_
      rw [e]

/-- An instruction that puts one access in flight and holds its agent until it performs. -/
theorem starts_held {i : Instr} {s s1 : State} {a : Acc} (ok : AgentOk s.cur.agent = true) (h : Translated s s1)
    (e : exec i s = .next (holdAgent (issueAcc a s1))) : Starts i s s1 a true := by
  refine ⟨h, _, e, ?_⟩
  have hc := cur_translated h
  generalize hu : ({ s1 with accs := s1.accs ++ [a.sized s1] } : State) = u
  have hi : issueAcc a s1 = issueTo u.nextPc (.perform u.cur.seq) (.clk (u.clk + 1)) u := by rw [← hu]; rfl
  have hn : u.nextPc = s1.nextPc := by rw [← hu]; rfl
  have hcu : u.cur = s.cur := by rw [← hu]; exact hc
  rw [hi, hn]
  cases ha : s.cur.agent with
  | strand c k x =>
    have hx : x ≠ .C := notC ok ha
    have hau : u.cur.agent = .strand c k x := by rw [hcu]; exact ha
    have ha1 : s1.cur.agent = .strand c k x := by rw [hc]; exact ha
    have r := issue_strand hx hau (pending_self u c k x) rfl rfl s1.nextPc (.perform u.cur.seq) (.clk (u.clk + 1))
    generalize hv : issueTo s1.nextPc (.perform u.cur.seq) (.clk (u.clk + 1)) u = v at r ⊢
    have hvc : v.cur = { u.cur with done := true } := r.goes.1
    have hh : holdAgent v = v.updStrand c k x fun y => { y with block := some s.cur.seq } := by
      unfold holdAgent; rw [hvc]; simp only [hcu, ha]
    have ho := r.only; unfold OnlyIssuer at ho; rw [hau] at ho
    obtain ⟨h1, h2, h3, h4, h5, h6⟩ := ho
    have hs : (v.updStrand c k x fun y => { y with block := some s.cur.seq }).strand c k x = { v.strand c k x with block := some s.cur.seq } := by
      simp only [State.strand, State.updStrand, slot_updSlot_same]; rw [strand_setStrand _ _ _ _ hx hx]; simp
    rw [hh]
    have hr := r.rest; unfold SameElsewhere at hr
    have hu1 : u = { s1 with accs := s1.accs ++ [a.sized s1] } := hu.symm
    have hcell : ∀ j, u.cell j = s1.cell j := fun j => by rw [hu1]; rfl
    have hslot : ∀ j i, u.slot j i = s1.slot j i := fun j i => by rw [hu1]; rfl
    refine ⟨?_, ?_, ⟨?_, ?_⟩, ?_, ?_, ?_⟩
    · show v.accs = _; rw [hr, hu1]
    · unfold PutsNothing; rw [ha1]; simp only [State.updStrand, State.updSlot, cell_updCell_same]
      show (v.cell c).wr = _; rw [r.writes, hcell]; simp
    · show v.cur = _; rw [hvc, hu1]
    · rw [ha1]; simp only [State.pcOf, hs]
      have := r.goes.2; rw [hau] at this; rw [hu1] at this; exact this
    · unfold OnlyIssuer; rw [ha1]; simp only
      refine ⟨?_, fun c' hc => ?_, ?_, fun k' hk => ?_, ?_, fun q hq hqc => ?_⟩
      · show v.conds = _; rw [h1, hu1]
      · rw [← hcell, ← h2 c' hc]; simp [State.updStrand, State.updSlot, cell_updCell, hc]
      · simp only [State.updStrand, State.updSlot, cell_updCell_same]; rw [h3, hcell]; rfl
      · rw [← hslot, ← h4 k' hk]; simp only [State.updStrand]; rw [slot_updSlot_ne _ _ _ _ _ hk]
      · simp only [State.updStrand, slot_updSlot_same]; rw [h5, hslot]; cases x <;> rfl
      · have : u.strand c k q = s1.strand c k q := by simp only [State.strand, hslot]
        rw [← this, ← h6 q hq hqc]; simp only [State.strand, State.updStrand, slot_updSlot_same]
        rw [strand_setStrand _ _ _ _ hx hqc, if_neg hq]
    · unfold IssuerIs; rw [ha1]; simp only [if_true]; rw [hs, r.strand]
      have : u.strand c k x = s1.strand c k x := by simp only [State.strand, hslot]
      rw [this]
    · have e1 : v.accs = s1.accs ++ [a.sized s1] := by rw [hr, hu1]
      have : v = { s1 with cells := v.cells, conds := v.conds, cur := v.cur, accs := v.accs } := by
        rw [hu1] at hr; refine hr.trans ?_; rw [e1]
      conv => lhs; rw [this]
      rfl
  | cond n =>
    have hau : u.cur.agent = .cond n := by rw [hcu]; exact ha
    have ha1 : s1.cur.agent = .cond n := by rw [hc]; exact ha
    have hu1 : u = { s1 with accs := s1.accs ++ [a.sized s1] } := hu.symm
    have hco : ∀ j, u.condOf j = s1.condOf j := fun j => by rw [hu1]; rfl
    have r := issue_cond (s := u) (s1 := u) (ws := []) hau rfl (fun _ _ => rfl) rfl (by simp) rfl rfl s1.nextPc (.perform u.cur.seq) (.clk (u.clk + 1))
    generalize hv : issueTo s1.nextPc (.perform u.cur.seq) (.clk (u.clk + 1)) u = v at r ⊢
    have hvc : v.cur = { u.cur with done := true } := r.goes.1
    have hh : holdAgent v = v.updCond n fun y => { y with block := some s.cur.seq } := by
      unfold holdAgent; rw [hvc]; simp only [hcu, ha]
    have ho := r.only; unfold OnlyIssuer at ho; rw [hau] at ho
    have hr := r.rest; unfold SameElsewhere at hr
    rw [hh]
    refine ⟨?_, ?_, ⟨?_, ?_⟩, ?_, ?_, ?_⟩
    · show v.accs = _; rw [hr, hu1]
    · unfold PutsNothing; rw [ha1]; simp only [condOf_updCond_same]
      rw [r.writes, hco]; simp
    · show v.cur = _; rw [hvc, hu1]
    · rw [ha1]; simp only [State.pcOf, condOf_updCond_same]
      have := r.goes.2; rw [hau] at this; rw [hu1] at this; exact this
    · unfold OnlyIssuer; rw [ha1]; simp only
      refine ⟨?_, fun m hm => ?_⟩
      · show v.cells = _; rw [ho.1, hu1]
      · rw [← hco, ← ho.2 m hm, condOf_updCond, if_neg hm]
    · unfold IssuerIs; rw [ha1]; simp only [if_true, condOf_updCond_same]; rw [r.cond, hco]
      have e : u.clk = s1.clk := by rw [hu1]
      rw [e]
    · have e1 : v.accs = s1.accs ++ [a.sized s1] := by rw [hr, hu1]
      have : v = { s1 with cells := v.cells, conds := v.conds, cur := v.cur, accs := v.accs } := by
        rw [hu1] at hr; refine hr.trans ?_; rw [e1]
      conv => lhs; rw [this]
      rfl

end Sys2Proof.Machine
end

