-- ==== Sys2Proof/Tests/Slice0.lean ====
section
/-! SUPPORT. Tests: words of the manual through the decoder, ill-formed terms through each check, a few steps with results worked out
from the rules by hand, and for every statement states and operands that meet its hypotheses together. -/

set_option Elab.async false

namespace Sys2Proof.Tests

open Sys2Proof Sys2Proof.Machine

/-! ## Small states -/

/-- Whether a computation answers. -/
def okB {α β : Type} : Except α β → Bool
  | .ok _ => true
  | .error _ => false

/-- Page tables that map the lowest GiB of virtual addresses to the same physical addresses, readable, writable and executable, with A and
D set (R317 to R321): root at 0x1000. -/
def tables : Memory := Memory.writeN (Memory.writeN (Memory.writeN [] 0x1000 8 0x2001) 0x2000 8 0x3001) 0x3000 8 0xB7

/-- A live context: ASID 7, those page tables, a group of members 0 and 2, a symmetric heap of 64 KiB at 0x100000. -/
def ctx1 : Ctx :=
  { st := .live, asid := 7, ptroot := 0x1000, fqbase := 0x8000, gmask := 0b101, shbase := 0x100000, shlen := 0x10000, mctab := 0x9000
    prism := true, prismLive := true, groupId := 5 }

/-- The page of 1 GiB that those tables map, as a page register holds it. -/
def page : Trans := ⟨7, 0, 30, 0, 0xB7, 3⟩

/-- A running task of context 1 whose strands may use every stream. -/
def task : Slot :=
  { st := .run, ctx := 1, pages := [(0, page), (2, page), (4, page), (6, page), (8, page), (10, page), (12, page), (14, page), (16, page)]
    h := [], aview := 0xFAC6880004000000#64 }

/-- Strand `z` of slot 0 of cell 0 issues, with s registers as listed; the slot and the cell as `f` and `g` make them. -/
def tk (z : Kind) (r : List (Nat × Nat)) (f : Slot → Slot := id) (g : Cell → Cell := id) : State :=
  { State.reset with
    mem := tables
    ctxs := [(1, ctx1)]
    connected := 0b101
    cells := [(0, g { regs := r.foldl (fun m p => Memory.writeN m (8 * p.1) 8 p.2) [], slots := [(0, f task)] })]
    seq := 11
    cur := { agent := .strand 0 0 z, pc := 0x40000, seq := 9 } }

/-- Conductor 3 issues in context 1, with registers as listed; the conductor as `f` makes it. -/
def cd (r : Tab Word) (f : Cond → Cond := id) : State :=
  { State.reset with
    mem := tables
    ctxs := [(1, ctx1)]
    connected := 0b101
    conds := [(3, f { st := .running, regs := r, ctxid := 0x10007 })]
    seq := 11
    cur := { agent := .cond 3, pc := 0x00FFFF0000000010#64, seq := 9 } }

/-- The address of byte `o` of a conductor's own memories. -/
def own (o : Nat) : Word := BitVec.ofNat 64 (0x00FFFF0000000000 + o)

/-! ## Witnesses: states and operands that meet the hypotheses of each statement -/

theorem witness_IntegerResults :
    AgentOk (tk .W [(3, 5)]).cur.agent = true ∧ AgentOk (cd [(3, 5)]).cur.agent = true ∧ AgentOk (.strand 127 7 .X) = true
    ∧ AgentOk (.cond 15) = true ∧ 63 * 64 / 64 + 63 * 64 % 64 ≤ 63 ∧ 63 / 64 + 63 % 64 ≤ 63 := by decide +kernel

theorem witness_DivisionNeverTraps :
    (AgentOk (cd [(3, 5)]).cur.agent = true ∧ (cd [(3, 5)]).rs 4 = 0)
    ∧ (AgentOk (tk .A [(3, 2 ^ 63), (4, 2 ^ 64 - 1)]).cur.agent = true ∧ (tk .A [(3, 2 ^ 63), (4, 2 ^ 64 - 1)]).rs 3 = BitVec.ofNat 64 (2 ^ 63)
      ∧ (tk .A [(3, 2 ^ 63), (4, 2 ^ 64 - 1)]).rs 4 = BitVec.ofNat 64 (2 ^ 64 - 1))
    ∧ (AgentOk (cd [(3, 0xFFFFFFFFFFFFFFF9#64), (4, 2)]).cur.agent = true ∧ (cd [(3, 0xFFFFFFFFFFFFFFF9#64), (4, 2)]).rs 4 ≠ 0
      ∧ ¬ ((cd [(3, 0xFFFFFFFFFFFFFFF9#64), (4, 2)]).rs 3 = BitVec.ofNat 64 (2 ^ 63)
        ∧ (cd [(3, 0xFFFFFFFFFFFFFFF9#64), (4, 2)]).rs 4 = BitVec.ofNat 64 (2 ^ 64 - 1))) := by decide +kernel

theorem witness_ImmediateResults : AgentOk (tk .S [(63, 1)]).cur.agent = true ∧ AgentOk (cd [(63, 1)]).cur.agent = true := by decide +kernel
theorem witness_FloatResults : AgentOk (tk .X [(3, 0x3F800000)]).cur.agent = true ∧ AgentOk (cd [(3, 0x3F800000)]).cur.agent = true := by decide +kernel
theorem witness_FClassSetsOneBit : AgentOk (tk .W [(3, 0x7FC00000)]).cur.agent = true ∧ AgentOk (cd [(3, 0x7FF0000000000000)]).cur.agent = true := by
  decide +kernel

/-- The word that REP stands before: ADD, which it may repeat, or JMP, which it may not. -/
def before (w : Word) (s : State) : State := { s with cur := { s.cur with next := w } }

theorem witness_ControlFlow :
    AgentOk (tk .S [(3, 5)]).cur.agent = true
    ∧ (AgentOk (cd [(3, 0x40)]).cur.agent = true ∧ ((cd [(3, 0x40)]).rs 3).toNat % 8 = 0)
    ∧ (AgentOk (cd [(3, 0x47)]).cur.agent = true ∧ ((cd [(3, 0x47)]).rs 3).toNat % 8 ≠ 0)
    ∧ ((cd []).rs 3).toNat % 2 ^ 32 = 0 ∧ ((cd [(3, 0xFFFFFFFF)]).rs 3).toNat % 2 ^ 32 ≠ 0
    ∧ ((cd []).lpctl (.cond 3)).toNat < 2 ^ 63
    ∧ 2 ^ 63 ≤ ((cd [] fun y => { y with lpctl := 0x8000000100000002#64 }).lpctl (.cond 3)).toNat
    ∧ 2 ^ 63 ≤ ((tk .A [] fun y => { y with a := { lpctl := 0x8000000800000002#64 } }).lpctl (.strand 0 0 .A)).toNat := by decide +kernel

theorem witness_ControlFlow_rep :
    (opOf 0x00003C0000000000 = 0x3C ∧ opOf 0x00004A0000000000 = 0x4A ∧ opOf 0x0000E20000000000 = 0xE2)
    ∧ (AgentOk (before 0x00000100C4140000#64 (cd [])).cur.agent = true
      ∧ decode .C (before 0x00000100C4140000#64 (cd [])).cur.next.toNat 0 = .ok (⟨0, 0, 0⟩, .add ⟨3, 4, 5, 0, 0⟩)
      ∧ opOf (before 0x00000100C4140000#64 (cd [])).cur.next.toNat = 1
      ∧ ((before 0x00000100C4140000#64 (cd [])).rs 0).toNat % 2 ^ 32 + 0 % 2 ^ 16 = 0
      ∧ 0 < ((before 0x00000100C4140000#64 (cd [])).rs 0).toNat % 2 ^ 32 + 0xFFFF % 2 ^ 16)
    ∧ decode .C 0 0 = .error .opcode
    ∧ (let s := cd [] fun y => { y with repst := 0x8000000000000001#64 }
       let t : State := { s with cur := { s.cur with done := true } }
       t.cur.done = true ∧ 2 ^ 63 ≤ (t.repst (.cond 3)).toNat ∧ (t.repst (.cond 3)).toNat % 2 ^ 33 - 1 = 0)
    ∧ (let s := cd [] fun y => { y with repst := 0x8000000000000002#64 }
       let t : State := { s with cur := { s.cur with done := true } }
       t.cur.done = true ∧ 2 ^ 63 ≤ (t.repst (.cond 3)).toNat ∧ (t.repst (.cond 3)).toNat % 2 ^ 33 - 1 ≠ 0) := by decide +kernel

theorem witness_PlainInstructions : AgentOk (tk .W []).cur.agent = true ∧ AgentOk (cd []).cur.agent = true := by decide +kernel

theorem witness_ScalarAccesses :
    (okB (placeScalar (cd []).dStream 0 (widthOf 3) (own 0x13FFF8) (cd [])) = true)
    ∧ okB (placeScalar (tk .S []).dStream 0 (widthOf 6) 0x2004 (tk .S [])) = true
    ∧ okB (placeScalar (tk .S []).dStream 1 (widthOf 0) 0x3FFFFFFF (tk .S [])) = true
    ∧ okB (placeScalar (tk .A []).dStream 2 (widthOf 3) 0x2008 (tk .A [])) = true
    ∧ okB (placeScalar (tk .W []).dStream 2 8 0x2008 (tk .W [])) = true := by decide +kernel

theorem witness_ScalarAccesses_places :
    (let h := (0x0100000000000000#64).toNat / 2 ^ 56; h ≠ 0 ∧ h ≠ 255)
    ∧ (let h := (0xFE00000000000000#64).toNat / 2 ^ 56; h ≠ 0 ∧ h ≠ 255)
    ∧ (let ea := 0xFF00000000000004#64; (ea.toNat / 2 ^ 56 = 255) ∧ ea.toNat % 8 ≠ 0)
    ∧ ((0x3FFFFFF8#64).toNat / 2 ^ 56 = 0 ∧ (0x3FFFFFF8#64).toNat % 8 = 0 ∧ (tk .S []).cur.agent = .strand 0 0 .S
      ∧ Tab.find (2 * 4) ((tk .S []).slot 0 0).pages = some page ∧ page.asid = ((tk .S []).ctxOf ((tk .S []).slot 0 0).ctx).asid
      ∧ (0x3FFFFFF8#64).toNat / 2 ^ page.sz * 2 ^ page.sz = page.va ∧ bit page.pte 6 = false ∧ bit page.pte 1 = true ∧ bit page.pte 5 = true)
    ∧ ((cd []).cur.agent = .cond 3 ∧ (own 0x13FFF8).toNat % 8 = 0 ∧ 0x00FFFF0000000000 ≤ (own 0x13FFF8).toNat
      ∧ (own 0x13FFF8).toNat < 0x00FFFF0000000000 + 0x140000 ∧ (own 0).toNat % 8 = 0 ∧ 0x00FFFF0000000000 ≤ (own 0).toNat) := by decide +kernel

/-- Lane addresses of a contiguous access of 4-byte elements. -/
def lanes4 (ea : Word) : List Word :=
  let at_ (i : Nat) : Word := ea + BitVec.ofNat 64 (4 * i)
  (((List.range 64).filter fun i => decide ((at_ i).toNat < ea.toNat)) ++ (List.range 64).filter fun i => decide (ea.toNat ≤ (at_ i).toNat)).map at_

/-- Lane addresses of a gather by the low 2 bits of a mask of 3, of 4-byte elements scaled by 4, over a v register of zeros. -/
def lanesG (s : State) (n : Nat) : List Word :=
  ((List.range 64).filter fun i => (s.rs n).getLsbD i).map fun i => s.rs 3 + BitVec.ofInt 64 ((BitVec.ofNat 32 (s.rv 5 / 2 ^ (32 * i))).toInt * 2 ^ 2)

theorem witness_VectorAccesses :
    okB (placeElems (tk .A []).dStream 0 (widthOf 6) (fun _ => 0) (lanes4 0x2000) (tk .A [])) = true
    ∧ okB (placeElems (tk .X []).dStream 1 (widthOf 2) (fun _ => 0) (lanes4 0x3FFFFF00) (tk .X [])) = true
    ∧ okB (placeElems (tk .A [(3, 0x2000), (4, 3)]).dStream 0 (widthOf 2) (fun _ => 0) (lanesG (tk .A [(3, 0x2000), (4, 3)]) 4) (tk .A [(3, 0x2000), (4, 3)])) = true
    ∧ okB (placeElems (tk .A [(3, 0x2000), (4, 3)]).dStream 1 (widthOf 2) (fun _ => 0) (lanesG (tk .A [(3, 0x2000), (4, 3)]) 4) (tk .A [(3, 0x2000), (4, 3)])) = true
    ∧ (2 * 2 ^ 9 + 2 * 2 ^ 7 < 2 ^ 12 ∧ (2 * 2 ^ 9 + 2 * 2 ^ 7) / 2 ^ 9 ≠ 3) := by decide +kernel

/-- The context as `f` makes it. -/
def withCtx (f : Ctx → Ctx) (s : State) : State := { s with ctxs := [(1, f ctx1)] }

theorem witness_MaintenanceAndBarriers :
    (AgentOk (tk .S []).cur.agent = true ∧ canonical 0x2000 = true ∧ okB (place (tk .S []).dStream 0 0x2000 (tk .S [])) = true)
    ∧ ((tk .S [(3, 0xFFFF)]).rs 3).toNat < 2 ^ 16 ∧ 2 ^ 16 ≤ ((tk .S [(3, 0x10000)]).rs 3).toNat
    -- a ticket that has been issued, and one that has not
    ∧ (let s := withCtx (fun x => { x with tickets := 1 }) (tk .S [(3, 0)])
       (s.ctxOf (s.ctxNum s.cur.agent)).tickets ≠ 0
         ∧ ((s.ctxOf (s.ctxNum s.cur.agent)).tickets - 1 - BitVec.ofNat 32 ((s.rs 3).toNat % 2 ^ 32)).toNat < 2 ^ 31)
    ∧ (let s := withCtx (fun x => { x with tickets := 1 }) (tk .S [(3, 1)])
       ¬ ((s.ctxOf (s.ctxNum s.cur.agent)).tickets - 1 - BitVec.ofNat 32 ((s.rs 3).toNat % 2 ^ 32)).toNat < 2 ^ 31)
    -- a cell that is a member of a barrier, and one that is not
    ∧ ((tk .S []).cur.agent = .strand 0 0 .S ∧ bit (((tk .S []).ctxOf ((tk .S []).slot 0 0).ctx).barrier 31).members 0 = true)
    ∧ bit (((withCtx (fun x => { x with barriers := [(31, { members := 2 })] }) (tk .S [])).ctxOf 1).barrier 31).members 0 = false
    -- a set of members that BARM takes, the empty one, and one with a fenced cell
    ∧ (let s := tk .S [(3, 1)]; let m := (s.rs 3).toNat + 2 ^ 64 * (s.rs 4).toNat; m ≠ 0 ∧ m &&& s.err.fencedCells = 0)
    ∧ (tk .S []).rs 3 = 0
    ∧ (let s : State := { tk .S [(3, 1)] with err := { fencedCells := 1 } }; ((s.rs 3).toNat + 2 ^ 64 * (s.rs 4).toNat) &&& s.err.fencedCells ≠ 0) := by
  decide +kernel

theorem witness_MaintenanceAndBarriers_barw :
    let g (n : BitVec 32) (v : BitVec 32) : State := withCtx (fun x => { x with barriers := [(5, { g := n })] }) (tk .A [] fun y => { y with arrg := [(5, v)] })
    let ahead (s : State) := (((s.ctxOf (s.slot 0 0).ctx).barrier 5).g - Tab.get 0 5 (s.slot 0 0).arrg).toNat
    (AgentOk (g 0 0).cur.agent = true ∧ (g 0 0).cur.agent = .strand 0 0 .A)
    ∧ ahead (g 4 3) = 1 ∧ ahead (g 0x80000000 0) = 2 ^ 31 ∧ ahead (g 7 7) = 0 ∧ 2 ^ 31 < ahead (g 0x80000001 0) := by decide +kernel

theorem witness_EngineInstructions :
    (AgentOk (tk .S [(3, 0x2000)]).cur.agent = true ∧ okB (placeRecord 256 ((tk .S [(3, 0x2000)]).rs 3) (tk .S [(3, 0x2000)])) = true)
    ∧ (let s := tk .S [(3, 0x2040), (4, 63)]
       (s.rs 4).toNat < 64 ∧ ((s.dieq ((s.rs 4).toNat / 8 % 8) ((s.rs 4).toNat % 8)).tail - (s.dieq ((s.rs 4).toNat / 8 % 8) ((s.rs 4).toNat % 8)).head).toNat < 32
         ∧ okB (placeRecord 64 (s.rs 3) s) = true)
    ∧ 64 ≤ ((tk .S [(4, 64)]).rs 4).toNat
    ∧ (let s : State := { tk .S [(4, 63)] with dieqs := [(63, { tail := 32 })] }
       (s.rs 4).toNat < 64 ∧ 32 ≤ ((s.dieq 7 7).tail - (s.dieq 7 7).head).toNat)
    ∧ okB (placeScalar (tk .S [(3, 0x2008)]).dStream 0 8 ((tk .S [(3, 0x2008)]).rs 3) (tk .S [(3, 0x2008)])) = true
    ∧ (let s := cd [(3, own 0x100000)]; (s.ctxOf (s.ctxNum s.cur.agent)).colls.length < 16 ∧ okB (placeRecord 64 (s.rs 3) s) = true)
    ∧ (let s := withCtx (fun x => { x with colls := (List.range 16).map fun n => { ticket := n, desc := 0, agent := .cond 3 } }) (cd [])
       16 ≤ (s.ctxOf (s.ctxNum s.cur.agent)).colls.length) := by decide +kernel

theorem witness_TimeTaggedAccesses :
    let lead (s : State) : Int := (s.rs 4 - s.rtOf s.cur.agent).toInt
    let off (s : State) : State := { s with time := { s.time with holdover := true } }
    (let s := tk .S [(3, 0x2000), (4, 16)]
     AgentOk s.cur.agent = true ∧ canonical (s.rs 3) = true ∧ (s.rs 3).toNat % widthOf 3 = 0 ∧ actingScope s.cur.agent 0 = 0
       ∧ s.time.holdover = false ∧ 16 ≤ lead s ∧ okB (place s.dStream 1 (s.rs 3) s) = true ∧ okB (place s.dStream 0 (s.rs 3) s) = true)
    ∧ (actingScope (cd []).cur.agent 0 = 2 ∧ lead (cd [(3, own 0), (4, 799)]) < 800 ∧ 800 ≤ lead (cd [(3, own 0), (4, 800)])
      ∧ okB (place (cd []).dStream 1 (own 0) (cd [])) = true)
    ∧ lead (tk .S [(4, 15)]) < 16 ∧ lead (tk .S [(4, 119)]) < 120 ∧ lead (tk .S [(4, 7999)]) < 8000 ∧ 8000 ≤ lead (tk .S [(4, 8000)])
    ∧ (actingScope (off (tk .S [(3, 0x2000)])).cur.agent 3 = 3 ∧ (off (tk .S [(3, 0x2000)])).time.holdover = true
      ∧ canonical ((off (tk .S [(3, 0x2000)])).rs 3) = true) := by decide +kernel

theorem witness_PeerAccesses_self :
    let s := tk .S [(3, 0x2008)]
    AgentOk s.cur.agent = true ∧ s.peer 0 = s.selfIdx ∧ canonical (s.rs 3) = true ∧ (s.rs 3).toNat % widthOf 3 = 0
      ∧ okB (place s.dStream 0 (s.rs 3) s) = true ∧ okB (place s.dStream 1 (s.rs 3) s) = true ∧ okB (place s.dStream 2 (s.rs 3) s) = true := by
  decide +kernel

theorem witness_PeerAccesses_away :
    let s := tk .S [(3, 0x10FFF8), (4, 8000)] fun y => { y with p := [(1, 2), (2, 1)] }
    let out := tk .S [(3, 0x110000)] fun y => { y with p := [(1, 2)] }
    (AgentOk s.cur.agent = true ∧ s.peer 1 ≠ s.selfIdx ∧ canonical (s.rs 3) = true ∧ inHeap s (s.ctxNum s.cur.agent) (s.rs 3) (widthOf 3) = true
      ∧ (s.rs 3).toNat % widthOf 3 = 0 ∧ memberPresent s (s.ctxNum s.cur.agent) (s.peer 1) = true ∧ s.time.holdover = false
      ∧ 8000 ≤ (s.rs 4 - s.rtOf s.cur.agent).toInt)
    -- a member that the group does not hold, and an address past the heap
    ∧ memberPresent s (s.ctxNum s.cur.agent) (s.peer 2) = false
    ∧ (canonical (out.rs 3) = true ∧ inHeap out (out.ctxNum out.cur.agent) (out.rs 3) (widthOf 3) = false)
    ∧ (s.slot 0 0).st = .run := by decide +kernel

/-- Multicast table of context 1: entry 0 names members 0 and 2, entry 1 member 2 only. -/
def withSets (s : State) : State :=
  { s with mem := Memory.writeN (Memory.writeN s.mem 0x9000 16 (0b101 + 2 ^ 64)) 0x9010 16 (0b100 + 2 ^ 64) }

theorem witness_MulticastAndPrismAccesses :
    let s := withSets (tk .S [(3, 0x100000), (4, 0), (5, 1), (6, 255), (7, 256), (8, 0xFFFF), (9, 0x10000), (10, 0xFFFF8), (11, 0x100000)])
    let entry (j : Nat) := s.memRead ((s.ctxOf (s.ctxNum s.cur.agent)).mctab + 16 * j) 16 0
    let set (j : Nat) := if entry j / 2 ^ 64 = 1 then entry j % 2 ^ 64 else 0
    (AgentOk s.cur.agent = true ∧ canonical (s.rs 3) = true ∧ inHeap s (s.ctxNum s.cur.agent) (s.rs 3) (widthOf 3) = true ∧ (s.rs 3).toNat % widthOf 3 = 0)
    ∧ 256 ≤ (s.rs 7).toNat ∧ (s.rs 6).toNat < 256
    ∧ (∀ j ∈ [4, 5, 6], s.badAt ((s.ctxOf (s.ctxNum s.cur.agent)).mctab + 16 * (s.rs j).toNat) 16 = none) ∧ set (s.rs 6).toNat = 0
    ∧ (let t := { s with err := { s.err with badHbm := [0x9000] } }
       t.badAt ((t.ctxOf (t.ctxNum t.cur.agent)).mctab + 16 * (t.rs 4).toNat) 16 = some 1)
    ∧ (bit (set (s.rs 4).toNat) s.selfIdx = true ∧ okB (place s.dStream 1 (s.rs 3) s) = true)
    ∧ bit (set (s.rs 5).toNat) s.selfIdx = false
    ∧ 2 ^ 16 ≤ (s.rs 9).toNat ∧ (s.rs 8).toNat < 2 ^ 16
    ∧ ((s.rs 10).toNat < 0x100000 ∧ (s.rs 10).toNat % widthOf 3 = 0 ∧ prismMember s (s.ctxNum s.cur.agent) = true)
    ∧ 0x100000 ≤ (s.rs 11).toNat
    ∧ prismMember (withCtx (fun x => { x with prismLive := false }) s) 1 = false := by decide +kernel

/-- A copy command of strand S. -/
def aCopy (id : Nat) (kind : CopyKind) (a b n : Nat) : CopyCmd :=
  { id := id, agent := .strand 0 0 .S, ctx := 1, kind := kind, cls := 0, scope := 1, a := BitVec.ofNat 64 a, b := BitVec.ofNat 64 b, n := n
    dst := .s 0 0 .S 0x40, fpc := 0x40000, word := 0, sha := shaInit }

theorem witness_CopyCommands :
    let s := tk .S [(3, 0x4000), (4, 0x5000), (5, 0x1000), (6, 2 ^ 40 - 1), (7, 2 ^ 40), (8, 0x5001)]
    let n (i : Nat) := (s.rs i).toNat
    (AgentOk s.cur.agent = true ∧ (s.copyQueue s.cur.agent).length < 16 ∧ n 5 < 2 ^ 40 ∧ 0 < n 5 ∧ n 3 + n 5 ≤ n 4)
    ∧ (n 6 < 2 ^ 40 ∧ 0 < n 6) ∧ n 0 = 0 ∧ 2 ^ 40 ≤ n 7
    ∧ ¬ (n 5 = 0 ∨ n 4 + n 5 ≤ n 8 ∨ n 8 + n 5 ≤ n 4)
    ∧ ¬ ((tk .S [] id fun c => { c with copyq := (List.range 16).map fun i => aCopy i .hash 0 0 1 }).copyQueue (.strand 0 0 .S)).length < 16 := by
  decide +kernel

theorem witness_VectorArithmetic : AgentOk (tk .A []).cur.agent = true ∧ AgentOk (tk .X []).cur.agent = true := by decide +kernel

theorem witness_VectorLanesAndReductions :
    let s := tk .A [(3, 64), (4, 2 ^ 64 - 64), (5, 65), (6, 2 ^ 64 - 65), (7, 1)]
    AgentOk s.cur.agent = true ∧ (-64 ≤ (s.rs 3).toInt ∧ (s.rs 3).toInt ≤ 64) ∧ -64 ≤ (s.rs 4).toInt ∧ 64 < (s.rs 5).toInt ∧ (s.rs 6).toInt < -64
      ∧ (1 ≤ (s.rs 7).toInt ∧ 1 ≤ (s.rs 3).toInt) ∧ (s.rs 0).toInt < 1 := by decide +kernel

/-- An entry of a deferral path that was appended in clk 0. -/
def anEntry : DefEntry := ⟨1, 2, 3, 4, 5, 0⟩

/-- Path 2 holds `n` entries of context `ctx`; the clk is 1. -/
def withPath (ctx n : Nat) : State :=
  { tk .X [(3, 3)] id (fun c => { c with defq := [(2, { ctx := ctx, ents := List.replicate n anEntry })] }) with clk := 1 }

theorem witness_DeferralQueue :
    let path (s : State) : DefPath := Tab.get {} 2 (s.cell 0).defq
    let ready (s : State) := if (path s).ctx = (s.slot 0 0).ctx then ((path s).ents.filter fun e => decide (e.clk < s.clk)).length else 0
    let picked (s : State) := (List.range 64).filter (bit (lanesOf s 3))
    (AgentOk (withPath 1 4).cur.agent = true ∧ (withPath 1 4).cur.agent = .strand 0 0 .X)
    ∧ ((path (withPath 1 510)).ctx = ((withPath 1 510).slot 0 0).ctx ∧ (path (withPath 1 510)).ents.length + (picked (withPath 1 510)).length ≤ 512)
    ∧ 512 < (path (withPath 1 511)).ents.length + (picked (withPath 1 511)).length
    ∧ ¬ ((path (withPath 2 4)).ents = [] ∨ (path (withPath 2 4)).ctx = ((withPath 2 4).slot 0 0).ctx)
    ∧ 64 ≤ ready (withPath 1 64) ∧ ready (withPath 1 63) < 64 ∧ bit 4 2 = true ∧ bit 3 2 = false := by decide +kernel

theorem witness_SystemRegisters :
    (AgentOk (tk .W []).cur.agent = true ∧ (tk .W []).cur.agent = .strand 0 0 .W) ∧ (AgentOk (cd []).cur.agent = true ∧ (cd []).cur.agent = .cond 3)
    ∧ syswRefused (cd [(3, 64)]) 0x011 ((cd [(3, 64)]).rs 3) = true ∧ syswRefused (cd [(3, 63)]) 0x01F ((cd [(3, 63)]).rs 3) = false
    ∧ (⟨.strand 0 0 .W, 0x008, 2⟩ : SysWrite).agent = .strand 0 0 .W ∧ (⟨.cond 3, 0x103, 2⟩ : SysWrite).agent = .cond 3
    ∧ (0x011 ≤ 0x011 ∧ 0x01F ≤ 0x01F) := by decide +kernel

theorem witness_TimeAndEvents :
    (AgentOk (tk .S []).cur.agent = true ∧ ((tk .S []).slot 0 0).preReq = none)
    ∧ (let s : State := { tk .S [] (fun y => { y with preReq := some 0, preClk := 3 }) with clk := 4 }
       (s.slot 0 0).preReq ≠ none ∧ (s.slot 0 0).preClk < s.clk)
    ∧ (let s : State := { tk .S [] (fun y => { y with preReq := some 0, preClk := 4 }) with clk := 4 }; s.clk ≤ (s.slot 0 0).preClk)
    ∧ (let s := tk .S [] fun y => { y with s := { nbt := 1 } }; eventsOf s s.cur.agent &&& 1 % 64 = 0)
    ∧ (let s := cd [] fun y => { y with doorbell := true }; eventsOf s s.cur.agent &&& 0x44 % 64 ≠ 0 ∧ s.cur.agent = .cond 3) := by decide +kernel

/-- Conductor 3 with ERCTL naming slot 0 of cell 0 in context 1 with action `act`; the task there as `f` makes it. -/
def returns (act : Nat) (f : Slot → Slot) : State :=
  { cd [] (fun y => { y with ercl := BitVec.ofNat 64 (act * 2 ^ 62 + 2 ^ 32) }) with cells := [(0, { slots := [(0, f task)] })] }

/-- A task frozen by a fault, precise or not. -/
def frozen (precise killOnly : Bool) (y : Slot) : Slot :=
  { y with st := .frozen, frozenBy := some .fault, lastFault := some ⟨precise, .S, 0x08, 4, killOnly, 0x40000, 1⟩ }

theorem witness_TrapsAndReturns :
    let named (s : State) : Bool :=
      let v := (s.condOf 3).ercl.toNat
      let y := s.slot (v / 2 ^ 8 % 2 ^ 7) (v % 8)
      y.st == .frozen && y.ctx == v / 2 ^ 32 % 2 ^ 6 && v / 2 ^ 62 != 3
    AgentOk (tk .S []).cur.agent = true
    ∧ (AgentOk (returns 0 (frozen true false)).cur.agent = true ∧ (returns 0 (frozen true false)).cur.agent = .cond 3
      ∧ named (returns 0 (frozen true false)) = true ∧ ((returns 0 (frozen true false)).slot 0 0).lock = false)
    ∧ named (returns 2 (frozen true false)) = true ∧ named (returns 3 (frozen true false)) = false ∧ named (returns 1 id) = false
    ∧ named (returns 0 (frozen false true)) = true ∧ named (returns 0 fun y => { y with st := .frozen, frozenBy := some .forced }) = true := by
  decide +kernel

theorem witness_TakingAFault :
    (Kind.S ≠ .C ∧ Kind.W ≠ .C ∧ ((tk .S []).slot 0 0).lock = false ∧ ((tk .S []).slot 0 0).st = .run)
    ∧ (cd []).host.evtail - (cd []).host.evhead ≠ (cd []).host.evsize := by decide +kernel

/-- A record of context 1 with id 6 whose positions have all been handed out. -/
def aRec : Rec := { id := 6, ctx := 1, launch := 1, addr := 0x6000, raw := 0, cmask := 0b11, total := 8, nextBlock := 8, handed := 8, live := 1 }

theorem witness_TaskResumedOrKilled :
    let s : State := { tk .S [] (fun y => { frozen true false y with recId := 6, s := { slate := [⟨4, true, 0x40, 8, 1, 7, 2⟩] } }) with recs := [aRec] }
    (∃ e ∈ (s.slot 0 0).s.slate, e.r = 2) ∧ aRec ∈ s.recs ∧ aRec.id = (s.slot 0 0).recId ∧ (s.recs.filter fun q => q.id == (s.slot 0 0).recId) = [aRec] := by
  decide +kernel


theorem witness_ControlFlow_nan :
    let h := (FmtX.dec 0x0000C604BCC03004).ha
    let at_ (ty : Nat) : State := before 0x0000C604BCC03004#64 (tk .S [] fun y => { y with h := [(h, BitVec.ofNat 512 (ty * 2 ^ 80))] })
    opOf 0x0000C604BCC03004 = 0xC6 ∧ AgentOk (at_ 4).cur.agent = true ∧ nanRefused (at_ 4) (at_ 4).cur.agent 0x0000C604BCC03004 = true
      ∧ nanRefused (at_ 3) (at_ 3).cur.agent 0x0000C604BCC03004 = false := by decide +kernel

theorem witness_PlainInstructions_line :
    let s := tk .S [(3, 0x3FFFFF00)]
    AgentOk s.cur.agent = true ∧ s.cur.agent = .strand 0 0 .S ∧ Tab.find (2 * dataStream .S) (s.slot 0 0).pages = some page
      ∧ page.asid = (s.ctxOf (s.slot 0 0).ctx).asid ∧ (s.rs 3).toNat / 2 ^ page.sz * 2 ^ page.sz = page.va := by decide +kernel

theorem witness_PeerAccesses_timed :
    let lead (s : State) : Int := (s.rs 4 - s.rtOf s.cur.agent).toInt
    let home (t : Nat) : State := tk .S [(3, 0x2008), (4, t)]
    let off : State := { home 8000 with time := { (home 8000).time with holdover := true } }
    (AgentOk (home 16).cur.agent = true ∧ (home 16).peer 0 = (home 16).selfIdx ∧ canonical ((home 16).rs 3) = true
      ∧ ((home 16).rs 3).toNat % widthOf 3 = 0 ∧ actingScope (home 16).cur.agent 0 = 0 ∧ (home 16).time.holdover = false ∧ 16 ≤ lead (home 16)
      ∧ okB (place (home 16).dStream 1 ((home 16).rs 3) (home 16)) = true ∧ okB (place (home 16).dStream 0 ((home 16).rs 3) (home 16)) = true)
    ∧ lead (home 15) < 16 ∧ lead (home 119) < 120 ∧ lead (home 799) < 800 ∧ lead (home 7999) < 8000
    ∧ actingScope off.cur.agent 3 = 3 ∧ off.time.holdover = true
    -- the address of an atomic, outside the heap and of a member that has left
    ∧ (let s := tk .S [(3, 0x110000)] fun y => { y with p := [(1, 2), (2, 1)] }
       s.peer 1 ≠ s.selfIdx ∧ canonical (s.rs 3) = true ∧ inHeap s (s.ctxNum s.cur.agent) (s.rs 3) (widthOf 2) = false)
    ∧ (let s := tk .S [(3, 0x10FFF8)] fun y => { y with p := [(1, 2), (2, 1)] }
       s.peer 2 ≠ s.selfIdx ∧ canonical (s.rs 3) = true ∧ inHeap s (s.ctxNum s.cur.agent) (s.rs 3) (widthOf 3) = true
         ∧ (s.rs 3).toNat % widthOf 3 = 0 ∧ memberPresent s (s.ctxNum s.cur.agent) (s.peer 2) = false) := by decide +kernel

/-- What f32 bits stand for. -/
def f32 (v : Nat) (p : Q → Bool) : Bool :=
  match decodeF .f32 v with
  | .fin q => p q
  | _ => false

theorem witness_VectorArithmetic_transcendentals :
    (decodeF .f32 0x7FC00000).isNan = true
    -- the least number, the last below 2 ^ -128 and the first above, 1, 2 and 3
    ∧ f32 1 (fun q => q.abs.lt (Q.pow2 1 (-128))) = true ∧ f32 0x001FFFFF (fun q => q.abs.lt (Q.pow2 1 (-128))) = true
    ∧ f32 0x00200001 (fun q => (Q.pow2 1 (-128)).lt q.abs) = true
    ∧ f32 0x40400000 (fun q => ((Q.ofInt 1).div q).abs.lt (Q.pow2 1 128) && ((Q.ofInt 1).div (sqrtQ q)).abs.lt (Q.pow2 1 128)) = true
    ∧ f32 0xBF800000 (fun q => decide (q.num < 0) && decide (q.abs.num * (Q.pow2 1 0).den = (Q.pow2 1 0).num * q.abs.den)) = true
    ∧ f32 0x40800000 (fun q => decide (q.num * (Q.pow2 1 2).den = (Q.pow2 1 2).num * q.den)) = true
    -- the ends of the range of the exponential
    ∧ f32 0x43000000 (fun q => (Q.ofInt 128).le q) = true ∧ f32 0xC3160001 (fun q => q.lt (Q.ofInt (-150))) = true
    ∧ f32 0xC3160000 (fun q => (Q.ofInt (-150)).le q && q.lt (Q.ofInt 128)) = true
    ∧ f32 0xC3150000 (fun q => decide (q.num = -149 * q.den)) = true
    -- the logarithm near 1, the sine at 65,536, the hyperbolic tangent either side of 9.1
    ∧ f32 0x3F800001 (fun q => (Q.pow2 1 (-1)).le q && q.le (Q.ofInt 2) && (log2Q q).abs.lt (Q.pow2 1 128)) = true
    ∧ f32 0x47800000 (fun q => q.abs.le (Q.ofInt 65536)) = true
    ∧ f32 0x3F800000 (fun q => (sinQ q).abs.le (Q.ofInt 1) && (tanhQ q).abs.le (Q.ofInt 1)) = true
    ∧ f32 0x4111999A (fun q => (⟨91, 10⟩ : Q).le q.abs) = true ∧ f32 0x41119999 (fun q => q.abs.lt ⟨91, 10⟩) = true := by decide +kernel

theorem witness_DeferralQueue_foreign :
    let path (s : State) : DefPath := Tab.get {} 2 (s.cell 0).defq
    let picked (s : State) := (List.range 64).filter (bit (lanesOf s 3))
    (AgentOk (withPath 2 510).cur.agent = true ∧ (path (withPath 2 510)).ents.length + (picked (withPath 2 510)).length ≤ 512
      ∧ ¬ ((path (withPath 2 510)).ents = [] ∨ (path (withPath 2 510)).ctx = ((withPath 2 510).slot 0 0).ctx))
    ∧ 512 < (path (withPath 2 511)).ents.length + (picked (withPath 2 511)).length := by decide +kernel

theorem witness_TaskResumedOrKilled_slates :
    let f (z : Strand) : Strand := { z with slate := [⟨4, true, 0x40, 8, 1, 7, 2⟩], gate := 9, divFree := 30 }
    let s := tk .S [] fun y => { frozen true false y with a := f y.a, x := f y.x, w := f y.w }
    (∀ z ∈ [Kind.A, .X, .W], z ≠ .C ∧ ∃ e ∈ (s.strand 0 0 z).slate, e.r = 2 ∧ e.len = 8) := by decide +kernel

theorem witness_TrapsAndReturns_rows :
    let s : State := { returns 0 (frozen true false) with
      clk := 5, cells := [(0, { slots := [(0, frozen true false task)], rows := [{ seq := 3, slot := 0, k := .W, start := 4, kind := .aclr 2 }] })] }
    (∃ o ∈ (s.cell 0).rows, o.slot = 0) ∧ s.clk + 1 ≤ restartClk s 0 0 := by decide +kernel

/-! ### Tiles -/

/-- A tensor of 2 × 2 tiles of 16 × 256 elements of 8 bits (R171): format `etype`, version scope `vscope`, `more` for further fields. -/
def desc (etype vscope more : Nat) : BitVec 512 :=
  BitVec.ofNat 512 (0x10000 + 3 * 2 ^ 64 + etype * 2 ^ 80 + vscope * 2 ^ 92 + 16 * 2 ^ 128 + 256 * 2 ^ 144 + 2 ^ 160 + 2 ^ 176 + 32 * 2 ^ 192
    + 512 * 2 ^ 224 + 512 * 2 ^ 256 + more)

/-- Its tile (0, 0) for context 1, and an entry of it with every granule full. -/
def tile : TileKey := ⟨1, 3, 0⟩
def entry (id : Nat) (st : LensState) : Entry :=
  { id := id, ctx := 1, tid := 3, coord := 0, desc := desc 9 1 0, st := st, full := 2 ^ 256 - 1 }

/-- A format T instruction on handle 2 and coordinate register 1, with `sx`, `hint` and `sub`. -/
def ft (sx hint sub : Nat) : FmtT := { h := 2, co := 1, k := 0, sw := 0, sx := sx, vx := 1, hint := hint, sub := sub }

/-- A task whose handle 2 holds that tensor, with entries `l` in its cell and operations `ops` at its Lens. -/
def tl (z : Kind) (r : List (Nat × Nat)) (l : List Entry) (ops : List LensOp) : State :=
  tk z r (fun y => { y with h := [(2, desc 9 1 0)] }) fun c => { c with lens := l, ops := ops }

/-- A command of strand A of slot 0. -/
def op (seq : Nat) (cmd : LensCmd) (st : CmdSt) : LensOp :=
  { seq := seq, slot := 0, k := .A, fpc := 0x40000, word := 0, lit := 0, cmd := cmd, st := st, issued := 0, inst := seq }

/-- A replay queue that is full (R177). -/
def fullQ : List LensOp := (List.range 64).map fun i => op i (.fill 1000) .parked

def room (s : State) : Bool := decide ((((s.cell 0).ops.filter fun o => o.st == .parked).map (·.inst)).eraseDups.length + 1 ≤ 64)

theorem witness_TileNames :
    Tab.find 2 ((tk .A []).slot 0 0).h = none
    ∧ ((tl .A [] [] []).cur.agent = .strand 0 0 .A ∧ Tab.find 2 ((tl .A [] [] []).slot 0 0).h = some (desc 9 1 0) ∧ tileRef (ft 0 0 0) (tl .A [] [] []) = .ok (desc 9 1 0, 0))
    -- the last tile along each dimension lies inside, the next one outside
    ∧ okB (tileAt 2 1 0x0000000000010001#64 (tl .S [] [] [])) = true ∧ okB (tileAt 2 1 0x0000000000000002#64 (tl .S [] [] [])) = false
    ∧ okB (tileAt 2 1 0x0000000000020000#64 (tl .S [] [] [])) = false ∧ okB (tileAt 2 1 0x0001000000000000#64 (tl .S [] [] [])) = false
    ∧ Desc.nt0 (desc 9 1 0) = 2 ∧ Desc.nt1 (desc 9 1 0) = 2 := by decide +kernel

theorem witness_TileNames_handles :
    (AgentOk (tk .S [(4, 0x2040)]).cur.agent = true ∧ canonical ((tk .S [(4, 0x2040)]).rs 4) = true ∧ ((tk .S [(4, 0x2040)]).rs 4).toNat % 64 = 0
      ∧ (∃ l t, place 4 0 ((tk .S [(4, 0x2040)]).rs 4) (tk .S [(4, 0x2040)]) = .ok (.mem l 0, t)))
    ∧ (canonical ((tk .S [(4, 0x2041)]).rs 4) = true ∧ ((tk .S [(4, 0x2041)]).rs 4).toNat % 64 ≠ 0) :=
  ⟨⟨by decide +kernel, by decide +kernel, by decide +kernel, 0x2040, _, rfl⟩, by decide +kernel⟩

/-- A task before an itinerary whose header holds `n` positions and the distance `far` (R184). -/
def itinerary (h : Nat) : State :=
  let s := tl .A [(4, 0x20000)] [] []
  { s with mem := Memory.writeN s.mem 0x20000 8 h }

theorem witness_TileNames_itinerary :
    let good (h : Nat) : Bool := match placeScalar 5 0 8 ((itinerary h).rs 4) (itinerary h) with
      | .ok (l, s1) =>
        let w := locRead s1 l 8
        decide (w < 2 ^ 24 ∧ 1 ≤ w / 2 ^ 16 % 2 ^ 8 ∧ w / 2 ^ 16 % 2 ^ 8 ≤ 64)
          && match l with | .mem pa _ => s1.badAt pa 8 == none | _ => true
      | .error _ => false
    good 0x10004 = true ∧ good 0x400000 = true ∧ good 0x410001 = false ∧ good 0x000001 = false ∧ good 0x1000000 = false := by decide +kernel

theorem witness_TileFillsAndPublication :
    let found (s : State) (want : Option Nat) := ((s.cell 0).current tile).filter fun e => e.bindable && e.meets want (verRec s tile).pub
    let s := tl .A [(4, 5)] [entry 40 .clean] []
    (AgentOk s.cur.agent = true ∧ s.cur.agent = .strand 0 0 .A ∧ okB (tileRef (ft 4 0 1) s) = true)
    ∧ (room s = true ∧ found s none = some (entry 40 .clean) ∧ pinFull (s.slot 0 0) 1 (some 40) = false)
    ∧ (found s (some 5) = none ∧ pinFull (s.slot 0 0) 0 none = false)
    ∧ room (tl .A [] [] fullQ) = false
    ∧ pinFull ((tk .A [] fun y => { y with pins := (List.range 16).map fun i => (i, i + 100) }).slot 0 0) 1 (some 40) = true
    ∧ (match allocTry (tl .A [] [] []) 0 tile (desc 9 1 0) with | .ok _ _ _ => true | _ => false) = true
    -- an allocation whose version is current already, and one whose version is not
    ∧ ((s.cell 0).current tile = some (entry 40 .clean) ∧ (entry 40 .clean).resolved = true ∧ (entry 40 .clean).ver = ((s.rs 0).toNat % 2 ^ 24))
    ∧ ((s.cell 0).current tile).all (fun e => !(e.resolved && e.ver == (s.rs 4).toNat % 2 ^ 24)) = true := by decide +kernel

/-- An entry that its task produces, and one whose data come from memory. -/
def produced (id : Nat) (st : LensState) : Entry := { entry id st with produced := true, ver := 7 }

theorem witness_TileFillsAndPublication_publication :
    let open_ (s : State) := ((s.cell 0).current tile).filter fun e => e.produced && !e.published && e.st != .draining
    let s := tl .A [] [produced 40 .producing] []
    (AgentOk s.cur.agent = true ∧ okB (tileRef (ft 0 0 0) s) = true ∧ room s = true ∧ open_ s = some (produced 40 .producing)
      ∧ pinFull (s.slot 0 0) 1 (some 40) = false)
    ∧ open_ (tl .A [] [entry 40 .clean] []) = none ∧ ((tl .A [] [] []).cell 0).current tile = none
    ∧ room (tl .A [] [] fullQ) = false
    ∧ Desc.sq (desc 9 1 (2 ^ 95)) = true ∧ Desc.sq (desc 9 1 0) = false
    ∧ (s.cell 0).bound 40 = false ∧ ((tl .A [] [entry 40 .clean] [op 3 (.fill 40) .active]).cell 0).bound 40 = true := by decide +kernel

theorem witness_TileRegistersAndRows :
    let s := tl .A [(4, 4096 - 256), (5, 4096 - 240), (6, 8)] [entry 40 .clean] []
    (AgentOk s.cur.agent = true ∧ okB (tileRef (ft 4 0 0) s) = true ∧ room s = true ∧ ((s.rs 4).toNat % 16 = 0 ∧ (s.rs 4).toNat + 256 ≤ Desc.tileBytes (desc 9 1 0))
      ∧ (s.cell 0).current tile = some (entry 40 .clean) ∧ (∀ i < 16, (entry 40 .clean).isFull ((s.rs 4).toNat / 16 + i) = true)
      ∧ s.err.badLens.contains (0, 40) = false ∧ (entry 40 .clean).here = true ∧ (entry 40 .waiting).here = false)
    ∧ ¬ (∀ i < 16, ({ entry 40 .filling with full := 2 ^ 15 - 1 } : Entry).isFull (0 + i) = true)
    ∧ ((tl .A [] [] []).cell 0).current tile = none
    ∧ Desc.tileBytes (desc 9 1 0) < (s.rs 5).toNat + 256 ∧ (s.rs 6).toNat % 16 ≠ 0
    ∧ room (tl .A [] [] fullQ) = false
    ∧ (produced 40 .producing).here = true ∧ (produced 40 .spilled).here = false := by decide +kernel

theorem witness_TileRegistersAndRows_rows :
    let s := tl .A [(4, 0x20000)] [produced 40 .producing] []
    let rows := (List.range 16).map fun r => (r, s.rs 4 + BitVec.ofNat 64 0)
    (AgentOk s.cur.agent = true ∧ okB (tileRef (ft 4 0 0) s) = true ∧ room s = true ∧ Desc.tr (desc 9 1 0) ≤ 64 ∧ s.rv 1 = 0
      ∧ okB (checkRows 5 4 (desc 9 1 0) rows s) = true ∧ okB (checkRows 6 5 (desc 9 1 0) rows s) = true)
    ∧ 64 < Desc.tr (desc 9 1 (112 * 2 ^ 128)) ∧ 64 = Desc.tr (desc 9 1 (48 * 2 ^ 128)) := by decide +kernel

/-- A format X instruction on handles 2 and 2, coordinate registers 1 and 1, shape register 0. -/
def fx (ad ab mode sub : Nat) : FmtX := { ad := ad, ab := ab, ha := 2, ca := 1, hb := 2, cb := 1, k := 0, sw := 0, types := 8, mode := mode, sub := sub }

/-- A matrix shape of 16 × 16 with 32 elements from element 0. -/
def shape : Word := BitVec.ofNat 64 (16 + 16 * 2 ^ 16 + 32 * 2 ^ 32)

/-- A matrix operation on accumulator 1. -/
def mma1 (seq : Nat) : LensOp :=
  op seq (.mma { eidA := 40, eidB := 40, accD := 65536, accB := 65536, types := 8, mode := 2, mmas := false, m := 16, n := 16, klen := 32, koff := 0
                 fullA := 2 ^ 256 - 1, fullB := 2 ^ 256 - 1, snapA := [], snapB := [], after := none }) .parked

theorem witness_MatrixOperations :
    let s := tl .X [] [entry 40 .clean] []
    let sl := s.slot 0 0
    let busy (s : State) (x : FmtX) := accBusy (s.cell 0) s.clk [accOff (s.slot 0 0) x.ad, if x.mode = 2 then accOff (s.slot 0 0) x.ab else none]
    let bound := mmaCheck sl (fx 3 2 2 0) false shape
    (AgentOk s.cur.agent = true ∧ s.cur.agent = .strand 0 0 .X ∧ busy s (fx 3 2 2 0) = false ∧ okB bound = true ∧ room s = true)
    -- scales where there are none, 129 rows, an accumulator outside the view, a handle that holds nothing
    ∧ mmaCheck sl (fx 3 2 2 0) true shape = .error (0x01, 7) ∧ mmaCheck sl (fx 3 2 0 0) false (BitVec.ofNat 64 (129 + 16 * 2 ^ 16 + 32 * 2 ^ 32)) = .error (0x01, 7)
    ∧ okB (mmaCheck sl (fx 4 2 0 0) false shape) = false ∧ Tab.find 2 ((tk .X []).slot 0 0).h = none
    ∧ room (tl .X [] [] fullQ) = false ∧ busy (tl .X [] [] [mma1 3]) (fx 1 2 2 0) = true
    -- a TFILLM with its follow-on
    ∧ (okB (tileRef (ft 0 0 1) s) = true ∧ roomForBoth sl s.cur.hdr.sb 0 .X = true ∧ pinFull sl 0 none = false) := by decide +kernel

/-- A task whose handle 2 holds the tensor of `desc 9` and whose coordinate register 1 holds `co`; and a shape. -/
def limits (co : Word) : Slot := { task with h := [(2, desc 9 1 0)], c := [(1, co)] }
def limShape (m n k o : Nat) : Word := BitVec.ofNat 64 (m + n * 2 ^ 16 + k * 2 ^ 32 + o * 2 ^ 48)

/-- Tile (0, 0) lies inside, (2, 0) and (0, 2) outside; the shapes meet the limits of 16 rows of 256 elements, or pass one by a step. -/
theorem witness_MatrixOperations_limits :
    (0 < Desc.nt0 (desc 9 1 0) ∧ 0 < Desc.nt1 (desc 9 1 0) ∧ 0 < Desc.e2 (desc 9 1 0) ∧ 0 < Desc.e3 (desc 9 1 0)
      ∧ ¬ 2 < Desc.nt0 (desc 9 1 0) ∧ ¬ 2 < Desc.nt1 (desc 9 1 0))
    ∧ mmaCheck (limits 2) (fx 3 2 2 0) false shape = .error (0x12, 0) ∧ mmaCheck (limits 0x20000) (fx 3 2 2 0) false shape = .error (0x12, 0)
    ∧ (accOff (limits 0) 3 = some (3 * 65536) ∧ accOff (limits 0) 2 = some (2 * 65536) ∧ accOff (limits 0) 4 = none)
    ∧ (Desc.skdir (desc 9 1 0) = 0 ∧ Desc.tr (desc 9 1 0) = 16 ∧ Desc.tc (desc 9 1 0) = 256 ∧ Desc.etype (desc 9 1 0) = 9 ∧ Desc.smode (desc 9 1 0) = 0)
    ∧ okB (mmaCheck (limits 0) (fx 3 2 2 0) false (limShape 16 16 32 224)) = true
    ∧ okB (mmaCheck (limits 0) (fx 3 2 2 0) false (limShape 1 1 256 0)) = true := by decide +kernel

theorem witness_MatrixOperations_past :
    mmaCheck (limits 0) (fx 3 2 2 0) false (limShape 17 16 32 0) = .error (0x01, 7)
    ∧ mmaCheck (limits 0) (fx 3 2 2 0) false (limShape 16 17 32 0) = .error (0x01, 7)
    ∧ mmaCheck (limits 0) (fx 3 2 2 0) false (limShape 0 16 32 0) = .error (0x01, 7)
    ∧ mmaCheck (limits 0) (fx 3 2 2 0) false (limShape 16 16 0 0) = .error (0x01, 7)
    ∧ mmaCheck (limits 0) (fx 3 2 2 0) false (limShape 16 16 16 0) = .error (0x01, 7)
    ∧ mmaCheck (limits 0) (fx 3 2 2 0) false (limShape 16 16 64 224) = .error (0x01, 7)
    ∧ mmaCheck (limits 0) { fx 3 2 2 0 with types := 9 } false shape = .error (0x01, 7) := by decide +kernel

/-- A scaled tensor of format E4M3 in blocks of 32, for MMAS. -/
theorem witness_MatrixOperations_scaled :
    okB (mmaCheck { task with h := [(2, desc 3 1 (2 ^ 89))] } { fx 3 2 0 0 with types := 2 } true shape) = true := by decide +kernel

theorem witness_Accumulators :
    let s := tl .X [] [produced 40 .producing] []
    let free (s : State) (l : List Nat) := accBusy (s.cell 0) s.clk (l.map some)
    (AgentOk s.cur.agent = true ∧ s.cur.agent = .strand 0 0 .X)
    ∧ (accOff (s.slot 0 0) 3 = some (3 * 65536) ∧ accOff (s.slot 0 0) 1 = some 65536 ∧ free s [3 * 65536, 65536] = false)
    ∧ accOff (s.slot 0 0) 4 = none ∧ free (tl .X [] [] [mma1 3]) [65536] = true
    ∧ (Tab.find 2 (s.slot 0 0).h = some (desc 9 1 0) ∧ coordOk (desc 9 1 0) (Tab.get 0 1 (s.slot 0 0).c) = true
      ∧ ((s.cell 0).current ⟨(s.slot 0 0).ctx, Desc.tid (desc 9 1 0), Tab.get 0 1 (s.slot 0 0).c⟩).filter (fun e => e.produced && !e.published && e.st != .draining)
          = some (produced 40 .producing)
      ∧ room s = true ∧ (1 ≤ 16 ∧ 16 ≤ Desc.tr (desc 9 1 0) ∧ 128 ≤ Desc.tc (desc 9 1 0)) ∧ Desc.smode (desc 9 1 0) = 0 ∧ bit 0 2 = false
      ∧ (produced 40 .producing).here = true ∧ (produced 40 .spilled).here = false) := by decide +kernel

/-- The tensor of `desc 9` with the shape m × n in register 0 of strand X, and entry 40 as `e` lists it. -/
def drainTask (etype : Nat) (co : Word) (m n : Nat) (e : List Entry) : State :=
  tk .X [] (fun y => { y with
    h := [(2, desc etype 1 0)], c := [(1, co)], x := { y.x with k := [(0, BitVec.ofNat 64 (m + n * 2 ^ 16))] } }) fun c => { c with lens := e }

theorem witness_Accumulators_drain :
    let f (s : State) : Nat := (Tab.get 0 0 (s.strand 0 0 .X).k).toNat
    let d (s : State) : Desc := (Tab.find 2 (s.slot 0 0).h).getD 0
    let fits (s : State) : Bool := decide (1 ≤ f s % 2 ^ 16 ∧ f s % 2 ^ 16 ≤ 128 ∧ 1 ≤ f s / 2 ^ 16 % 2 ^ 16 ∧ f s / 2 ^ 16 % 2 ^ 16 ≤ 128
      ∧ f s % 2 ^ 16 ≤ Desc.tr (d s) ∧ f s / 2 ^ 16 % 2 ^ 16 ≤ Desc.tc (d s) ∧ (Desc.smode (d s) = 0 ∨ Desc.skdir (d s) = 0))
    let open_ (s : State) := ((s.cell 0).current ⟨1, Desc.tid (d s), 0⟩).filter fun e => e.produced && !e.published && e.st != .draining
    let s := drainTask 9 0 16 128 [produced 40 .producing]
    (AgentOk s.cur.agent = true ∧ s.cur.agent = .strand 0 0 .X ∧ room s = true ∧ accBusy (s.cell 0) s.clk [accOff (s.slot 0 0) 3] = false
      ∧ (Tab.find 2 (s.slot 0 0).h).isSome = true ∧ coordOk (d s) 0 = true ∧ accOff (s.slot 0 0) 3 ≠ none ∧ fits s = true)
    ∧ (bit 4 2 = true ∧ Desc.etype (d s) ≠ 3) ∧ Desc.etype (d (drainTask 3 0 1 1 [])) = 3
    ∧ coordOk (d s) (Tab.get 0 1 ((drainTask 9 2 16 128 []).slot 0 0).c) = false
    ∧ fits (drainTask 9 0 17 128 []) = false ∧ fits (drainTask 9 0 0 128 []) = false ∧ fits (drainTask 9 0 16 129 []) = false
    ∧ accOff (s.slot 0 0) 4 = none ∧ Tab.find 3 (s.slot 0 0).h = none
    ∧ open_ (drainTask 9 0 16 128 []) = none ∧ open_ (drainTask 9 0 16 128 [produced 40 .draining]) = none := by decide +kernel

theorem witness_TileRegistersAndRows_taken :
    let w : LensWrite := { seq := 3, slot := 0, k := .A, eid := 40, due := 0, parts := (List.range 16).map fun i => (240 + 16 * i, 0, 0), empties := true }
    let s := tk .A [(4, 0)] (fun y => { y with h := [(2, desc 9 1 0)] }) fun c => { c with lens := [entry 40 .clean], lensWr := [w] }
    (s.cell 0).current tile = some (entry 40 .clean) ∧ room s = true ∧ (1 % 2 = 1 ∧ ∃ w ∈ (s.cell 0).lensWr,
      w.empties = true ∧ w.eid = (entry 40 .clean).id ∧ ∃ p ∈ w.parts, overlap 0 256 p.1 16 = true) := by decide +kernel

theorem witness_TileRegistersAndRows_left_out :
    let s := tk .A [] (fun y => { y with h := [(2, desc 9 1 0)] }) fun c => { c with
      lens := [produced 40 .producing], regs := Memory.writeN [] (vOff task .A 1) 4 0xFFFFFFFF }
    s.rv 1 % 2 ^ 32 = 2 ^ 32 - 1 ∧ s.rv 1 / 2 ^ 32 % 2 ^ 32 ≠ 2 ^ 32 - 1 := by decide +kernel

/-! ### Accesses, engines, copies -/

/-- An access of strand S of slot 0 of cell 0 to one 8-byte element at `pa`. -/
def acc (id : Nat) (kind : AccKind) (pa : Nat) : Acc :=
  { id := id, agent := .strand 0 0 .S, ctx := 1, kind := kind, cls := 0, scope := 1, fpc := 0x40000
    elems := [{ loc := .mem pa 0, va := BitVec.ofNat 64 pa, lane := 0, data := 0x55 }] }
def elem (pa : Nat) : Elem := { loc := .mem pa 0, va := BitVec.ofNat 64 pa, lane := 0, data := 0x55 }

/-- Whether the request of an access has arrived at the home of `pa`. -/
def arrivedB (s : State) (a : Acc) (pa : Nat) : Bool :=
  pa / 2 ^ 36 % 8 == (agentDie a.agent).getD 8 || bit s.err.fencedDies (pa / 2 ^ 36 % 8) || a.arrived.contains (pa / 2 ^ 36 % 8)

/-- A state in which accesses `l` are in flight. -/
def fl (l : List Acc) : State := { tk .S [] with accs := l }

theorem witness_StoresPerform :
    let s := fl [acc 4 .store 0x2008]
    (Memory.wf s.mem = true ∧ (s.keyTag.map Prod.fst).Pairwise (· < ·))
    ∧ (s.landing = false ∧ s.acc 4 = some (acc 4 .store 0x2008) ∧ mayPerform s (acc 4 .store 0x2008) = true)
    ∧ ((acc 4 .store 0x2008).elems = [elem 0x2008] ∧ (elem 0x2008).loc = .mem 0x2008 0 ∧ (elem 0x2008).nib = none ∧ (acc 4 .store 0x2008).size ≤ 6)
    ∧ s.badPart 0x2008 (widthOf 3) = none
    -- a home on the own die, one that a packet has reached, one on a fenced die
    ∧ arrivedB s (acc 4 .store 0x2008) 0x2008 = true ∧ arrivedB s { acc 4 .store (2 ^ 36) with arrived := [1] } (2 ^ 36) = true
    ∧ arrivedB { s with err := { fencedDies := 2 } } (acc 4 .store (2 ^ 36)) (2 ^ 36) = true := by decide +kernel

theorem witness_LoadsAndAtomicsPerform :
    let may (s : State) (a : Acc) : Bool := !s.landing && s.acc a.id == some a && mayPerform s a
    let a := acc 4 .load 0x2008
    let b := acc 4 .load (2 ^ 36)
    let sector (filled : Word) : RdcSector := { die := 0, ctx := 1, pa := 2 ^ 36, key := 0, bytes := 7, filled := filled }
    let far : State := withCtx (fun x => { x with rdcsz := 1 }) { fl [b] with rdc := [sector 0] }
    (may (fl [a]) a = true ∧ a.dst = .none ∧ (fl [a]).badAt 0x2008 8 = none ∧ arrivedB (fl [a]) a 0x2008 = true ∧ (elem 0x2008).got = none)
    ∧ (may far b = true ∧ b.byp = false ∧ 2 ^ 36 / 2 ^ 36 ≠ 0 / 16 ∧ (far.ctxOf 1).rdcsz / 256 ^ 0 % 256 ≠ 0
      ∧ (b.rt - (sector 0).filled).toInt ≤ 4000 ∧ (({ b with rt := 4000 } : Acc).rt - (sector 0).filled).toInt ≤ 4000
      ∧ far.rdc.find? (fun r => r.die == 0 && r.ctx == 1 && r.pa == 2 ^ 36 / 64 * 64 && r.key == 0 && decide ((b.rt - r.filled).toInt ≤ 4000)) = some (sector 0))
    ∧ (({ fl [a] with err := { badHbm := [0x2000] } } : State).badAt 0x2008 8 = some 1) := by decide +kernel

theorem witness_LoadsAndAtomicsPerform_atomics :
    let may (s : State) (a : Acc) : Bool := !s.landing && s.acc a.id == some a && mayPerform s a
    let c (x : Word) : Acc := { acc 4 .cas 0x1000 with x := x, d := 9 }
    let old := (fl []).memRead 0x1000 8 0
    arrivedB (fl []) (acc 4 (.amo 0) 0x2008) 0x2008 = true ∧ may (fl [acc 4 (.amo 0) 0x2008]) (acc 4 (.amo 0) 0x2008) = true ∧ may (fl [acc 4 (.amo 9) 0x2008]) (acc 4 (.amo 9) 0x2008) = true
    ∧ (may (fl [c 0x2001]) (c 0x2001) = true ∧ old = (c 0x2001).x.toNat % 2 ^ 64) ∧ old ≠ (c 0).x.toNat % 2 ^ 64
    ∧ (fl [c 0]).badAt 0x1000 8 = none := by decide +kernel

theorem witness_LocalOrderHolds :
    let a := acc 4 .store 0x2008
    let b := acc 6 .load 0x3000
    let s := fl [a, b]
    (s.acc 6 = some b ∧ a ∈ s.accs ∧ a.agent = b.agent ∧ a.id < b.id ∧ a.orphan = false ∧ b.kind = .load)
    ∧ (a.kind.classed = true ∧ a.cls = b.cls)
    ∧ ({ acc 4 .load 0x2008 with cls := 1, acq := true } : Acc).acq = true ∧ ({ acc 6 .store 0x3000 with cls := 1, rel := true } : Acc).rel = true := by
  decide +kernel

theorem witness_TimeTaggedEvents :
    let may (s : State) (a : Acc) : Bool := !s.landing && s.acc a.id == some a && mayPerform s a
    let at_ (rt : Word) (s : State) : State := { s with time := { s.time with rt := rt } }
    let a := acc 4 (.stat 800) 0x2008
    let l := acc 4 (.ldnb 800) 0x2008
    let now (s : State) := (s.time.rt + BitVec.ofInt 64 (Tab.get 0 (0x2008 / 2 ^ 36) s.time.skews)).toNat
    let h : Held := { id := 4, agent := some (.strand 0 0 .S), ctx := 1, elems := [elem 0x2008], size := 3, t := 800, die := 0 }
    (may (at_ 800 (fl [a])) a = true ∧ (at_ 800 (fl [a])).badPart 0x2008 8 = none ∧ now (at_ 800 (fl [a])) = 800 ∧ 0x2008 / 2 ^ 36 < 8)
    ∧ 800 < now (at_ 801 (fl [a]))
    ∧ arrivedB (at_ 800 (fl [a])) a 0x2008 = true
    ∧ (let s : State := { at_ 800 (fl [a]) with held := [h] }
       s.held.find? (fun g => g.id == 4) = some h ∧ h.t.toNat ≤ now s ∧ (∀ g ∈ s.held, g.die = 0 → h.t.toNat ≤ g.t.toNat) ∧ ∀ g ∈ s.held, g.t = h.t → g = h)
    ∧ (may (at_ 800 (fl [l])) l = true ∧ l.sent = false ∧ (800#64).toNat ≤ ((at_ 800 (fl [l])).rtOf l.agent).toNat)
    ∧ ((at_ 799 (fl [l])).rtOf l.agent).toNat < (800#64).toNat
    ∧ (let q : LateStore := ⟨4, .strand 0 0 .S, 1, 0x40000, 0x2008, false⟩
       let s : State := { fl [] with late := [q] }
       s.late.find? (fun q => q.id == 4) = some q ∧ q.orphan = false ∧ ({ q with orphan := true } : LateStore).orphan = true
         ∧ bit (s.ctxOf 1).latectl.toNat 0 = false ∧ bit ((withCtx (fun x => { x with latectl := 1 }) s).ctxOf 1).latectl.toNat 0 = true) := by
  decide +kernel

theorem witness_SemaphoresAndBarriers :
    let a (t : Word) := acc 4 (.semw t) 0x1000
    let v (s : State) : Word := BitVec.ofNat 64 (s.memRead 0x1000 8 0)
    let b (arr : Tab Nat) (p : Option (Nat × Nat)) : State := withCtx (fun x => { x with barriers := [(2, { members := 3, quota := 2, arr := arr, pending := p })] }) (fl [])
    let bar (s : State) := (s.ctxOf 1).barrier 2
    let working (s : State) := (List.range 128).filter fun c => bit (bar s).members c && !bit s.err.fencedCells c
    let arrived (s : State) (c : Nat) := Tab.get 0 c (bar s).arr
    ((fl [a 0x2001]).landing = false ∧ (fl [a 0x2001]).acc 4 = some (a 0x2001) ∧ mayPerform (fl [a 0x2001]) (a 0x2001) = true ∧ (a 0).size = 3
      ∧ arrivedB (fl [a 0x2001]) (a 0x2001) 0x1000 = true
      ∧ (fl []).badAt 0x1000 8 = none ∧ 0 ≤ (v (fl []) - 0x2001).toInt ∧ (v (fl []) - 0x2002).toInt < 0)
    ∧ (working (b [(0, 2), (1, 3)] none) = [0, 1] ∧ (∀ c ∈ working (b [(0, 2), (1, 3)] none), 2 ≤ arrived (b [(0, 2), (1, 3)] none) c)
      ∧ (bar (b [(0, 2), (1, 3)] none)).pending = none ∧ (bar (b [(0, 2), (1, 3)] (some (1, 1)))).pending = some (1, 1))
    ∧ (1 ∈ working (b [(0, 2), (1, 1)] none) ∧ arrived (b [(0, 2), (1, 1)] none) 1 < 2) := by decide +kernel

theorem witness_PeerRequestsAndAnswers_answers :
    let p (kind : AccKind) : Acc := { acc 4 kind 0 with elems := [{ loc := .peer 2 0x100000, va := 0x100000, lane := 0, data := 0x55 }], sent := true }
    let s (kind : AccKind) := fl [p kind]
    ((s .store).landing = false ∧ (s .store).acc 4 = some (p .store) ∧ (p .store).sent = true ∧ (p .store).elems.head?.map (·.loc) = some (.peer 2 0x100000))
    ∧ (p .load).orphan = false
    ∧ (let m : Acc := { p (.mcst 0b101 0b101) with x := 0b101 }; m.x.toNat ||| 0b101 = m.x.toNat ∧ m.elems ≠ [])
    ∧ (let m : Acc := { p (.mcst 0b101 0b001) with x := 0b101 }; m.x.toNat ||| 0b101 = m.x.toNat ∧ 0b001 ≠ 0b101) := by decide +kernel

theorem witness_PeerRequestsAndAnswers :
    let s := fl []
    let found (g : Nat) := s.ctxs.find? fun q => q.2.st == .live && q.2.gmask != 0 && q.2.groupId == g
    (s.landing = false ∧ s.susp = .none) ∧ found 6 = none ∧ (found 5 = some (1, ctx1) ∧ bit ctx1.gmask 1 = false ∧ bit ctx1.gmask 2 = true)
    ∧ (translateHub 1 0x100000 0 true s).1 = .hit page ∧ (translateHub 1 0x100000 1 true s).1 = .hit page ∧ (translateHub 1 0x100000 2 true s).1 = .hit page
    ∧ s.badAt (page.pa + 0x100000 % 2 ^ page.sz) 8 = none ∧ s.badPart (page.pa + 0x100000 % 2 ^ page.sz) 8 = none := by decide +kernel

/-- A state in which cell 0 has one copy command. -/
def cp (q : CopyCmd) : State := tk .S [] id fun c => { c with copyq := [q] }

theorem witness_CopyPieces :
    let head (q : CopyCmd) : Bool := (siteQueue (cp q) 0).head? == some q && !q.stopped && q.out.isNone && q.buf.isNone && copyMay (cp q) q false
    let src (q : CopyCmd) := copyPlaces q.mover q.ctx 6 (pageRuns (q.b + BitVec.ofNat 64 q.off) (min 256 (q.n - q.off))) (cp q)
    let dst (q : CopyCmd) (kind : Nat) := copyPlaces q.mover q.ctx kind (pageRuns (q.a + BitVec.ofNat 64 q.off) (min 256 (q.n - q.off))) (src q).2
    let bytes (q : CopyCmd) := match (src q).1 with | .ok l => readPlaces (dst q 6).2 l | .error _ => []
    let there (q : CopyCmd) := match (dst q 6).1 with | .ok l => readPlaces (dst q 6).2 l | .error _ => []
    let c (kind : CopyKind) (n off : Nat) : CopyCmd := { aCopy 4 kind 0x4000 0x5000 n with off := off }
    (head (c .copy 300 0) = true ∧ okB (src (c .copy 300 0)).1 = true ∧ okB (dst (c .copy 300 0) 7).1 = true ∧ ((cp (c .copy 300 0)).slot 0 0).st ≠ .frozen
      ∧ badPlaces (cp (c .copy 300 0)).badAt [] = none ∧ copyMay (dst (c .copy 300 0) 7).2 (c .copy 300 0) true = true ∧ 0 + min 256 (300 - 0) ≠ 300)
    -- a fence that holds the writes of the command back but not its reads
    ∧ (let q := c .copy 300 0
       let s : State := { cp q with accs := [acc 2 (.fence 2 0xFFFF) 0] }
       copyMay s q false = true ∧ copyMay s q true = false)
    ∧ (head (c .copyFp 300 256) = true ∧ okB (src (c .copyFp 300 256)).1 = true ∧ 256 + min 256 (300 - 256) = 300)
    ∧ (head (c .hash 16 0) = true ∧ okB (src (c .hash 16 0)).1 = true)
    ∧ (head (c .cmp 16 0) = true ∧ bytes (c .cmp 16 0) = there (c .cmp 16 0) ∧ (bytes (c .cmp 16 0)).length = 16)
    -- a comparison with a difference in its first byte: the tables at 0x1000 against zeros
    ∧ (let q := aCopy 4 .cmp 0x4000 0x1000 16
       (there q)[0]? ≠ (bytes q)[0]? ∧ 0 < (there q).length ∧ 0 < (bytes q).length) := by decide +kernel

theorem witness_ResultsLand :
    let w : RegWrite := { seq := 4, slot := 0, k := .S, engine := false, interlock := true, slate := true, due := 3, off := 0x40, len := 8, mask := 1, val := 7 }
    let s : State := { tk .S [(3, 1)] id (fun c => { c with wr := [w] }) with landing := true, clk := 3 }
    s.landing = true ∧ Memory.wf (s.cell 0).regs = true ∧ (s.cell 0).wr = [w] ∧ w.due ≤ s.clk ∧ w.resumed = false ∧ w.len = 8 := by decide +kernel

theorem witness_FaultsAfterIssue :
    let rep (k : Nat) : Report := { agent := .strand 0 0 .S, kind := k, code := 0x08, fpc := 0x40000, addr := 0, aux := 0, aux2 := 0 }
    let f : FaultRec := ⟨1, 8, 0, 1, 0, 0, 0, false, 1, 7, 0, 0x40000, 0x40000, 0, 0, 0⟩
    let held (tail : BitVec 32) : State := withCtx (fun x => { x with held := [f], fqtail := tail }) (tk .S [])
    (({ tk .S [] with reports := [rep 2, rep 1] } : State).reports = [rep 2] ++ rep 1 :: [] ∧ [rep 2].length = 1 ∧ (rep 1).kind = 1 ∧ ((tk .S []).slot 0 0).st ≠ .free
      ∧ ((cd []).condOf 3).st = .running)
    ∧ (rep 2).kind = 2
    ∧ (((held 511).ctxOf 1).held = f :: [] ∧ ((held 511).ctxOf 1).st ≠ .absent ∧ ((held 511).ctxOf 1).blocked = false
      ∧ (((held 511).ctxOf 1).fqtail - ((held 511).ctxOf 1).fqhead).toNat < 512 ∧ (translateHub 1 (0x8000 + 64 * 511) 1 false (held 511)).1 = .hit page
      ∧ (held 511).badPart (0x8000 + 64 * 511) 64 = none)
    ∧ 512 ≤ (((held 512).ctxOf 1).fqtail - ((held 512).ctxOf 1).fqhead).toNat
    ∧ (let s := tk .S [] fun y => { y with st := .ending }; (s.slot 0 0).st = .ending ∧ (s.slot 0 0).freezing = none ∧ taskBusy s 0 0 = false)
    ∧ ((tk .S []).slot 0 0).st ≠ .ending := by decide +kernel

/-- Whether access `a` may perform, and its request has arrived. -/
def mayB (s : State) (a : Acc) : Bool := !s.landing && s.acc a.id == some a && mayPerform s a && a.peerOf.isNone && travelled s a .home

/-- An element of `data` at `pa`, of lane `lane`, the half `nib` of its byte. -/
def el (pa lane data : Nat) (nib : Option Bool) : Elem :=
  { loc := .mem pa 0, va := BitVec.ofNat 64 pa, lane := lane, data := data, nib := nib }

theorem witness_StoresPerform_vectors :
    let a : Acc := { acc 4 .vstore 0x2008 with size := 2, elems := [el 0x2008 0 1 none, el 0x200A 1 2 none] }
    let n : Acc := { acc 4 .vstore 0x2008 with size := 0, elems := [el 0x2008 0 1 (some false), el 0x2008 1 2 (some true)] }
    let bad : State := { fl [a] with err := { badHbm := [0x2000] } }
    (Memory.wf (fl [a]).mem = true ∧ ((fl [a]).keyTag.map Prod.fst).Pairwise (· < ·))
    ∧ (mayB (fl [a]) a = true ∧ (∀ e ∈ a.elems, ∃ pa ∈ [0x2008, 0x200A], e.loc = .mem pa 0 ∧ arrivedB (fl [a]) a pa = true)
      ∧ accBadPart (fl [a]) a = none ∧ ∀ pa ∈ [0x2008, 0x200A], (fl [a]).badAt pa 4 = none)
    ∧ (mayB (fl [n]) n = true ∧ accBadPart (fl [n]) n = none) ∧ (mayB bad a = true ∧ (accBadPart bad a).isSome = true ∧ a.orphan = false)
    ∧ ((fl [a]).ctxOf a.ctx).unsettled = [] := by decide +kernel

theorem witness_LoadsAndAtomicsPerform_vectors :
    let a : Acc := { acc 4 .vload 0x1000 with size := 2, dst := .v 0 0 0x4000, elems := [el 0x1000 0 0 none, el 0x1004 1 0 none] }
    let bad : State := { fl [a] with err := { badHbm := [0x1000] } }
    (mayB (fl [a]) a = true ∧ a.kind = .vload ∧ a.size ≤ 6 ∧ a.size ≠ 3 ∧ a.dst = .v 0 0 0x4000 ∧ ((fl [a]).ctxOf a.ctx).unsettled = [])
    ∧ (∀ e ∈ a.elems, e.got = none ∧ ∃ pa ∈ [0x1000, 0x1004], e.loc = .mem pa 0 ∧ arrivedB (fl [a]) a pa = true ∧ (fl [a]).badAt pa 4 = none)
    ∧ (mayB bad a = true ∧ bad.badAt 0x1000 4 = some 1) := by decide +kernel

theorem witness_LocalOrderHolds_kinds :
    let ok (a b : Acc) : Bool := (fl [a, b]).acc 6 == some b && (fl [a, b]).accs.contains a && a.agent == b.agent && decide (a.id < b.id) && !a.orphan
    let f (a : Acc) (cls : Nat) : Acc := { a with cls := cls }
    let st := acc 4 .store 0x2008
    -- a fence behind what it orders and before it, a multicast store, a time-tagged store and an atomic in a class
    (ok st (acc 6 (.fence 0 1) 0) = true ∧ bit 1 st.cls = true)
    ∧ (ok (acc 4 (.fence 2 1) 0) (acc 6 .store 0x3000) = true ∧ ok (acc 4 (.fence 1 1) 0) (acc 6 .load 0x3000) = true)
    ∧ ok st (acc 6 (.mcst 1 0) 0x3000) = true ∧ ok st (acc 6 (.stat 9) 0x3000) = true ∧ ok st (acc 6 (.amo 0) 0x3000) = true
    -- a BST behind a store of the group that its mask names, a BLD behind a Prism operation, an IFLUSH behind a store
    ∧ (let s := f { st with scope := 3 } 2; let b := { f (acc 6 (.bst 5) 0) 1 with rel := true }
       ok s b = true ∧ bit 5 s.cls = true ∧ s.cls ≠ b.cls)
    ∧ ok (acc 4 (.bst 1) 0) (f (acc 6 .bld 0) 3) = true ∧ ok st (acc 6 .iflush 0) = true
    -- two Prism operations of different classes, the earlier of them not in the order yet; a BAMO that releases
    ∧ (ok (acc 4 (.bst 1) 0) (f (acc 6 (.bamo 0) 0) 1) = true ∧ (acc 4 (.bst 1) 0).sent = false)
    ∧ (let b := { f (acc 6 (.bamo 0) 0) 1 with rel := true }; ok st b = true ∧ b.rel = true ∧ st.cls ≠ b.cls) := by decide +kernel

theorem witness_SemaphoresAndBarriers_operations :
    let a (kind : AccKind) (elems : List Elem) : Acc := { acc 4 kind 0x2008 with elems := elems, arrived := [1, 8] }
    let ok (kind : AccKind) (elems : List Elem) : Bool := mayB (fl [a kind elems]) (a kind elems)
    let words (n : Nat) : List Elem := (List.range n).map fun i => el (0x20000 + 8 * i) i 0 none
    let arrived (arr : Tab Nat) : State := withCtx (fun x => { x with barriers := [(2, { members := 3, quota := 2, arr := arr })] }) (fl [])
    (ok (.bara 2) [] = true ∧ (a (.bara 2) []).agent = .strand 0 0 .S ∧ (a (.bara 2) []).orphan = false)
    ∧ (ok (.barm 2 5 1) [] = true ∧ (∀ q ∈ (((arrived [(0, 0)]).ctxOf 1).barrier 2).arr, q.2 = 0) ∧ ∃ q ∈ (((arrived [(0, 1)]).ctxOf 1).barrier 2).arr, q.2 ≠ 0)
    ∧ ok (.cinv 0) [el 0x2008 0 0 none] = true ∧ ok (.cinv 1) [] = true ∧ ok (.cinv 2) [] = true
    ∧ (ok (.fence 0 1) [] = true ∧ (a (.fence 0 1) []).scope = 1) ∧ (let f : Acc := { a (.fence 1 1) [] with scope := 2 }; mayB (fl [f]) f = true ∧ 2 ≤ f.scope)
    ∧ ok .iflush [] = true
    ∧ (let q := a (.qpush 9) (words 8)
       let s (n : Nat) : State := withCtx (fun x => { x with qbind := 2 * 256 }) { fl [q] with dieqs := [(9, { tail := BitVec.ofNat 32 n })] }
       mayB (s 31) q = true ∧ accBad (s 31) q = none ∧ bit (s 31).err.fencedDies 1 = false ∧ bit (((s 31).ctxOf 1).qbind / 256 ^ 1 % 256) 1 = true
         ∧ ((s 31).dieq 1 1).count < 32 ∧ 32 ≤ ((s 32).dieq 1 1).count)
    ∧ (let q := a .coll (words 8)
       let bad : State := { fl [q] with err := { badHbm := [0x20000] } }
       mayB (fl [q]) q = true ∧ ((fl [q]).ctxOf 1).openColls < 16 ∧ accBad (fl [q]) q = none ∧ collValid (fl [q]) 1 0 = false ∧ mayB bad q = true
         ∧ accBad bad q ≠ none)
    ∧ (let q := a (.collw 3) []
       let s := withCtx (fun x => { x with colls := [{ ticket := 3, desc := 0, agent := .strand 0 0 .S }] }) (fl [q])
       mayB (fl [q]) q = true ∧ ((fl [q]).ctxOf 1).colls = [] ∧ mayB s q = true ∧ ∃ y ∈ (s.ctxOf 1).colls, y.ticket = 3)
    ∧ (let q := a .bld [{ loc := .prism 64, va := 64, lane := 0, data := 0 }]
       mayB (fl [q]) q = true ∧ ((fl [q]).ctxOf 1).prism = true ∧ ((fl [q]).ctxOf 1).prismLive = true ∧ (fl [q]).prism.copying = false ∧ q.size ≤ 6)
    ∧ (let q := a (.thnd 2) (words 8)
       let good : State := { fl [q] with mem := Memory.writeN tables 0x20000 64 (desc 9 1 0).toNat }
       mayB good q = true ∧ accBad good q = none ∧ Desc.valid (BitVec.ofNat 512 (good.memRead 0x20000 64 0)) = true
         ∧ Desc.valid (BitVec.ofNat 512 ((fl [q]).memRead 0x20000 64 0)) = false) := by decide +kernel

theorem witness_PeerRequestsAndAnswers_stat :
    let s : State := { fl [] with time := { (fl []).time with rt := 800 } }
    (s.dieRt ((page.pa + 0x100000) / 2 ^ 36)).toNat = 800 ∧ (799#64).toNat < 800 ∧ 800 ≤ (800#64).toNat
      ∧ s.ctxs.find? (fun q => q.2.st == .live && q.2.gmask != 0 && q.2.groupId == 5) = some (1, ctx1)
      ∧ (translateHub 1 0x100000 1 true s).1 = .hit page ∧ s.susp = .none ∧ s.landing = false := by decide +kernel

/-! ### The Lens and the array -/

/-- A tensor of one row of 16 bytes in one tile. -/
def small (more : Nat) : BitVec 512 :=
  BitVec.ofNat 512 (0x10000 + 3 * 2 ^ 64 + 9 * 2 ^ 80 + 2 ^ 92 + 16 * 2 ^ 128 + 256 * 2 ^ 144 + 2 ^ 160 + 2 ^ 176 + 2 ^ 192
    + 16 * 2 ^ 224 + 512 * 2 ^ 256 + more)

/-- Sixteen entries that fill the set of the tile; entry 100 is produced, may be spilled and is not pinned. -/
def ways : List Entry :=
  { entry 100 .producing with desc := small (2 ^ 94), tid := 4, way := 16 * lensSet 0 3 0 0, produced := true }
    :: (List.range 15).map fun i => { entry (101 + i) .clean with tid := 5 + i, way := 16 * lensSet 0 3 0 0 + 1 + i }

/-- An allocation of the tile that waits, with entry 40 as the tile's entry. -/
def waits : LensOp := op 10 (.alloc 40 tile (desc 9 1 0) false none 0 0) .parked

/-- A cell with entries `l`, operations `ops` and slot 0 pinning `pins`. -/
def ls (l : List Entry) (ops : List LensOp) (pins : List Nat) : State :=
  tk .A [] (fun y => { y with h := [(2, desc 9 1 0)], pins := (List.range pins.length).zip pins }) fun c => { c with lens := l, ops := ops }

theorem witness_LensAllocations :
    let s := ls [entry 40 .waiting] [waits] []
    let full := ls (entry 40 .waiting :: ways) [{ waits with pinnedFor := 10000 }] ((List.range 16).map (100 + ·))
    let big : List Entry := (List.range 32).map fun i => { entry (200 + i) .clean with desc := desc 9 1 (7 * 2 ^ 84), tid := 50 + i, way := (16 * lensSet 0 3 0 0 + 16 + i) % 4096 }
    let noRoom := ls (entry 40 .waiting :: big) [{ waits with pinnedFor := 10000 }] []
    ((s.cell 0).entry 40 = some (entry 40 .waiting) ∧ Tab.get 0 0 (s.cell 0).handClk ≠ s.clk + 1 ∧ firstOp (allocReady s 0) (s.cell 0).ops = some waits
      ∧ (match allocTry s 0 tile (desc 9 1 0) with | .ok _ _ _ => true | _ => false) = true)
    ∧ (waits.st = .parked ∧ waits.reported = false ∧ waits.pinnedFor < 10000)
    ∧ allocTry full 0 tile (desc 9 1 0) = .noWay (lensSet 0 3 0 0) ∧ allocTry noRoom 0 tile (desc 9 1 0) = .noFrames (lensSet 0 3 0 0)
    ∧ (let t : State := { noRoom with landing := true }; framesWanted t 0 = true)
    ∧ (let t : State := { s.updCell 0 (fun c => { c with scanLeft := 4096, scanPtr := 8 }) with landing := true }
       t.landing = true ∧ (t.cell 0).scanLeft ≠ 0 ∧ framesWanted t 0 = false) := by decide +kernel

theorem witness_LensEntriesAndFills_scan :
    let big : List Entry := (List.range 32).map fun i => { entry (200 + i) .clean with desc := desc 9 1 (7 * 2 ^ 84), tid := 50 + i, way := 2000 + i }
    let s : State := { (ls (entry 40 .waiting :: big) [waits] []).updCell 0 (fun c => { c with scanLeft := 4096, scanPtr := 4092 }) with landing := true }
    framesWanted s 0 = true ∧ ∀ i < 4, (s.cell 0).occupant (((s.cell 0).scanPtr + i) % 4096) = none := by decide +kernel

theorem witness_LensSpills :
    let s := ls (entry 40 .waiting :: ways) [waits] ((List.range 15).map (101 + ·))
    let e := ways.headD (entry 0 .clean)
    let away : Entry := { e with st := .spilled, data := [] }
    let cmd : LensOp := op 10 (.tst 100 0 7) .parked
    let r := ls [away] [cmd] []
    let seats (s : State) (e : Entry) : Bool := match seatTry s 0 e with | .ok _ _ _ => true | _ => false
    ((s.cell 0).entry 100 = some e ∧ Tab.get 0 0 (s.cell 0).handClk ≠ s.clk + 1 ∧ firstOp (allocReady s 0) (s.cell 0).ops = some waits
      ∧ allocTry s 0 tile (desc 9 1 0) = .spill 100 ∧ okB (writeEntry 0 (.strand 0 e.slot .S) e [] s).1 = true)
    ∧ ((r.cell 0).entry 100 = some away ∧ Tab.get 0 1 (r.cell 0).handClk ≠ r.clk + 1 ∧ drainNext r 0 = some cmd ∧ drainReady r 0 cmd = false
      ∧ readBackOf r 0 cmd = some away ∧ seats r away = true ∧ away.frameless = false
      ∧ okB (readBack (spillBy 0 away r) 100 e.desc e.coord (granulesOf e.desc) (updEntry 0 100 (fun g => { g with st := .producing }) r)).1 = true)
    -- one that has been published since, which an MMA waits for
    ∧ (let g : Entry := { e with st := .clean, data := [], published := true, frameless := true }
       let o : LensOp := { mma1 10 with cmd := match (mma1 10).cmd with | .mma m => .mma { m with eidA := 100, eidB := 100 } | q => q }
       let t := ls [g] [o] []
       (t.cell 0).entry 100 = some g ∧ drainNext t 0 = some o ∧ drainReady t 0 o = false ∧ readBackOf t 0 o = some g ∧ seats t g = true
         ∧ readBackOf t 0 o ≠ some (entry 40 .clean)) := by
  decide +kernel

/-- An entry that is filled. -/
def filling (src : FillSrc) (resolved : Bool) (want : Option Nat) : Entry :=
  { entry 40 .filling with full := 0, src := src, resolved := resolved, want := want, ver := 7 }

theorem witness_LensEntriesAndFills :
    let rec_ (f : VerRec → VerRec) (s : State) : State := withCtx (fun x => { x with vsrec := 1, vers := [f { tile := tile, stack := 0, pub := 7 }] }) s
    let s := rec_ id (ls [filling .waiting false (some 7)] [] [])
    let e := filling .waiting false (some 7)
    let held : Entry := { entry 60 .clean with ver := 7 }
    let holds := rec_ id { ls [e] [] [] with
      cells := [(0, { slots := [(0, task)], lens := [e] }), (1, { lens := [held] })], dirs := [⟨tile, 0x10000, [⟨0, 1, 60, 7⟩]⟩] }
    let away := rec_ (fun r => { r with src := 2 }) (ls [{ e with desc := desc 9 3 0 }] [] [])
    let stopped (s : State) := (s.cell 0).ops.any fun o => o.reported && o.cmd.binds.contains 40
    let holder (s : State) (scope : Nat) := holderFor s tile scope (some 7) (some 0) (0, 40)
    ((s.cell 0).entry 40 = some e ∧ e.st = .filling ∧ e.src = .waiting ∧ stopped s = false ∧ e.resolved = false ∧ verGe (verRec s tile).pub 7 = true)
    ∧ (holder holds 1 = some ⟨0, 1, 60, 7⟩ ∧ okB (homePa (fillBy 0 e s) e.key e.desc 4 s).1 = true)
    ∧ (holder s 1 = none ∧ (verRec s tile).src = s.selfIdx ∧ (verRec s tile).draining = false
      ∧ (verRec (rec_ (fun r => { r with draining := true }) s) tile).draining = true)
    ∧ (holder away 3 = none ∧ (verRec away tile).src ≠ away.selfIdx ∧ Desc.vscope (desc 9 3 0) = 3 ∧ away.mirHold = false ∧ away.susp = .none
      ∧ verMeets (some 7) 7 7 = true ∧ (filling .member false (some 7)).src = .member)
    ∧ (let t := rec_ id { holds with cells := [(0, { lens := [filling (.asked 1 60) false none] }), (1, { lens := [held] })] }
       (t.cell 0).entry 40 = some (filling (.asked 1 60) false none) ∧ (t.cell 1).entry 60 = some held ∧ held.ver = (filling (.asked 1 60) false none).ver
         ∧ held.frameless = false ∧ (t.cell 1).entry 61 = none)
    ∧ (let f := filling (.lens [] []) true none
       let t := ls [f] [] []
       t.landing = false ∧ Tab.get 0 3 (t.cell 0).handClk ≠ t.clk + 1 ∧ f.st = .filling ∧ f.resolved = true ∧ 255 < Desc.tileBytes f.desc / 16
         ∧ Desc.tsize f.desc ≤ 4 ∧ f.hasLanded 255 = false ∧ (t.cell 0).lensWr = []) := by decide +kernel

/-- A drain of entry 40, the entry and the tile's record as given. -/
def drains (st : CmdSt) (e : Entry) (f : VerRec → VerRec) : State :=
  withCtx (fun x => { x with vsrec := 1, vers := [f { tile := tile, stack := 0, pub := 6 }] }) (ls [e] [op 10 (.drain 40 0) st] [])

theorem witness_TileVersions_drains :
    let s := drains .active (produced 40 .producing) id
    let e := produced 40 .producing
    ((s.cell 0).opBy 10 isDrain = some (op 10 (.drain 40 0) .active) ∧ (s.cell 0).entry 40 = some e ∧ (op 10 (.drain 40 0) .active).reported = false
      ∧ (verRec s e.key).draining = false ∧ Desc.sq e.desc = false)
    ∧ (verNewer e.ver (verRec s e.key).pub = true ∧ (∀ q ∈ s.fillReads, q.tile ≠ e.key)
      ∧ okB (homePa (drainFor 0 (.strand 0 0 .A) e.ctx) e.key e.desc 5 s).1 = true ∧ storeRoom s e.key 0 = true ∧ e.st ≠ .spilled)
    ∧ verNewer e.ver (verRec (drains .active e fun r => { r with pub := 7 }) e.key).pub = false
    ∧ (∃ q ∈ ({ s with fillReads := [⟨tile, 3, 9⟩] } : State).fillReads, q.tile = e.key)
    ∧ storeRoom (withCtx (fun x => { x with vsrec := 0 }) s) e.key 0 = false
    ∧ (let t := drains .granted e fun r => { r with draining := true }
       earlierDone t 0 (op 10 (.drain 40 0) .granted) = true)
    ∧ (let g : Entry := { e with desc := small 0 }
       okB (writeEntry 0 (.strand 0 0 .A) g [] (drains .granted g fun r => { r with draining := true })).1 = true)
    ∧ (produced 40 .spilled).st = .spilled := by decide +kernel

theorem witness_TileVersions_posts :
    let posts (cmd : LensCmd) : State := withCtx (fun x => { x with vsrec := 1, vers := [{ tile := tile, stack := 0, pub := 6, rel := 6 }] }) (ls [] [op 10 cmd .active] [])
    let isPost (m : LensCmd) : Bool := match m with | .tpost _ _ _ => true | _ => false
    let isRel (m : LensCmd) : Bool := match m with | .tqrel _ _ _ => true | _ => false
    let s := posts (.tpost tile (desc 9 1 0) 7)
    let q := posts (.tqrel tile (desc 9 1 (2 ^ 95)) 7)
    (findOp s 10 isPost = some (0, op 10 (.tpost tile (desc 9 1 0) 7) .active) ∧ earlierDone s 0 (op 10 (.tpost tile (desc 9 1 0) 7) .active) = true
      ∧ okB (homePa { cell := 0, slot := 0, ctx := 1, stream := 5 } tile (desc 9 1 0) 5 s).1 = true ∧ storeRoom s tile 0 = true ∧ verNewer 7 (verRec s tile).pub = true)
    ∧ verNewer 6 (verRec s tile).pub = false
    ∧ (findOp q 10 isRel = some (0, op 10 (.tqrel tile (desc 9 1 (2 ^ 95)) 7) .active) ∧ okB (homePa { cell := 0, slot := 0, ctx := 1, stream := 5 } tile (desc 9 1 (2 ^ 95)) 4 q).1 = true
      ∧ verNewer 7 (verRec q tile).rel = true ∧ verNewer 6 (verRec q tile).rel = false)
    ∧ ((s.ctxs.find? fun y => y.2.st == .live && y.2.gmask != 0 && y.2.groupId == 5).isSome = true
      ∧ ((s.ctxOf 1).vers.any fun w => w.tile == tile) = true)
    -- a tile that has no record, at the home that its address names
    ∧ (((ls [] [] []).ctxOf 1).vers.any fun w => w.tile == tile) = false
    ∧ (translateHub 1 0x10000 0 true (ls [] [] [])).1 = .hit page := by decide +kernel

/-- The end of clk 100 at a cell with operations `ops` and row operations `rows`. -/
def ar (ops : List LensOp) (rows : List RowOp) (l : List Entry) : State :=
  { tk .X [] id (fun c => { c with ops := ops, rows := rows, lens := l }) with landing := true, clk := 100 }

theorem witness_ArrayRows :
    let m : MmaOp := { eidA := 40, eidB := 40, accD := 65536, accB := 65536, types := 8, mode := 2, mmas := false, m := 16, n := 16, klen := 32, koff := 0
                       fullA := 2 ^ 256 - 1, fullB := 2 ^ 256 - 1, snapA := [], snapB := [], after := none }
    let s := ar [mma1 3] [] [entry 40 .clean]
    let row (k : RowKind) (start i : Nat) : RowOp := { seq := 3, slot := 0, k := .A, start := start, kind := k, row := i }
    let d := mmaCapture m (entry 40 .clean) (entry 40 .clean)
    (s.landing = true ∧ firstOp (mmaReady s 0 (s.clk + 1)) (s.cell 0).ops = some (mma1 3) ∧ (mma1 3).cmd = .mma m ∧ mmaBad s 0 m = none
      ∧ (s.cell 0).entry m.eidA = some (entry 40 .clean))
    ∧ firstOp (mmaReady (ar [] [] []) 0 101) ((ar [] [] []).cell 0).ops = none
    -- rows 0 and 127 of a matrix operation, and one before its first read
    ∧ (((ar [] [row (.mma m d) 45 0] []).cell 0).rows = [row (.mma m d) 45 0] ∧ (ar [] [] []).clk = 45 + 39 + 32 / 2 + 0)
    ∧ (((ar [] [row (.mma m d) 0 45] []).cell 0).rows = [row (.mma m d) 0 45] ∧ (ar [] [] []).clk = 0 + 39 + 32 / 2 + 45)
    ∧ (({ ar [] [row (.mma m d) 18 127] [] with clk := 200 } : State).clk = 18 + 39 + 32 / 2 + 127)
    ∧ (((ar [] [row (.mma m d) 95 0] []).cell 0).rows = [row (.mma m d) 95 0] ∧ (ar [] [] []).clk < 95 + 32 / 2)
    ∧ ((ar [] [row (.aclr 65536) 100 0] []).cell 0).rows = [row (.aclr 65536) 100 0] ∧ 100 + 0 ≤ (ar [] [] []).clk
    ∧ ((ar [] [row (.amov 0 65536) 0 100] []).cell 0).rows = [row (.amov 0 65536) 0 100]
    ∧ (let t := ar [op 10 (.tst 40 0 7) .parked] [] [produced 40 .producing]
       (t.cell 0).ops = [op 10 (.tst 40 0 7) .parked] ∧ (t.cell 0).entry 40 = some (produced 40 .producing) ∧ (produced 40 .producing).here = true
         ∧ (t.slot 0 0).st ≠ .frozen ∧ (t.cell 0).lens.all (fun e => !e.away) = true) := by decide +kernel

/-! ### Launches and records -/

/-- A loop-nest record of two loops (R269, R270): trip counts, cells, the bits of CTRL beside NLOOP, PERM and BLK = 4, CSEM and CSTAT. -/
def raw (c0 c1 mask more csem cstat : Nat) : Nat :=
  c0 + c1 * 256 ^ 16 + (List.range 4).foldl (fun v i => v + 0x40000 * 256 ^ (0x60 + 8 * i)) 0 + mask * 256 ^ 0x80 + 0x1000 * 256 ^ 0x98
    + (4 * 2 ^ 52 + 2 ^ 10 + 2 * 2 ^ 2 + more) * 256 ^ 0xC8 + csem * 256 ^ 0xD0 + cstat * 256 ^ 0xD8

/-- An accepted record of 3 × 4 positions over cells 0 and 1. -/
def rc (more : Nat) : Rec :=
  { id := 6, ctx := 1, launch := 1, addr := 0x6000, raw := raw 3 4 3 more 0x7000 0x7008, cmask := 3, total := 12 }

/-- A launch in flight whose record stands at 0x6000. -/
def launchAcc : Acc :=
  { id := 4, agent := .cond 3, ctx := 1, kind := .launch, cls := 0, scope := 2, rel := true, byp := true, x := 0x6000
    elems := (List.range 32).map fun i => { loc := .mem (0x6000 + 8 * i) 0, va := BitVec.ofNat 64 (0x6000 + 8 * i), lane := i, data := 0 }
    arrived := [0] }

def launches (r : Nat) : State := { cd [] with accs := [launchAcc], mem := Memory.writeN tables 0x6000 256 r }

theorem witness_FromLaunchToTask :
    let s := launches (raw 3 4 3 0 0x7000 0x7008)
    let bad := launches (raw 3 4 0 0 0x7000 0x7008)
    let code (s : State) := let q := launchChain launchAcc s
      chainCode q.2 (q.2.ctxOf 1) none (q.1.1.map (·.2)) none
    (s.landing = false ∧ s.acc 4 = some launchAcc ∧ mayPerform s launchAcc = true ∧ travelled s launchAcc .home = true ∧ accBad s launchAcc = none ∧ (launchChain launchAcc s).1.2 = none)
    ∧ (code s = none ∧ (s.ctxOf 1).st = .live ∧ (openRecs s 1).length + 1 ≤ 64)
    ∧ (code bad = some 5 ∧ launchAcc.orphan = false) := by decide +kernel

/-- A state with record `r` and cells as listed. -/
def sc (r : Rec) (cells : Tab Cell) : State := { cd [] with recs := [r], cells := cells }

theorem witness_FromLaunchToTask_tasks :
    let r := rc 0
    let dealt : Rec := { r with nextBlock := 1, dealt := [(0, [0, 1, 2, 3])] }
    let queued : State := { sc r [(0, { iterqs := [{ rid := 6, ents := [(0, 0)] }] })] with clk := 1 }
    ((sc r []).recOf 6 = some r ∧ recLock r.raw = false ∧ 0 ∈ recDies (sc r []) 3 ∧ r.nextBlock * 4 < r.total ∧ r.raw / 256 ^ 0xC8 % 256 ^ 8 / 2 ^ 52 = 4
      ∧ r.asked.find? (fun q => q.2 == 0) = none)
    -- a request of the clk before, the earlier of two
    ∧ (let a : Rec := { r with asked := [(2, 1), (2, 0)] }
       a.asked.find? (fun q => q.2 == 0) = some (2, 0) ∧ (2, 0).1 < (3 : Nat) ∧ ∀ q ∈ a.asked, 2 < q.1 ∨ (2 = q.1 ∧ 0 ≤ q.2))
    -- the last block of 12 positions
    ∧ (2 * 4 < r.total ∧ r.total ≤ 3 * 4)
    ∧ (walkerRecord (sc dealt []) 0 = some (dealt, 0) ∧ Tab.get [] 0 dealt.dealt = 0 :: [1, 2, 3] ∧ took (sc dealt []) 0 5 = false
      ∧ ∀ i < 16, handsFirst (sc dealt []) (16 * 0 + i) 6 = false)
    ∧ (freeSlot queued 0 = some 0 ∧ chooseHead queued 0 0 = some (r, 0, 0) ∧ took queued 0 4 = false ∧ viewsOk r.raw 0 = true
      ∧ sweepPrio queued 0 0 ≤ recPrio r.raw + 1)
    ∧ viewsOk (raw 3 4 3 (8191 * 2 ^ 25) 0 0) 7 = false
    ∧ (let p := sc r [(0, { slots := [(0, { st := .preload, ctx := 1, recId := 6, pos := 11 })] })]
       (p.slot 0 0).st = .preload ∧ (p.slot 0 0).lock = false ∧ (p.slot 0 0).freezing = none ∧ (p.slot 0 0).sweep = false ∧ p.recOf (p.slot 0 0).recId = some r)
    ∧ (recNloop r.raw = 2 ∧ recPerm r.raw 0 = 0 ∧ recPerm r.raw 1 = 1 ∧ (loopOf r.raw 0).count = 3 ∧ (loopOf r.raw 1).count = 4 ∧ 11 < 3 * 4
      ∧ recOrder r.raw = 0 ∧ recOrder (rc 32).raw = 1) := by decide +kernel

theorem witness_FromLaunchToTask_rounds :
    let r := rc (2 ^ 44)
    let w : Rec := { rc 2 with nextBlock := 3, handed := 12 }
    let s := sc r []
    let d := sc w [(0, { defq := [(0, { ctx := 1, ents := [anEntry] })] })]
    (s.recOf 6 = some r ∧ recLock r.raw = true ∧ r.lockNext < r.total
      ∧ ((setBits 128 r.cmask).filter fun c => !bit s.err.fencedCells c) = [0, 1] ∧ ∀ m ∈ [0, 1], freeSlot s m = some 0 ∧ headReady s m 0 r = true ∧ viewsOk r.raw 0 = true)
    -- fewer positions left than members
    ∧ ({ r with lockNext := 11 } : Rec).lockNext < r.total ∧ ¬ 11 + 1 < r.total
    ∧ (d.recOf 6 = some w ∧ freeSlot d 0 = some 0 ∧ recSweep w.raw = true ∧ bit w.cmask 0 = true ∧ allPlaced d w = true ∧ pathHolds (d.cell 0) 1 0 = true
      ∧ sweepRuns d 0 w 0 = false ∧ savedOn d 0 w = [] ∧ viewsOk w.raw 0 = true ∧ headReady d 0 0 w = true ∧ (d.cell 0).slots = [] ∧ took d 0 4 = false
      ∧ w.unswept.contains (0, 0) = false ∧ chooseHead d 0 0 = none ∧ sweepPrio d 0 0 ≤ recPrio w.raw + 1) := by decide +kernel

theorem witness_StealingAndCompletion :
    let q := rc (2 ^ 45)
    let st (answered : Bool) (got : Option Nat) : Steal := { rid := 6, victim := some 1, answered := answered, got := got }
    let asks (z : Steal) (ents : List (Nat × Nat)) : State := sc q [(0, { steal := some z }), (1, { iterqs := [{ rid := 6, ents := ents }] })]
    let ended : Rec := { rc 0 with nextBlock := 3, handed := 12 }
    let s := sc ended []
    let stat := hubStore 1 (recCstat ended.raw) 8 0 (updRec 6 (fun _ => { ended with phase := .writeStat }) s)
    let lost : State := { s with err := { badHbm := [0x7000] } }
    ((sc q []).recOf 6 = some q ∧ idleFor (sc q []) 0 q = true ∧ ((sc q []).cell 0).steal = none ∧ ((sc q []).cell 0).stealClk = none)
    ∧ (((asks (st false none) [(4, 0)]).cell 0).steal = some (st false none) ∧ (st false none).answered = false
      ∧ ((asks (st false none) [(4, 0)]).cell 1).iterqs.find? (fun y => y.rid == 6) = some { rid := 6, ents := [] ++ [(4, 0)] }
      ∧ (let t : State := { asks (st false none) [(4, 0), (5, 0)] with cells := [(0, { steal := some (st false none) }), (1, { iterqs := [{ rid := 6, ents := [(4, 0), (5, 0)] }], handClk := [(4, 2)] })]
                                                                       clk := 1 }
         handsFirst t 1 6 = false ∧ ∀ y ∈ (t.cell 1).iterqs, y.rid = 6 → ∀ e ∈ y.ents, e.2 < t.clk))
    ∧ ((asks (st false none) []).cell 1).iterqs.find? (fun y => y.rid == 6) = some { rid := 6, ents := [] }
    ∧ ((st true (some 4)).answered = true ∧ (st true none).got = none ∧ bit (asks (st true none) []).err.fencedCells 0 = false)
    ∧ (s.recOf 6 = some ended ∧ ended.stuck = false ∧ (s.ctxOf 1).st = .live ∧ ended.total ≤ ended.handed ∧ ended.live = 0 ∧ sweepDone s ended = true ∧ ended.phase = .running
      ∧ (openRecs s 1).length = 1 ∧ recCstat ended.raw ≠ 0 ∧ okB stat.1 = true
      ∧ okB (hubAdd 1 (recCsem ended.raw) 1 false (updRec 6 (fun _ => { ended with phase := .addSem }) s)).1 = true
      ∧ okB (hubAdd 1 (recCsem ended.raw) 1 false (updRec 6 (fun _ => { ended with phase := .addSem }) lost)).1 = false)
    ∧ recCstat (raw 3 4 3 0 0x7000 0) = 0
    ∧ (let t := sc q [(0, { tags := [(5, 9)] })]
       let u := sc q [(0, { tags := [(63, 9)], scrub := some 4095 })]
       took t 0 6 = false ∧ (t.cell 0).scrub = none ∧ 320 % 64 = 0 ∧ Tab.get 0 (320 / 64) (t.cell 0).tags ≠ 0 ∧ t.dieqs = [] ∧ (t.cell 0).slots = []
         ∧ (u.cell 0).scrub = some 4095) := by decide +kernel

theorem witness_FromLaunchToTask_turns :
    let dealt : Rec := { rc 0 with nextBlock := 1, dealt := [(0, [0, 1, 2, 3])] }
    let s := take (16 * 0) 5 (sc dealt [])
    (∀ q ∈ s.cells, q.2.steal = none) ∧ (∀ d < 8, took s (16 * d) 5 = decide (d = 0)) ∧ s.landing = false
      ∧ walkerRecord s 0 = some (dealt, 0) ∧ Tab.get [] 0 dealt.dealt = 0 :: [1, 2, 3]
      -- a cell that hands one position out first
      ∧ (let t : State := { sc dealt [(0, { iterqs := [{ rid := 6, ents := [(0, 0)] }] })] with clk := 1 }; ∃ i < 16, handsFirst t (16 * 0 + i) 6 = true) := by
  decide +kernel

theorem witness_StealingAndCompletion_answers :
    let q := rc (2 ^ 45)
    let st (answered : Bool) (got : Option Nat) : Steal := { rid := 6, victim := some 1, arrived := true, answered := answered, got := got }
    let asks (z : Steal) (ents : List (Nat × Nat)) : State := sc q [(0, { steal := some z }), (1, { iterqs := [{ rid := 6, ents := ents }] })]
    let own (n : Nat) : State := sc q [(0, { steal := some (st true (some 4)), iterqs := [{ rid := 6, ents := (List.range n).map fun i => (i, 0) }] })]
    let other (n : Nat) : State := sc q [(0, { steal := some (st true (some 4)), iterqs := (List.range n).map fun i => { rid := 10 + i, ents := [] } })]
    let room (s : State) : Bool := decide ((match (s.cell 0).iterqs.find? fun y => y.rid == 6 with
      | some y => y.ents.length | none => if (s.cell 0).iterqs.length < 8 then 0 else 4) < 4)
    (((asks (st false none) [(4, 0)]).cell 0).steal = some (st false none) ∧ (st false none).arrived = true ∧ (st false none).answered = false
      ∧ (st false none).victim = some 1 ∧ handsFirst (asks (st false none) [(4, 0)]) 1 6 = true)
    ∧ handsFirst (take 1 4 (asks (st false none) [(4, 0)])) 1 6 = false
    ∧ handsFirst (asks (st false none) []) 1 6 = false
    ∧ (room (own 3) = true ∧ room (own 4) = false ∧ room (other 7) = true ∧ room (other 8) = false) := by decide +kernel

/-! ### Host commands and die queues -/

/-- The first 48 bytes of the record of a host command (R376). -/
def cmdBytes (c : HostCmd) : Nat :=
  c.hseq.toNat + c.ctxid * 2 ^ 64 + c.opc * 2 ^ 96 + c.mustBeZero * 2 ^ 104 + c.addr.toNat * 2 ^ 128 + c.arg0.toNat * 2 ^ 192
    + c.arg1.toNat * 2 ^ 256 + c.arg2.toNat * 2 ^ 320

/-- The hub takes commands: rings running, features 0 to 5 accepted, `c` at the head of the ring, whose base is 0 in host memory. -/
def hst (c : HostCmd) (f : State → State := id) : State :=
  f { State.reset with
    powered := true, mem := tables, ctxs := [(1, ctx1)], seq := 11
    host := { go := true, ready := true, feata := [(0, 63)], cmdtail := 1, hmem := Memory.writeN [] 0 64 (cmdBytes c) } }

/-- The record of `c` stands at the head of its ring. -/
def atHead (c : HostCmd) : Bool :=
  Memory.readN (hst c).host.hmem (((hst c).host.cmdbase.toNat + 64 * ((hst c).host.cmdhead.toNat % (hst c).host.cmdsize.toNat)) % 2 ^ 64) 64 % 2 ^ 384
      == cmdBytes c && decide (c.ctxid < 2 ^ 32) && decide (c.opc < 2 ^ 8) && decide (c.mustBeZero < 2 ^ 24)

/-- A context descriptor (R292): ASID 7, page tables at 0x1000, 16 version records, fault queue, conductor 3, member 0 of group 9. -/
def dsc : Nat := 0x1000 + 7 * 256 ^ 8 + 16 * 256 ^ 0x0C + 0x8000 * 256 ^ 0x10 + 8 * 256 ^ 0x30 + 8 * 256 ^ 0x32 + 256 ^ 0x40 + 9 * 256 ^ 0x4C

theorem witness_HostCommands :
    let cmd (opc ctxid : Nat) (addr arg0 arg1 : Word) : HostCmd := ⟨1, ctxid, opc, 0, addr, arg0, arg1, 0⟩
    let alone (f : Ctx → Ctx) (t : State) : State := { t with ctxs := [(1, f ctx1)] }
    let create (v : Nat) : State := hst (cmd 2 0x10007 0x4000 0 0) fun t => { t with ctxs := [], mem := Memory.writeN tables 0x4000 128 v }
    let refusal (v : Nat) (o : Nat) : Bool := dscRefused (create v) v == some o
    let launch := cmd 1 0x10007 0x6000 5 6
    let shut := cmd 7 0 0 0 5000000
    let wake := cmd 7 0 0 1 5000000
    let mir := cmd 4 0 0 0 0
    let far : Acc := { id := 4, agent := .cond 3, ctx := 1, kind := .load, cls := 2, scope := 3, sent := true, elems := [{ loc := .peer 2 0x100040, va := 0x100040, lane := 0, data := 0 }] }
    let fw := cmd 6 0 0x40000 0 0
    let dead (t : State) : State := { t with ctxs := [(1, { ctx1 with st := .dying })] }
    (hubTakes (hst launch) = true ∧ (hst launch).host.cmdtail ≠ (hst launch).host.cmdhead ∧ (2 : Word) ≠ 0 + 1 ∧ (1 : Word) = 0 + 1
      ∧ (∀ c ∈ [launch, cmd 2 0x10007 0x4000 0 0, mir, fw, shut, wake], atHead c = true)
      ∧ ∀ c ∈ [launch, cmd 2 0x10007 0x4000 0 0, cmd 3 0x10007 0 0 0, mir, cmd 5 0 0 3 0, fw, shut, wake], cmdZeroOk c = true)
    ∧ (inboxFor (hst launch (alone fun x => { x with lcond := 8 })) { ctx1 with lcond := 8 } = some 3 ∧ ctx1.st = .live ∧ ctx1.asid = 0x10007 % 2 ^ 16)
    ∧ (((create dsc).ctxOf 1).st = .absent ∧ hbmWhole (create dsc) 0x4000 128 = true ∧ 0x4000 % 64 = 0 ∧ (create dsc).err.failedState = false ∧ (create dsc).badAt 0x4000 128 = none
      ∧ (create dsc).memRead 0x4000 128 0 = dsc ∧ dscRefused (create dsc) dsc = none ∧ (ctxOfDesc dsc 3 4).asid = 7 ∧ (ctxOfDesc dsc 3 4).rdcsz = 0
      ∧ (ctxOfDesc dsc 3 4).prism = false)
    -- one descriptor for each offset whose check looks at the descriptor alone
    ∧ (refusal (dsc + 1) 0 ∧ refusal (dsc + 4 * 256 ^ 0x0A) 0x0A ∧ refusal (dsc + 2 * 256 ^ 0x0B) 0x0B ∧ refusal (dsc - 16 * 256 ^ 0x0C) 0x0C
      ∧ refusal (dsc + 256 ^ 0x10) 0x10 ∧ refusal (dsc + 33 * 256 ^ 0x20) 0x20 ∧ refusal (dsc - 8 * 256 ^ 0x30) 0x30 ∧ refusal (dsc - 8 * 256 ^ 0x32) 0x32
      ∧ refusal (dsc + 256 ^ 0x34) 0x34 ∧ refusal (dsc + 256 ^ 0x40) 0x40 ∧ refusal (dsc + 64 * 256 ^ 0x48) 0x48 ∧ refusal (dsc + 2 * 256 ^ 0x49) 0x49
      ∧ refusal (dsc + 256 ^ 0x4A) 0x4A ∧ refusal (dsc + 256 ^ 0x50) 0x50 ∧ refusal (dsc + 256 ^ 0x58) 0x58 ∧ refusal (dsc + 256 ^ 0x60) 0x60
      ∧ refusal (dsc + 256 ^ 0x68) 0x68)
    ∧ (unanswered (hst mir) = [] ∧ unanswered (hst mir fun t => { t with accs := [far] }) ≠ []
      ∧ (let d := hst mir fun t => { t with accs := [far], time := { t.time with rt := 80000 }, host := { t.host with mirDrain := some 0 } }
         d.host.mirDrain = some 0 ∧ 80000 ≤ (d.rt - 0).toNat)
      ∧ (hst mir).time.pausedAt = none ∧ sending (hst mir) = true)
    ∧ (hbmWhole (hst fw) 0x40000 (0x80 + 4096 + 7856) = true ∧ 0x40000 % 4096 = 0 ∧ imageCheck (hst fw) [] = some 1
      ∧ hbmWhole (hst fw) (2 ^ 39) (0x80 + 4096 + 7856) = false ∧ 0x40008 % 4096 ≠ 0)
    ∧ ((hst shut).rt.toNat + 4000000 ≤ (5000000 : Word).toNat ∧ inGroup (hst shut) = false
      ∧ inGroup (hst shut fun t => { t with prism := { t.prism with members := 5 } }) = true
      ∧ (hst wake fun t => { t with susp := .restored none none }).susp = .restored none none ∧ hubTakes (hst wake fun t => { t with susp := .restored none none }) = true
      ∧ (hst wake).susp = .none)
    ∧ ((hst mir dead).landing = false ∧ ((hst mir dead).ctxs.map Prod.fst).Nodup ∧ ((hst mir dead).ctxOf 1).st = .dying ∧ tasksOf (hst mir dead) 1 = []
      ∧ ctxQuiet (hst mir dead) 1 = true) := by decide +kernel

/-- A command of context 1 in a die queue (R301). -/
def dc (opc sig : Nat) (addr mask arg saddr sval : Nat) : DieCmd :=
  { raw := BitVec.ofNat 512 (opc + sig * 2 ^ 9 + 2 ^ 32 + addr * 2 ^ 64 + mask * 2 ^ 128 + arg * 2 ^ 192 + saddr * 2 ^ 256 + sval * 2 ^ 320), task := true }

/-- Queue 0 of die 0 has `r` at its head, queue 1 is empty; both are bound to context 1. -/
def dq (r : DieCmd) (f : DieQ → DieQ := id) (g : State → State := id) : State :=
  g { cd [] with ctxs := [(1, { ctx1 with qbind := 3 })], dieqs := [(0, f { recs := [r], tail := 1 })] }

theorem witness_DieQueueCommands :
    let run := dc 1 0 0x6000 0 0 0 0
    let withRec (r : Nat) (t : State) : State := { t with mem := Memory.writeN t.mem 0x6000 256 r }
    let good := dq run id (withRec (raw 3 4 3 0 0x7000 0x7008))
    let bad := dq run id (withRec (raw 3 4 0 0 0x7000 0x7008))
    let code (s : State) : Option Nat :=
      match launchRead 1 true 0x6000 s with
      | (.ok v, w) => let x := chainRest 1 true 16 v 1 w; if x.1.1.isEmpty && x.1.2.isNone then chainCode x.2 (x.2.ctxOf 1) (some 0) [v] none else some 99
      | _ => some 99
    let wait := dc 2 0 0 0 0 0x7000 5
    let sign := dc 3 1 0 0 0 0x7000 1
    let move := dc 7 0 0x7000 0 1 0 0
    let load := dc 8 0 0x7000 0 1 0 0
    let pre := dc 4 0 0x10000 1 (256 * 2 ^ 16) 0 0
    let res := dc 5 0 0x10000 0 (256 * 2 ^ 16) 0 0
    (∀ r ∈ [run, wait, sign, dc 6 0 0 0 0 0 0, move, load, pre, res], cmdFieldBad r = false ∧ (dq r).landing = false
      ∧ ((dq r).dieq 0 0).recs = [r] ∧ ((dq r).ctxOf (cmdCtx r)).st = .live ∧ bit (dq r).err.fencedDies 0 = false)
    ∧ (cmdSig run = false ∧ cmdSig sign = true ∧ okB (hubAdd 1 (cmdSaddr sign) (cmdSval sign) true (dq sign)).1 = true)
    ∧ (code good = none ∧ code bad = some 5 ∧ (openRecs good 1).length + 1 ≤ 64)
    ∧ (launchDone (dq run (fun y => { y with started := true, run := some 1 })) 1 1 = true)
    ∧ okB (hubRead 1 true (cmdSaddr wait) 8 (dq wait)).1 = true
    ∧ (queueBound (dq move) 1 0 1 = true ∧ ((dq move).dieq 0 1).started = false ∧ (cmdArg move).toNat % 8 = 1
      ∧ okB (hubWriteRuns 1 true (pageRuns (cmdAddr move) 64) (queueImage ((dq move).dieq 0 1)) (dq move)).1 = true
      ∧ (cmdArg (dc 7 0 0x7000 0 0 0 0)).toNat % 8 = 0)
    ∧ (((dq load).dieq 0 1).recs = [] ∧ okB (hubRead 1 true 0x7000 64 (dq load)).1 = true ∧ okB (hubRead 1 true 0x7040 0 (dq load)).1 = true)
    ∧ (let s := dq pre
       cmdMask pre ≠ 0 ∧ cmdMask pre &&& (s.err.fencedCells / 2 ^ 0 % 2 ^ 16) = 0 ∧ preemptClash s 0 0 pre = false)
    ∧ (let frozen : Slot := { task with st := .frozen, frozenBy := some .forced, preBy := some 0, recId := 6, recAddr := 0x6000 }
       let s := dq pre (fun y => { y with started := true, cells := [0] }) fun t => { t with cells := [(0, { slots := [(0, frozen)] })] }
       nextSaved s 0 1 0 = some 0 ∧ savable s 0 0 = true
         ∧ (let t := ungrant 0 0 s
            (s.dieq 0 0).len + blockLen (t.cell 0) 0 (t.slot 0 0) ≤ 256 * 4096 ∧ (s.dieq 0 0).toffs.length < 256 ∧ okB (taskBlock 0 0 t).1 = true))
    ∧ (let s := dq pre fun y => { y with started := true }
       okB (hubPut 1 true (cmdAddr pre) [(0, areaHeader (ctxidOf s 1) s.rt 0x1000 [] [])] s).1 = true)
    ∧ (let s := dq pre id fun t => { t with cells := [(0, { slots := [(0, { task with preReq := some 0 })] })] }
       (s.slot 0 0).preReq = some 0 ∧ 0 ≤ s.rt.toNat ∧ (s.slot 0 0).freezing = none ∧ (s.slot 0 0).st = .run)
    ∧ (let t : SavedTask := { cell := 2, slot := 1, pos := 11, recAddr := 0x6000, recId := 6, launch := 1, prio := 0, lock := false, round := 0
                              sweep := false, stage := 0, ended := [], lastFault := none, pins := [] }
       let h := 11 + 0x6000 * 256 ^ 8 + 2 * 256 ^ 0x10 + 256 ^ 0x11 + 128 * 256 ^ 0x38
       let s := dq res (fun y => { y with started := true, toffs := [0x1000] }) fun u =>
         { u with mem := Memory.writeN u.mem 0x11000 128 h, ctxs := [(1, { ctx1 with savedTasks := [t] })] }
       (match hubRead 1 true 0x11000 128 s with
        | (.ok v, w) => v == h && savedFor w 1 v == some t && (w.slot 2 1).st == .free && regionsFree (w.cell 2) 1 (spanRegions (savedSpans (getSlot v w.seq 1 0 t)))
            && !bit w.err.fencedCells 2
        | _ => false) = true) := by decide +kernel

/-! ### Translation, links, time -/

/-- The lowest page of those tables as a walk translates it for a fetch. -/
def walked : Trans := ⟨7, 0, 30, 0, 0xB7, 3⟩

theorem witness_WalksAndShootdowns :
    let rq (va : Word) (kind : Nat) (st : Option Nat) : WalkReq := ⟨.strand 0 0 .S, 1, va, kind, true, false, st, false⟩
    let one (r : WalkReq) : State := { tk .S [] with walks := [] ++ r :: [] }
    let res (r : WalkReq) : WalkRes := walk { one r with walks := [] ++ [] } 0 r.ctx r.va r.kind r.task r.spec none
    let near : Slot := { task with pages := [(0, walked)], lastVa := [(0, 0x3FFFFF00)] }
    let fills (tlb : List Trans) : State := tk .S [] (fun _ => near) fun x => { x with tlb := tlb }
    let next : Trans := ⟨7, 0x40000000, 30, 0, 0xB7, 3⟩
    let h : Shoot := ⟨4, 0, 7, 0⟩
    let own_ : Acc := { id := 4, agent := .cond 3, ctx := 1, kind := .tlbi 0 7 0, cls := 0, scope := 2 }
    let load : Acc := { id := 5, agent := .strand 0 0 .S, ctx := 1, kind := .load, cls := 0, scope := 0, elems := [{ loc := .mem 0x8000 0, va := 0x8000, lane := 0, data := 0 }] }
    let shot (l : List Acc) (p : List (Nat × Trans)) : State := { tk .S [] (fun y => { y with pages := p }) with shoots := [h], accs := l }
    (res (rq 0x5000 0 none) = .ok walked none ∧ res (rq 0x40000000 0 none) = .fail 0 3
      ∧ res (rq 0x5000 3 (some 0)) = .ok walked none ∧ res (rq 0x40000000 3 (some 0)) = .fail 0 3
      ∧ (one (rq 0 0 none)).landing = false)
    -- an upper entry in the cache of the hub's walkers hides the one in memory, as does none at level 1
    ∧ (let t := { tk .S [] with wcache := [(8, [(0x1000, 0x5001)])] }
       (2 ≤ 5 ∧ (Tab.get [] 8 t.wcache).find? (fun q => q.1 == 0x1000) = some (0x1000, 0x5001)) ∧ ((1 < 2) ∧ t.badAt 0x1000 8 = none)
         ∧ (noteWalk 0 1 0x5000 t).wcache = [(0, [(0x1000, 0x2001), (0x2000, 0x3001)]), (8, [(0x1000, 0x5001)])])
    ∧ (near.st ≠ .free ∧ nextPage (fills []) ((fills []).slot 0 0) 0 = some 0x40000000 ∧ Tab.find 1 near.pages = none
      ∧ (fills []).walks = [] ∧ ((fills []).cell 0).tlb.find? (fun t => t.serves 7 0x40000000 3) = none
      ∧ ((fills [next]).cell 0).tlb.find? (fun t => t.serves 7 0x40000000 3) = some next ∧ next.refuses 3 true = none)
    ∧ (let s := shot [own_] [(0, walked)]
       s.shoots.find? (fun q => q.id == 4) = some h ∧ s.acc 4 = some own_ ∧ mayPerform s own_ = true ∧ shootReady s h = true)
    ∧ (let s := shot [own_, load] [(0, walked)]
       s.acc 4 = some own_ ∧ load ∈ s.accs ∧ load.id ≠ 4 ∧ load.elems ≠ [] ∧ (s.ctxOf load.ctx).asid = 7) := by decide +kernel

theorem witness_LinksKeysAndTime :
    let s := State.reset
    let cut (l : List Nat) : State := l.foldl (fun t n => t.updLink n fun y => { y with st := .dead }) s
    let port (p : Port) : State := { s with ports := [(3, p)] }
    (s.powered = true ∧ (s.link 0).st ≠ .dead ∧ (s.link 15).st ≠ .dead ∧ unreachable (cut [0]) = none)
    ∧ ((cut [0]).link 0).st = .dead
    -- die 0 with its link to the hub and both its ring links dead
    ∧ (((cut [0, 15]).link 8).st ≠ .dead ∧ unreachable (cut [0, 15, 8]) = some 0
      ∧ unreachable (fenceDie 0 (hostEvent 0 0x21 0 8 2 0 0 (cut [0, 15, 8]))) = none)
    ∧ ((Tab.get {} 0 s.ports).st = .up ∧ (Tab.get {} 17 s.ports).st = .up ∧ (Tab.get {} 0 s.ports).updating = none)
    -- the counts at which a port goes down and an update begins, each message that is awaited, a session that is due
    ∧ (∀ q ∈ [({ tx := { cnt0 := 2 ^ 40 } } : Port), { rx := { kg := 1, cnt1 := 2 ^ 40 } }], (Tab.get {} 3 (port q).ports).st = .up
        ∧ (2 ^ 40 ≤ (if q.tx.kg = 0 then q.tx.cnt0 else q.tx.cnt1) ∨ 2 ^ 40 ≤ (if q.rx.kg = 0 then q.rx.cnt0 else q.rx.cnt1)))
    ∧ (let q : Port := { tx := { cnt0 := 2 ^ 39 } }; (Tab.get {} 3 (port q).ports).updating = none ∧ 2 ^ 39 ≤ q.tx.cnt0 ∧ q.tx.kg = 0)
    ∧ ((Tab.get {} 3 (port { updating := some .updateKey }).ports).updating = some .updateKey
      ∧ (Tab.get {} 3 (port { updating := some .verifyNewKey }).ports).updating = some .verifyNewKey
      ∧ (Tab.get {} 3 (port { rx := { ready := true } }).ports).rx.ready = true)
    ∧ ((64 : Nat) ≤ ({ updates := 64 } : Port).updates
      ∧ 86400 * 4000000000 ≤ (({ s with time := { s.time with rt := 345600000000000 } } : State).rt - ({} : Port).since).toNat)
    ∧ Tab.get .start (3 + 1) ({ s with sec := { s.sec with spdm := [(4, .secured true)] } } : State).sec.spdm = .secured true := by decide +kernel

/-- Member 2 of a formed group of members 0 and 2, whose reference is member 0. -/
def grouped (f : Time → Time) : State :=
  { State.reset with connected := 5, prism := { State.reset.prism with live := 5, self := 2, members := 5 }, time := f State.reset.time }

theorem witness_LinksKeysAndTime_exchange :
    let on := grouped fun t => { t with rt := 250000 }
    let held := grouped fun t => { t with rt := 250000, holdover := true, good := 15 }
    let third := grouped fun t => { t with rt := 250000, bad := 3 }
    let off (t1 t2 t3 t4 : Nat) : Int := ((t2 : Int) - (t1 : Int)) - ((t4 : Int) - (t3 : Int))
    (on.mirHold = false ∧ ¬ (on.prism.members = 0 ∨ on.prism.members = 2 ^ on.prism.self) ∧ reference on = some 0 ∧ on.prism.self = 2
      ∧ 250000 ≤ (on.rt - on.time.lastRun).toNat ∧ on.time.holdover = false ∧ held.time.holdover = true ∧ reference held = some 0)
    ∧ (0 < off 1000 1010 1020 1025 ∧ (off 1000 1010 1020 1025).natAbs ≤ 32 ∧ off 1000 1000 1000 1005 < 0 ∧ off 1000 1010 1020 1030 = 0
      ∧ 32 < (off 1000 1040 1025 1030).natAbs)
    -- the fourth estimate in a row that differs; the sixteenth good one, and one that is not good
    ∧ (24 < (off 1000 1030 1020 1025 - 2 * third.time.glint).natAbs ∧ 4 ≤ third.time.bad + 1)
    ∧ ((off 1000 1010 1020 1030).natAbs ≤ 16 ∧ (off 1000 1010 1020 1030 - 2 * held.time.glint).natAbs ≤ 16 ∧ 16 ≤ held.time.good + 1
      ∧ 16 < (off 1000 1040 1025 1030).natAbs)
    ∧ (let late := grouped fun t => { t with rt := 4000000 }
       late.time.holdover = false ∧ late.time.pausedAt = none ∧ 4000000 ≤ (late.rt - late.time.lastExchange).toNat ∧ reference late ≠ some late.prism.self)
    ∧ (let g (leg : Nat) : GroupForm := { members := 5, self := 2, reading := 1000, key := 1, legs := [(0, 10), (2, leg)] }
       let own (g : GroupForm) : Nat := ((g.legs.find? fun q => q.1 == g.self).map (·.2)).getD 0
       (g 0).self < 64 ∧ bit (g 0).members (g 0).self = true ∧ own (g 1600) ≤ 1600 ∧ 1600 < own (g 1601)) := by decide +kernel

/-! ### The Prism -/

/-- Member 0 of a group of members 0 and 2, place 9 applied, epoch and key 4, with the group's context LIVE. -/
def pr (f : Prism → Prism := id) (l : List Acc := []) : State :=
  { State.reset with
    ctxs := [(1, ctx1)], connected := 5, accs := l
    prism := f { applied := 9, seen := 9, epoch := 4, keyEpoch := 4, live := 5, joined := 5, members := 5, self := 0, prevEpoch := 3, prevKey := 6 } }

/-- A frame of member `m` at place `p` with count 2, as it leaves its sender under key 0, and one under another tag. -/
def plainFr (p kind m : Nat) : Frame :=
  { place := p, kind := kind, sender := m, epoch := 4, op := 0, size := 3, offset := 0x40, data := 7, time := 100, count := 2 }
def fr (p kind m : Nat) : Frame := { plainFr p kind m with tag := frameTag (plainFr p kind m) 0 }

theorem witness_PrismFrames_opened :
    ((fr 10 1 2).epoch = pr.prism.epoch ∧ pr.prism.keyEpoch = pr.prism.epoch ∧ (fr 10 1 2).tag = frameTag (fr 10 1 2) pr.prism.key)
    -- under the new epoch's REGEN, before its key has come, a frame of the old key
    ∧ (let s := pr fun p => { p with epoch := 5, keyEpoch := 6, prevEpoch := 5, prevKey := 0 }
       let g : Frame := { plainFr 10 1 2 with epoch := 5 }
       let f : Frame := { g with tag := frameTag g 0 }
       f.epoch = s.prism.epoch ∧ s.prism.keyEpoch ≠ s.prism.epoch ∧ s.prism.prevEpoch = s.prism.epoch ∧ f.tag = frameTag f s.prism.prevKey)
    -- one that is not of the present epoch is not opened
    ∧ (plainFr 10 1 2).epoch ≠ (pr fun p => { p with epoch := 3 }).prism.epoch ∧ epochBefore 4 3 = false :=
  ⟨⟨rfl, rfl, rfl⟩, ⟨rfl, by decide, rfl, rfl⟩, by decide, by decide⟩

theorem witness_PrismFrames :
    let s := pr
    let a : Acc := { id := 4, agent := .cond 3, ctx := 1, kind := .bst 0, cls := 3, scope := 3 }
    let mine : State := pr (fun p => { p with air := [(10, 4)] }) [a]
    let here : Elem := { loc := .prism 0x40, va := 0x40, lane := 0, data := 7 }
    let entering (kind : AccKind) (f : State → State := id) : Acc × State :=
      let b : Acc := { a with kind := kind, elems := [here] }
      (b, f (pr id [b]))
    let enters (q : Acc × State) : Prop := q.2.acc 4 = some q.1 ∧ q.1.sent = false ∧ mayPerform q.2 q.1 = true ∧ travelled q.2 q.1 .home = true
    (s.powered = true ∧ s.landing = false ∧ (2 : Nat) ≠ s.prism.self ∧ s.prism.copying = false ∧ s.prism.left = false ∧ s.prism.held = []
      ∧ s.prism.applied + 1 = 10 ∧ s.prism.applied + 1 < 12 ∧ s.prism.held.length < 4096)
    ∧ epochBefore 4 s.prism.epoch = false ∧ epochBefore 3 s.prism.epoch = true ∧ epochBefore 65535 s.prism.epoch = true
    ∧ (mine.prism.self = 0 ∧ mine.prism.air.find? (fun q => q.1 == 10) = some (10, 4) ∧ mine.accs.find? (fun q => q.id == 4) = some a)
    ∧ (∀ k ∈ [AccKind.bst 1, .bamo 3], enters (entering k) ∧ prismMember (entering k).2 1 = true ∧ queuedOps (entering k).2 < 64
      ∧ ∀ b ∈ (entering k).2.accs, ¬ b.id < 4)
    ∧ (∀ k ∈ [AccKind.bst 1, .bamo 3, .bld],
        let q := entering k fun t => { t with ctxs := [(1, { ctx1 with prismLive := false })] }
        enters q ∧ prismMember q.2 1 = false)
    ∧ (({ pr with susp := .restored none none } : State).rt.toNat ≤ (100#64).toNat ∧ pr.susp = .none)
    ∧ (pr fun p => { p with left := true }).prism.left = true := by decide +kernel

/-- One's own frame is in the log of what was sent. -/
theorem witness_PrismFrames_own :
    let s := pr fun p => { p with sentLog := [fr 10 1 0] }
    fr 10 1 0 ∈ s.prism.sentLog ∧ (fr 10 1 0).sender = s.prism.self :=
  ⟨List.mem_singleton.mpr rfl, rfl⟩

theorem witness_PrismFrames_slots :
    let mk : Marker := ⟨2, 4, 77⟩
    let data : DataFrame := { sender := 0, wave := 3, offset := 0, bytes := [1, 2] }
    (pr.prism.regen = none ∧ mk.holder ≠ pr.prism.self ∧ mk.epoch = pr.prism.epoch ∧ ({ mk with epoch := 0 } : Marker).epoch = Tab.get 0 7 pr.prism.epochs)
    ∧ (reference pr ≠ some 2 ∧ reference { pr with time := { pr.time with holdover := true } } = some 2)
    ∧ (slotHolder (pr fun p => { p with glint := [(3, 2)] }) 3 = 2 ∧ pr.prism.self ≠ 2)
    ∧ (let q := pr fun p => { p with sendq := [(4, plainFr 0 1 0)] }
       q.prism.regen = none ∧ slotHolder q 0 = q.prism.self ∧ q.prism.sendq = [(4, plainFr 0 1 0)] ∧ maySend q (plainFr 0 1 0) = true ∧ (4 : Nat) ≠ 0
         ∧ (plainFr 0 1 0).kind ≠ 0x21 ∧ (plainFr 0 1 0).wave = 0)
    ∧ (let q := pr fun p => { p with dataq := [(3, [data])] }
       (3 : Nat) ≠ 0 ∧ Tab.get q.prism.self 3 q.prism.glint = q.prism.self ∧ sending q = true ∧ Tab.get [] 3 q.prism.dataq = [data] ∧ data.wave = 3) := by
  decide +kernel

/-- Places up to 12 are seen. Place 10 has been asked for by member `self` at time 0, with `lacks` as the members that lack it. -/
def asked (self stage : Nat) (rt : Word) (lacks : Nat) : State :=
  { pr (fun p => { p with seen := 12, self := self, recov := [{ place := 10, stage := stage, lacks := lacks }] }) with time := { rt := rt } }
def otherMembers (s : State) : List Nat := (setBits 64 s.prism.live).filter fun m => m != s.prism.self
def lacking (s : State) : Bool := decide (s.prism.applied < 10) && decide (10 ≤ s.prism.seen) && s.prism.held.isEmpty && !s.prism.left

theorem witness_PrismRecovery :
    (pr.powered = true ∧ pr.landing = false ∧ lacking (pr fun p => { p with seen := 12 }) = true ∧ pr.prism.recov = [])
    ∧ (lacking (asked 0 0 800000 0) = true ∧ (asked 0 0 800000 0).prism.recov.find? (fun q => q.place == 10) = some { place := 10 }
      ∧ 800000 ≤ ((asked 0 0 800000 0).rt - 0).toNat ∧ ((asked 0 0 79999 0).rt - 0).toNat < 80000
      ∧ 80000 ≤ ((asked 0 0 80000 0).rt - 0).toNat ∧ ((asked 0 0 80000 0).rt - 0).toNat < 800000
      ∧ ((setBits 64 5).head?).getD 0 = 0 ∧ ((setBits 64 5).head?).getD 2 ≠ (asked 2 0 80000 0).prism.self
      ∧ otherMembers (asked 0 0 80000 0) = [2] ∧ bit 0 2 = false)
    -- the last member has answered that it lacks the frame, and one of two
    ∧ (let t := asked 0 1 0 0
       t.prism.recov = [{ place := 10, stage := 1 }] ∧ (setBits 64 t.prism.live).head? = some t.prism.self
         ∧ t.prism.keyEpoch = t.prism.epoch ∧ (∀ k ∈ otherMembers t, ¬ k ≠ 2))
    ∧ (∃ k ∈ otherMembers (pr fun p => { p with live := 13 }), k ≠ 2 ∧ bit 0 k = false)
    ∧ (asked 0 0 0 0).prism.applied + 1 < 11 := by decide +kernel

theorem witness_PrismRecovery_regen :
    let late (s : State) : State := { s with time := { rt := 80000 } }
    (otherMembers pr = [2] ∧ pr.prism.regen = none ∧ (setBits 64 pr.prism.live).head? = some pr.prism.self
      ∧ 80000 ≤ ((late pr).rt - Tab.get 0 0 pr.prism.marker).toNat)
    ∧ (let r := pr fun p => { p with seen := 12, recov := [{ place := 11 }] }
       (∃ q ∈ r.prism.recov, q.place = 11) ∧ r.prism.keyEpoch = r.prism.epoch ∧ r.prism.regen = none ∧ r.prism.applied + 1 < 11 ∧ r.prism.held = [])
    ∧ (let r := pr fun p => { p with regen := some (0, []) }
       r.prism.regen = some (0, []) ∧ bit r.prism.live 2 = true ∧ (2 : Nat) ≠ r.prism.self
         ∧ (9 : Nat) = [(2, 9)].foldl (fun m (q : Nat × Nat) => max m q.2) r.prism.seen ∧ r.prism.applied = 9 ∧ keysSent r = true ∧ sending r = true
         ∧ (12 : Nat) = [(2, 12)].foldl (fun m (q : Nat × Nat) => max m q.2) r.prism.seen ∧ (prismCtx r).isSome = true
         ∧ 80000 ≤ ((late r).rt - r.prism.regenAt).toNat)
    ∧ (let r := pr fun p => { p with regenSeen := some (3, 0) }
       r.prism.regen = none ∧ bit r.prism.live 0 = true ∧ bit r.prism.live 2 = true ∧ r.prism.regenSeen = some (3, 0)
         ∧ 80000 ≤ ((late r).rt - 0).toNat)
    ∧ (let r := pr fun p => { p with copying := true }; r.prism.copying = true ∧ r.prism.applied ≤ 12 ∧ r.prism.seen ≤ r.prism.applied) := by
  decide +kernel

/-- The frame that a member keeps, the one that it does not, and a REGEN of λ0 or λ7 with a good tag. -/
theorem witness_PrismRecovery_frames :
    let k := pr fun p => { p with sentLog := [fr 9 1 0] }
    let regen (w e : Nat) : Frame :=
      let g : Frame := { plainFr 0 0x20 2 with epoch := e, wave := w }
      { g with tag := frameTag g 0 }
    (k.prism.sentLog ++ k.prism.appliedLog).find? (fun q => q.place == 9 && q.kind != 0x20) = some (fr 9 1 0)
    ∧ (k.prism.sentLog ++ k.prism.appliedLog).find? (fun q => q.place == 8 && q.kind != 0x20) = none
    ∧ ((regen 0 5).kind = 0x20 ∧ (regen 0 5).tag = frameTag (regen 0 5) pr.prism.key ∧ (regen 0 5).sender ≠ pr.prism.self
      ∧ (regen 0 5).epoch = (pr.prism.epoch + 1) % 2 ^ 16)
    ∧ ((regen 7 1).wave < 8 ∧ 0 < (regen 7 1).wave ∧ (regen 7 1).tag = frameTag (regen 7 1) pr.prism.key
      ∧ (regen 7 1).epoch = (Tab.get 0 7 pr.prism.epochs + 1) % 2 ^ 16) :=
  ⟨rfl, rfl, ⟨rfl, rfl, by decide, rfl⟩, by decide, by decide, rfl, rfl⟩

/-- A member without the epoch's key recovers nothing. -/
theorem witness_PrismRecovery_key : (pr fun p => { p with keyEpoch := 3 }).prism.keyEpoch ≠ (pr fun p => { p with keyEpoch := 3 }).prism.epoch := by
  decide

/-- ALLREDUCE (`op` 1), ALLGATHER (2) or REDUCE_SCATTER (3) of `n` I32 elements or 16-bit words, SRC 0x100000, DST 0x101000. -/
def cdesc (op ty n members : Nat) : BitVec 512 :=
  BitVec.ofNat 512 (op + ty * 256 + members * 256 ^ 8 + 0x100000 * 256 ^ 0x10 + 0x101000 * 256 ^ 0x18 + n * 256 ^ 0x20)

/-- A collective of ticket 3 of the group's context, in which the group's context has others before it. -/
def aColl : Coll := { ticket := 3, desc := cdesc 1 7 2 5, agent := .cond 3 }
def collSt (c : Coll) (more : List Coll := []) : State := { pr with mem := tables, ctxs := [(1, { ctx1 with colls := more ++ [c] })] }

theorem witness_Collectives :
    let c := aColl
    let d := aColl.desc
    let st (c : Coll) (l : List Coll) := collSt c l
    let peer : CollPeer := ⟨2, d, [5, 6]⟩
    let odd : CollPeer := ⟨2, cdesc 1 7 3 5, [5, 6, 7]⟩
    let s := st c []
    let m : Coll := { c with matched := true, own := [1, 2] }
    (s.landing = false ∧ findColl s 1 3 = some c ∧ c.matched = false ∧ c.spoilt = false ∧ collValid s 1 d = true ∧ collTwice s 1 c = false
      ∧ (setBits 64 (collMembers d)).filter (fun k => k != 0) = [2] ∧ memberPresent s 1 2 = true ∧ s.mirHold = false ∧ peer.member = 2
      ∧ collSame peer.desc d = true ∧ collSame odd.desc d = false ∧ okB (hubRead 1 (collTask c) (collSrc d) (4 * 2) s).1 = true)
    ∧ (let z : Coll := { c with desc := cdesc 1 7 0 5 }
       findColl (st z []) 1 3 = some z ∧ collValid (st z []) 1 z.desc = false)
    ∧ memberPresent { s with connected := 1 } 1 2 = false
    ∧ (let o : Coll := { m with out := some [1, 2] }
       findColl (st o []) 1 3 = some o ∧ o.matched = true ∧ o.out ≠ none
         ∧ okB (hubWriteRuns 1 (collTask o) (pageRuns (collDst d) 2) [1, 2] (st o [])).1 = true)
    ∧ (findColl (st m []) 1 3 = some m ∧ m.matched = true ∧ m.out = none ∧ m.missing = []
      ∧ (let l := (collResult d 0 (contributions (st m []) 1 m [peer])).flatMap (leBytes 4)
         l.length = 8 ∧ okB (hubWriteRuns 1 (collTask m) (pageRuns (collDst d) l.length) l (st m [])).1 = true))
    ∧ (let e := cdesc 1 7 1 5
       collCount e = 1 ∧ collOp e = 1 ∧ collType e = 7 ∧ collRed e = 0 ∧ collRed (e ||| 0x10000) = 1)
    ∧ (collCount (cdesc 2 13 1 5) = 1 ∧ collOp (cdesc 2 13 1 5) = 2) := by decide +kernel

/-- The same collective issued twice. -/
theorem witness_Collectives_twice :
    let s := collSt aColl [{ aColl with ticket := 2 }]
    findColl s 1 3 = some aColl ∧ collValid s 1 aColl.desc = true ∧ collTwice s 1 aColl = true := by decide +kernel

/-- A data frame with a good tag; one of an old epoch; one that is being fetched. -/
theorem witness_Collectives_frames :
    let g : DataFrame := { sender := 2, wave := 3, offset := 32, bytes := [1, 2], count := 6 }
    let f : DataFrame := { g with tag := dataTag g 0 }
    let c : Coll := { aColl with missing := [(2, 3, 6)] }
    (f.tag = dataTag f pr.prism.key ∧ epochBefore f.epoch (Tab.get 0 f.wave pr.prism.epochs) = false)
    ∧ epochBefore f.epoch (Tab.get 0 f.wave (pr fun p => { p with epochs := [(3, 1)] }).prism.epochs) = true
    ∧ (f.sender, f.wave, f.count) ∈ c.missing :=
  ⟨⟨rfl, by decide +kernel⟩, by decide +kernel, List.mem_singleton.mpr rfl⟩

/-! ### The host and power -/

/-- The rings run and every feature is accepted; the host interface as `f` makes it. -/
def hosted (f : HostIf → HostIf := id) : State :=
  { State.reset with ctxs := [(1, ctx1)], host := f { State.reset.host with ready := true, go := true, feata := [(0, 63)] } }

theorem witness_HostPort :
    let s : State := { State.reset with host := { State.reset.host with ready := true } }
    let fe (v : Word) : State := { s with host := { s.host with feata := [(0, v)] } }
    let ok (s : State) : Prop := (Tab.get 0 0 s.host.feata).toNat % 2 = 1 ∧ (Tab.get 0 0 s.host.feata).toNat < 64
    let e : Event := ⟨0, 2, 0, 1, 1, 0, 0, 0⟩
    (s.powered = true ∧ s.host.ready = true ∧ s.host.go = false ∧ bit 1 0 = true ∧ ok (fe 63) ∧ ¬ ok (fe 64) ∧ ¬ ok (fe 2) ∧ ¬ ok s)
    ∧ (((2 : Word) - s.host.cmdhead).toNat ≤ s.host.cmdsize.toNat ∧ s.host.cmdsize.toNat < ((65 : Word) - s.host.cmdhead).toNat)
    ∧ ((64 : Word).toNat = 2 ^ (0 + 6) ∧ (65536 : Word).toNat = 2 ^ (10 + 6) ∧ ∀ i < 11, (65 : Word).toNat ≠ 2 ^ (i + 6))
    ∧ hosted.host.go = true
    -- an access of 8 bytes and one of 1, one that crosses a word, one outside memory, one of bad data
    ∧ (hbmOk s (0 + 0x40) 8 = true ∧ s.badPart 0x40 8 = none ∧ s.badAt 0x40 8 = none ∧ 0x40 % 8 + 8 ≤ 8 ∧ 0x47 % 8 + 1 ≤ 8 ∧ 8 < 0x47 % 8 + 4
      ∧ hbmOk (hosted fun h => { h with winbase := 0x7F00000000 }) (0x7F00000000 + 0xFFFFFFF8) 8 = false
      ∧ ({ s with err := { s.err with badHbm := [0x40] } } : State).badPart 0x40 8 = some 1)
    ∧ ((s.condOf 0).st ≠ .running ∧ (s.condOf 15).st ≠ .running ∧ ((cd []).condOf 3).st = .running ∧ 0xFFFF8 % 8 = 0 ∧ 0x3FFF8 < 0x40000
      ∧ (3, 8) ∉ s.err.badCond)
    ∧ (let q := hosted fun h => { h with sources := [(0, { next := 1, held := [e] })] }
       q.host.go = true ∧ q.host.evtail - q.host.evhead ≠ q.host.evsize ∧ (Tab.get {} 0 q.host.sources).held = e :: []
         ∧ (let full := hosted fun h => { h with evtail := 64 }
            full.host.evtail - full.host.evhead = full.host.evsize)) := by decide +kernel

theorem witness_HostPort_keys :
    let k (slot : Nat) : KeySetReq := ⟨2, slot, 0x10007, 8, 9⟩
    let s : State := { hosted with sec := { hosted.sec with spdm := [(2, .secured true), (3, .negotiated), (4, .exchanged)], slots := [(9, { ctx := some 1 })] } }
    let encrypts (s : State) : Bool := s.host.go && bit (Tab.get 0 0 s.host.feata).toNat 4
    let named (s : State) (k : KeySetReq) : Bool :=
      let x := s.ctxOf (k.ctxid / 2 ^ 16 % 2 ^ 6)
      x.st == .live && x.asid == k.ctxid % 2 ^ 16 && decide (k.ctxid < 2 ^ 22)
    (encrypts s = true ∧ encrypts (hosted fun h => { h with go := false }) = false ∧ (k 4096).slot % 4096 = 0)
    ∧ ((Tab.get {} 9 s.sec.slots).ctx ≠ none ∧ (Tab.get {} 4095 s.sec.slots).ctx = none)
    ∧ (named s (k 5) = true ∧ named s { k 5 with ctxid := 0x20007 } = false ∧ named s { k 5 with ctxid := 0x10008 } = false)
    ∧ (Tab.get .start (k 5).chan s.sec.spdm = .secured true ∧ Tab.get .start 3 s.sec.spdm ≠ .secured true)
    -- the steps of an SPDM exchange
    ∧ (let at_ (q : SpdmSt) : State := { s with sec := { s.sec with spdm := [(0, q)] } }
       ∀ q ∈ [SpdmSt.start, .versioned, .capable, .negotiated, .exchanged, .secured true, .secured false], Tab.get .start 0 (at_ q).sec.spdm = q) := by
  decide +kernel

theorem witness_HostPort_memory : MemoryOk State.reset := by unfold MemoryOk; decide

theorem witness_PowerAndSuspend :
    let s := State.reset
    let off : State := { s with powered := false }
    let kept : State := { off with susp := .retained, sec := { off.sec with suspendKey := 7, area := some 7 } }
    let p : PowerUp := ⟨0, 0, [], true, true, []⟩
    let warm (n : Nat) (hot : Word) (rt : Word) : State :=
      { s with thr := { s.thr with step := n, changed := some 0, hot := some hot }, time := { s.time with rt := rt } }
    (off.powered = false ∧ s.host.ready = false ∧ off.susp ≠ .retained ∧ bootBank off p = some 0 ∧ bootBank off ⟨0, 0, [], false, false, []⟩ = none)
    ∧ (kept.susp = .retained ∧ bankOk kept p kept.sec.active = true ∧ bankOk kept ⟨0, 0, [], false, false, []⟩ kept.sec.active = false
      ∧ bankOk kept ⟨0, 0, [], false, false, []⟩ (1 - kept.sec.active) = false ∧ kept.sec.area = some kept.sec.suspendKey
      ∧ ({ kept with sec := { kept.sec with area := none } } : State).sec.area ≠ some kept.sec.suspendKey
      ∧ p.fencedCells = 0 ∧ p.fencedDies = 0 ∧ kept.err.repairRows = [] ∧ kept.prism.members = 0)
    -- 1 ms after a change and 10 ms after the last measurement above a limit, and a tick before either
    ∧ (∀ n ∈ [0, 1, 2, 3], (warm n 0 40000000).thr.changed = some 0 ∧ 4000000 ≤ ((warm n 0 40000000).rt - 0).toNat
        ∧ (warm n 0 40000000).thr.hot = some 0 ∧ 40000000 ≤ ((warm n 0 40000000).rt - 0).toNat ∧ (warm n 0 40000000).thr.step = n)
    ∧ (¬ 4000000 ≤ ((warm 1 0 3999999).rt - 0).toNat ∧ ¬ 40000000 ≤ ((warm 1 0 39999999).rt - 0).toNat)
    ∧ (2 ^ 39 - 32 < 2 ^ 39 ∧ bit s.err.fencedDies ((2 ^ 39 - 32) / 2 ^ 36) = false ∧ s.err.badHbm.contains ((2 ^ 39 - 32) / 32 * 32) = false) := by
  decide +kernel

/-- A package in a suspend phase at time 500, and one that has frozen and is still. -/
def phase (t : SuspPhase) : State := { State.reset with susp := t, time := { State.reset.time with rt := 500 } }
def stilled : State := { phase .frozen with
  links := (List.range 16).map fun n => (n, { cut := true }), ports := (List.range 18).map fun n => (n, { cut := true })
  cells := [(0, { slots := [(0, { task with st := .frozen })] })] }

theorem witness_PowerAndSuspend_phases :
    (∀ t ∈ [SuspPhase.armed 500, .restored none (some 500), .restored (some 900) (some 500)],
        (phase t).susp = t ∧ (phase t).powered = true ∧ (phase t).landing = false ∧ (500 : Word).toNat ≤ (phase t).rt.toNat)
    ∧ (stilled.susp = .frozen ∧ stilled.landing = false ∧ allCut stilled = true ∧ enginesStill stilled = true)
    ∧ (allCut { stilled with links := [] } = false ∧ enginesStill { stilled with accs := [acc 4 .store 0x2008] } = false)
    ∧ ((phase (.restored (some 500) none)).mirHold = false ∧ (phase (.restored (some 500) none)).susp = .restored (some 500) none
      ∧ (500 : Word).toNat ≤ (phase (.restored (some 500) none)).rt.toNat) := by decide +kernel

/-! ### The machine -/

/-- Word `w` stands at the PC of conductor 3, followed by `lit`, and it is about to issue. -/
def fetches (w lit : Nat) : State :=
  { cd [] fun c => { c with pc := own 0x10, imem := Memory.writeN (Memory.writeN [] 0x10 8 w) 0x18 8 lit } with agenda := [.issue (.cond 3)] }

/-- What fetching an instruction and its literal finds. -/
def fetched (w lit : Nat) : Bool :=
  let r : State := { fetches w lit with agenda := [] }
  mayIssue r (.cond 3) && !outranked r (.cond 3) && r.pcOf (.cond 3) == own 0x10 && match fetchWord (.cond 3) (own 0x10) r with
    | (.word v, t) => v.toNat == w && (!hasLit (w / 2 ^ 40 % 2 ^ 8) || match fetchWord (.cond 3) (own 0x18) t with | (.word v, _) => v.toNat == lit | _ => false)
    | _ => false

theorem witness_OpcodesThatTrap :
    (∀ op ∈ [0x00, 0x28, 0x2F, 0x3B, 0x4B, 0x4F, 0x69, 0x6F, 0x9E, 0xAF, 0xC9, 0xCF, 0xD9, 0xDF, 0xEA, 0xFF],
      fetched (op * 2 ^ 40) 0 = true ∧ (fetches (op * 2 ^ 40) 0).agenda = .issue (.cond 3) :: []
        ∧ timeDue { fetches (op * 2 ^ 40) 0 with agenda := [] } = none) := by decide +kernel

theorem witness_StepRunsTheInstruction :
    let w := 0x00000100C4140000
    let g := 0x00000110C4140000
    let l := 0x0000250500000000
    let v (w lit : Nat) : State :=
      let s := fetches w lit
      { s with agenda := [], seq := s.seq + 2, cur := { agent := .cond 3, pc := own 0x10, hdr := Hdr.dec w, word := BitVec.ofNat 64 w, lit := BitVec.ofNat 64 lit, seq := s.seq } }
    let runs (w lit : Nat) : Bool := termsMet (v w lit) && (badSource (v w lit) (.cond 3) (w / 2 ^ 40 % 2 ^ 8) w).isNone && !(v w lit).repeating (.cond 3)
    (fetched w 0 = true ∧ fetched l 5 = true ∧ fetched g 0 = true ∧ w / 2 ^ 40 % 2 ^ 8 ≠ 0x47 ∧ hasLit (w / 2 ^ 40 % 2 ^ 8) = false
      ∧ hasLit (l / 2 ^ 40 % 2 ^ 8) = true)
    ∧ (decode .C w 0 = .ok (⟨0, 0, 0⟩, .add ⟨3, 4, 5, 0, 0⟩) ∧ runs w 0 = true ∧ runs g 0 = true ∧ runs l 5 = true
      ∧ guardHolds ((v w 0).qpred (.cond 3)) 0 = true ∧ guardHolds ((v g 0).qpred (.cond 3)) 1 = false)
    -- a source word that cannot be corrected, and an ADRN .nan into an E4M3 tensor and into another
    ∧ (let s : State := { tk .S [] with err := { badRegs := [(0, 4)] } }; badSource s (.strand 0 0 .S) 1 w = some 0x20)
    ∧ (let nan (d : BitVec 512) : Bool := nanRefused (tk .X [] fun y => { y with h := [(15, d)] }) (.strand 0 0 .X) 0x0000C600BCC03004
       nan (desc 9 1 0) = true ∧ nan (desc 3 1 0) = false ∧ okB (decode .X 0x0000C600BCC03004 0) = true)
    -- a word whose guard is reserved, as every failure of a later check
    ∧ (fetched 0x00000180C4140000 0 = true ∧ decode .C 0x00000180C4140000 0 = .error .guard
      ∧ decode .C 0x00000100C4140001 0 = .error .mustBeZero ∧ 5 ≤ Reject.mustBeZero.sub) := by decide +kernel

theorem witness_ChecksOfAWord :
    let checks (k : Kind) (w : Nat) : List Bool :=
      let op := w / 2 ^ 40 % 2 ^ 8
      [opLegal op, strandOk k op, waitSigOk k (w / 2 ^ 56 % 2 ^ 8) (w / 2 ^ 48 % 2 ^ 8), w / 2 ^ 36 % 2 ^ 4 != 8, ok5 k op (w % 2 ^ 36) 0, ok6 k op (w % 2 ^ 36)]
    (checks .S 0).take 1 = [false]
    ∧ (checks .A 0x0000700000000000).take 2 = [true, false]
    ∧ (checks .S 0x00230100C4140000).take 3 = [true, true, false]
    ∧ (checks .S 0x00000180C4140000).take 4 = [true, true, true, false]
    ∧ (checks .A 0x00005001892B9010).take 5 = [true, true, true, true, false]
    ∧ checks .X 0x00000100C4140001 = [true, true, true, true, true, false]
    ∧ checks .S 0x00000100C4140000 = [true, true, true, true, true, true] := by decide +kernel

theorem witness_DecodeOfEncode : (Instr.add ⟨3, 4, 5, 0, 0⟩).wf .S ⟨0, 0, 0⟩ = true ∧ (Instr.liw ⟨20, 0, 0⟩ 5).wf .C ⟨0, 0, 4⟩ = true := by decide +kernel

theorem witness_EveryStepKeepsMemory : (match step State.reset with | .next t => t.mem == [] && t.keyTag == [] | _ => false) = true := by decide +kernel

theorem witness_MemoryReadsBack : MemoryOk State.reset ∧ MemoryOk { State.reset with mem := tables } := by
  unfold MemoryOk; decide +kernel

/-- A held store whose time has come is due, and so is the freeze at T; REP finds the word after it. -/
theorem witness_StepRunsTheInstruction_due :
    let h : Held := { id := 4, agent := some (.strand 0 0 .S), ctx := 1, elems := [elem 0x2008], size := 3, t := 0, die := 0 }
    timeDue { fetches 0 0 with agenda := [], held := [h] } = some (.heldStorePerform 4)
    ∧ timeDue { phase (.armed 500) with agenda := [] } = some .suspendFreeze
    ∧ timeDue { phase (.restored (some 500) none) with agenda := [] } = some .resumeAtTPrime
    ∧ ((fetches 0 0).held = [] ∧ (fetches 0 0).susp = .none)
    ∧ (0x0000470000000000 / 2 ^ 40 % 2 ^ 8 = 0x47 ∧ fetched 0x0000470000000000 0x00000100C4140000 = true
      ∧ (match fetchWord (.cond 3) (own 0x18) (fetches 0x0000470000000000 0x00000100C4140000) with
        | (.word w, _) => w == 0x00000100C4140000#64 | _ => false) = true)
    ∧ (cd [] fun y => { y with repst := 0x8000000000000002#64 }).repeating (.cond 3) = true := by decide +kernel

/-! ### Words laid out from the manual (R73, R74, R76, R80): every encoded constructor, each field at its place -/

/-- A word of the manual reads as an instruction. -/
def reads (p : Nat × Instr) : Bool := decide (decodeTableWord 64 p.1 = some p.2)

theorem test_decode_scalar_integer : (([ (0x00000101A0300000, .add ⟨6, 32, 12, 0, 0⟩)
    , (0x0000020149000003, .addi ⟨5, 9, 3⟩)
    , (0x00000301D0440000, .sub ⟨7, 16, 17, 0, 0⟩)
    , (0x0000040117400000, .mul ⟨4, 23, 16, 0, 0⟩)
    , (0x00000505C4400000, .mulh ⟨23, 4, 16, 0, 0⟩)
    , (0x0000060187280000, .mulhn ⟨6, 7, 10, 0, 0⟩)
    , (0x00000700D7911000, .madd ⟨3, 23, 36, 17, 0⟩)
    , (0x0000080059100000, .div ⟨1, 25, 4, 0, 0⟩)
    , (0x00000901D0540000, .divn ⟨7, 16, 21, 0, 0⟩)
    , (0x00000A060C680000, .rem ⟨24, 12, 26, 0, 0⟩)
    , (0x00000B0247100000, .remn ⟨9, 7, 4, 0, 0⟩)
    , (0x00000C04D8400000, .and ⟨19, 24, 16, 0, 0⟩)
    , (0x00000D00C7000004, .andi ⟨3, 7, 4⟩)
    , (0x00000E0250440000, .or ⟨9, 16, 17, 0, 0⟩)
    , (0x00000F044E00000A, .ori ⟨17, 14, 10⟩)
    , (0x00001004D0580000, .xor ⟨19, 16, 22, 0, 0⟩)
    , (0x000011030E180000, .andn ⟨12, 14, 6, 0, 0⟩)
    , (0x000012055C5C0000, .shl ⟨21, 28, 23, 0, 0⟩)
    , (0x0000130182000001, .shli ⟨6, 2, 1⟩)
    , (0x0000140107280000, .shr ⟨4, 7, 10, 0, 0⟩)
    , (0x0000150143000002, .shri ⟨5, 3, 2⟩)
    , (0x0000160248300000, .sha ⟨9, 8, 12, 0, 0⟩)
    , (0x00001701CC000009, .shai ⟨7, 12, 9⟩)
    , (0x00001801C5200000, .rol ⟨7, 5, 8, 0, 0⟩)
    , (0x0000190304000000, .clz ⟨12, 4, 0, 0, 0⟩)
    , (0x00001A00D0000000, .ctz ⟨3, 16, 0, 0, 0⟩)
    , (0x00001B018F000000, .pcnt ⟨6, 15, 0, 0, 0⟩)
    , (0x00001C0342300000, .min ⟨13, 2, 12, 0, 0⟩)
    , (0x00001D024F540000, .max ⟨9, 15, 21, 0, 0⟩)
    , (0x00001E0395240000, .minn ⟨14, 21, 9, 0, 0⟩)
    , (0x00001F018F340000, .maxn ⟨6, 15, 13, 0, 0⟩)
    , (0x000020065C300000, .slt ⟨25, 28, 12, 0, 0⟩)
    , (0x0000210493740000, .sltn ⟨18, 19, 29, 0, 0⟩)
    , (0x00002204D0300000, .seq ⟨19, 16, 12, 0, 0⟩)
    , (0x000023074149B000, .sel ⟨29, 1, 18, 27, 0⟩)
    , (0x0000240200000002, .li ⟨8, 0, 2⟩)
    , (0xE8E01D57EAAE47710000250040000000, .liw ⟨1, 0, 0⟩ 0xe8e01d57eaae4771#64)
    , (0x000026028B000001, .bext ⟨10, 11, 0, 0, 1⟩)
    , (0x00002705485C0004, .bins ⟨21, 8, 23, 0, 4⟩) ] : List (Nat × Instr)).all reads) = true := by decide +kernel

theorem test_decode_scalar_float_and_control : (([ (0x0000300049300400, .fadd ⟨1, 9, 12, 0, 1024⟩)
    , (0x0000310396880200, .fsub ⟨14, 22, 34, 0, 512⟩)
    , (0x00003200CE780200, .fmul ⟨3, 14, 30, 0, 512⟩)
    , (0x00003300C5100400, .fdiv ⟨3, 5, 4, 0, 1024⟩)
    , (0x0000340C30000400, .fsqrt ⟨48, 48, 0, 0, 1024⟩)
    , (0x0000350C53673200, .ffma ⟨49, 19, 25, 51, 512⟩)
    , (0x000036081F3C0200, .fmin ⟨32, 31, 15, 0, 512⟩)
    , (0x0000370408300000, .fmax ⟨16, 8, 12, 0, 0⟩)
    , (0x0000380582500004, .fcmp ⟨22, 2, 20, 0, 4⟩)
    , (0x000039005C000004, .fcvt ⟨1, 28, 0, 0, 4⟩)
    , (0x00003A07E8000200, .fclass ⟨31, 40, 0, 0, 512⟩)
    , (0x00003C051740001C, .beq ⟨20, 23, 1, 0, 28⟩)
    , (0x00003D055480000C, .bne ⟨21, 20, 2, 0, 12⟩)
    , (0x00003E054F400012, .blt ⟨21, 15, 1, 0, 18⟩)
    , (0x00003F038B80000C, .bge ⟨14, 11, 2, 0, 12⟩)
    , (0x00004004D2800009, .bltn ⟨19, 18, 2, 0, 9⟩)
    , (0x000041011B400006, .bgen ⟨4, 27, 1, 0, 6⟩)
    , (0x0000420000000001, .jmp ⟨0, 0, 0, 0, 1⟩)
    , (0x00004302C0000005, .jal ⟨11, 0, 0, 0, 5⟩)
    , (0x00004403C6000000, .jr ⟨15, 6, 0, 0, 0⟩)
    , (0x0000450008000011, .loopi ⟨0, 8, 17⟩)
    , (0x0000460000000003, .loop ⟨0, 0, 0, 0, 3⟩)
    , (0x000047000700000A, .rep ⟨0, 7, 10⟩)
    , (0x0000480000000000, .yield ⟨0⟩)
    , (0x0000490000000000, .endStrand ⟨0⟩)
    , (0x00004A0000000000, .nop ⟨0⟩) ] : List (Nat × Instr)).all reads) = true := by decide +kernel

theorem test_decode_memory : (([ (0x000050073A8EA00C, .ld ⟨28, 58, 8, 3, 5, 2, 12⟩)
    , (0x00005106F0CE9002, .st ⟨27, 48, 12, 3, 5, 1, 2⟩)
    , (0x0000570005000002, .prefL1 ⟨0, 5, 0, 0, 0, 0, 2⟩)
    , (0x000057001E040009, .prefL2 ⟨0, 30, 0, 1, 0, 0, 9⟩)
    , (0x0000680030800001, .cinvLine ⟨0, 48, 8, 0, 0, 0, 1⟩)
    , (0x0000680000240000, .cinvDie ⟨0, 0, 2, 1, 0, 0, 0⟩)
    , (0x0000680000180000, .cinvPkg ⟨0, 0, 1, 2, 0, 0, 0⟩)
    , (0x00005408CFA42EC5, .amo ⟨35, 15, 41, 0, 11, 2, 6, 5⟩)
    , (0x000055055BDC1D70, .cas ⟨21, 27, 55, 0, 7, 1, 3, 16⟩)
    , (0x00005600001DD7D0, .fence ⟨0, 0, 1955792⟩)
    , (0x00005807384F2142, .vld ⟨28, 56, 4, 3, 6, 2, 322⟩)
    , (0x00005902065D1944, .vst ⟨8, 6, 5, 3, 2, 1, 2372⟩)
    , (0x00005A02051CA00F, .vgth ⟨8, 5, 7, 10, 15⟩)
    , (0x00005B068D444002, .vsct ⟨26, 13, 17, 4, 2⟩)
    , (0x0000530C59803FCB, .stat ⟨49, 25, 32, 0, 15, 3, 6, 11⟩)
    , (0x0000520352382EDC, .ldnb ⟨13, 18, 14, 0, 11, 2, 6, 28⟩)
    , (0x00005C061301EA6D, .pld ⟨24, 19, 0, 7, 10, 2, 3, 13⟩)
    , (0x00005D048F03626A, .pst ⟨18, 15, 0, 13, 8, 2, 3, 10⟩)
    , (0x00005E02A4996673, .pamo ⟨10, 36, 38, 5, 9, 2, 3, 19⟩)
    , (0x00005F061C16E6C0, .pcas ⟨24, 28, 5, 11, 9, 2, 6, 0⟩)
    , (0x000060059A8725CF, .pstat ⟨22, 26, 33, 12, 9, 1, 6, 15⟩)
    , (0x00006107078651AA, .pldnb ⟨28, 7, 33, 9, 4, 1, 5, 10⟩)
    , (0x0000620591143B26, .mcst ⟨22, 17, 5, 0, 14, 3, 1, 6⟩)
    , (0x00006308CFB41F2D, .bst ⟨35, 15, 45, 0, 7, 3, 1, 13⟩)
    , (0x00006407FA103F47, .bamo ⟨31, 58, 4, 0, 15, 3, 2, 7⟩)
    , (0x0000650E05002FAF, .bld ⟨56, 5, 0, 0, 11, 3, 5, 15⟩)
    , (0x0000660010383000, .mcpy ⟨0, 16, 14, 3, 0⟩)
    , (0x000066015408D010, .mcpyFp ⟨5, 20, 2, 13, 16⟩)
    , (0x00006603C06CC020, .mcpyHash ⟨15, 0, 27, 12, 32⟩)
    , (0x0000670AD6808040, .mcmp ⟨43, 22, 32, 8, 64⟩) ] : List (Nat × Instr)).all reads) = true := by decide +kernel

theorem test_decode_vector_a : (([ (0x0000700EE6A03250, .vadd ⟨29, 25, 21, 0, 12, 9, 1, 0⟩)
    , (0x00007106D9E05C60, .vsub ⟨13, 22, 15, 0, 23, 1, 2, 0⟩)
    , (0x0000720C45408490, .vmul ⟨24, 17, 10, 0, 33, 2, 1, 0⟩)
    , (0x0000730831C3AC90, .vfma ⟨16, 12, 14, 3, 43, 2, 1, 0⟩)
    , (0x0000740615F15890, .vfms ⟨12, 5, 15, 17, 22, 2, 1, 0⟩)
    , (0x000075027780AF00, .vmin ⟨4, 29, 28, 0, 43, 12, 0, 0⟩)
    , (0x0000760EE2800700, .vmax ⟨29, 24, 20, 0, 1, 12, 0, 0⟩)
    , (0x00007701C4000210, .vabs ⟨3, 17, 0, 0, 0, 8, 1, 0⟩)
    , (0x0000780014000210, .vneg ⟨0, 5, 0, 0, 0, 8, 1, 0⟩)
    , (0x00007909D6002C00, .vand ⟨19, 21, 16, 0, 11, 0, 0, 0⟩)
    , (0x00007A081A400400, .vor ⟨16, 6, 18, 0, 1, 0, 0, 0⟩)
    , (0x00007B02E140B400, .vxor ⟨5, 24, 10, 0, 45, 0, 0, 0⟩)
    , (0x00007C0954008400, .vnot ⟨18, 21, 0, 0, 33, 0, 0, 0⟩)
    , (0x00007D0757204400, .vshl ⟨14, 21, 25, 0, 17, 0, 0, 0⟩)
    , (0x00007E0A28E03400, .vshr ⟨20, 10, 7, 0, 13, 0, 0, 0⟩)
    , (0x00007F08B3401000, .vsha ⟨17, 12, 26, 0, 4, 0, 0, 0⟩)
    , (0x00008000B840D701, .vcmp ⟨1, 14, 2, 0, 53, 12, 0, 1⟩)
    , (0x0000810727920C00, .vsel ⟨14, 9, 28, 18, 3, 0, 0, 0⟩)
    , (0x0000820250003400, .vmov ⟨4, 20, 0, 0, 13, 0, 0, 0⟩)
    , (0x00008308EC007000, .vbcst ⟨17, 27, 0, 0, 28, 0, 0, 0⟩)
    , (0x000084073FE0AC00, .viota ⟨14, 15, 31, 0, 43, 0, 0, 0⟩)
    , (0x0000850697C00000, .vext ⟨13, 5, 30, 0, 0, 0, 0, 0⟩)
    , (0x00008600B5800000, .vins ⟨1, 13, 12, 0, 0, 0, 0, 0⟩) ] : List (Nat × Instr)).all reads) = true := by decide +kernel

theorem test_decode_vector_b : (([ (0x0000870AC8005AA4, .vcvt ⟨21, 18, 0, 0, 22, 10, 2, 4⟩)
    , (0x000088099D00C0C0, .vcvts ⟨19, 7, 8, 0, 48, 3, 0, 0⟩)
    , (0x00008903800003C2, .vpack ⟨7, 0, 0, 0, 0, 15, 0, 2⟩)
    , (0x00008A0280000284, .vunpk ⟨5, 0, 0, 0, 0, 10, 0, 4⟩)
    , (0x00008B0688008040, .vrcp ⟨13, 2, 0, 0, 32, 1, 0, 0⟩)
    , (0x00008C03C4002C00, .vrsq ⟨7, 17, 0, 0, 11, 0, 0, 0⟩)
    , (0x00008D010800C480, .vexp2 ⟨2, 2, 0, 0, 49, 2, 0, 0⟩)
    , (0x00008E0340007040, .vlog2 ⟨6, 16, 0, 0, 28, 1, 0, 0⟩)
    , (0x00008F01D000A480, .vsin ⟨3, 20, 0, 0, 41, 2, 0, 0⟩)
    , (0x0000900F4000FC80, .vtanh ⟨30, 16, 0, 0, 63, 2, 0, 0⟩)
    , (0x000091019400BC50, .vreds ⟨3, 5, 0, 0, 47, 1, 1, 0⟩)
    , (0x0000920D8000F301, .vredm ⟨27, 0, 0, 0, 60, 12, 0, 1⟩)
    , (0x0000930F20005650, .vscan ⟨30, 8, 0, 0, 21, 9, 1, 0⟩)
    , (0x0000940FC5A0A800, .vperm ⟨31, 17, 13, 0, 42, 0, 0, 0⟩)
    , (0x0000950491A76400, .vlsh ⟨9, 4, 13, 7, 25, 0, 0, 0⟩)
    , (0x0000960D42605800, .vlrot ⟨26, 16, 19, 0, 22, 0, 0, 0⟩)
    , (0x0000970714EF4410, .vfam ⟨14, 5, 7, 15, 17, 0, 1, 0⟩)
    , (0x0000980722AA4010, .vfax ⟨14, 8, 21, 10, 16, 0, 1, 0⟩)
    , (0x00009906D6683D30, .vdot4 ⟨13, 21, 19, 8, 15, 4, 3, 0⟩)
    , (0x00009A068400A5C3, .vtopk ⟨13, 1, 0, 0, 41, 7, 0, 3⟩)
    , (0x00009B03B8003003, .vdefq ⟨7, 14, 0, 0, 12, 0, 0, 3⟩)
    , (0x00009C00983E0003, .vdefd ⟨1, 6, 1, 30, 0, 0, 0, 3⟩)
    , (0x00009D0000200000, .vdefn ⟨0, 0, 1, 0, 0, 0, 0, 0⟩) ] : List (Nat × Instr)).all reads) = true := by decide +kernel

theorem test_decode_tiles : (([ (0x0000B00800500000, .thndLd ⟨8, 0, 0, 0, 10, 0, 0, 0⟩)
    , (0x0000B00080780001, .thndSetc ⟨0, 8, 0, 0, 15, 0, 0, 1⟩)
    , (0x0000B00060180002, .thndAddc ⟨0, 6, 0, 0, 3, 0, 0, 2⟩)
    , (0x0000B000A0680003, .thndGetc ⟨0, 10, 0, 0, 13, 0, 0, 3⟩)
    , (0x0000B10FB2880C00, .tfill ⟨15, 11, 0, 1, 17, 0, 3, 0⟩)
    , (0x42C0020D1591000000B20DF9000400, .tfillm ⟨13, 15, 2, 0, 32, 0, 1, 0⟩ ⟨66, false, ⟨1, 0, 3, 4, 5, 6, 1, 0, 2, 0, 0⟩⟩)
    , (0x0000B30E31280400, .talloc ⟨14, 3, 0, 0, 37, 0, 1, 0⟩)
    , (0x0000B40E8A001000, .tdrain ⟨14, 8, 2, 1, 0, 0, 4, 0⟩)
    , (0x0000B509C0680000, .tpost ⟨9, 12, 0, 0, 13, 0, 0, 0⟩)
    , (0x0000B60790000400, .thint ⟨7, 9, 0, 0, 0, 0, 1, 0⟩)
    , (0x0000B70060680400, .tpref ⟨0, 6, 0, 0, 13, 0, 1, 0⟩)
    , (0x0000B80100600000, .titin ⟨1, 0, 0, 0, 12, 0, 0, 0⟩)
    , (0x0000B90C60000000, .tinv ⟨12, 6, 0, 0, 0, 0, 0, 0⟩)
    , (0x0000BA063BF30000, .tld ⟨6, 3, 2, 1, 62, 12, 0, 0⟩)
    , (0x0000BB01AF5AC000, .tst ⟨1, 10, 3, 1, 43, 11, 0, 0⟩)
    , (0x0000BC04FAA58000, .tgth ⟨4, 15, 2, 1, 20, 22, 0, 0⟩)
    , (0x0000BD0FEA66C000, .tsct ⟨15, 14, 2, 1, 12, 27, 0, 0⟩)
    , (0x0000BE0A50380000, .tver ⟨10, 5, 0, 0, 7, 0, 0, 0⟩)
    , (0x0000BF0C70680000, .tqrel ⟨12, 7, 0, 0, 13, 0, 0, 0⟩) ] : List (Nat × Instr)).all reads) = true := by decide +kernel

theorem test_decode_matrix_and_engines : (([ (0x0000C0033669B9C0, .mma ⟨1, 4, 13, 9, 10, 6, 3, 1, 3, 2, 0⟩)
    , (0x0000C10CE887F3C0, .mmas ⟨6, 3, 10, 2, 1, 15, 3, 0, 7, 2, 0⟩)
    , (0x0000C20400000000, .aclr ⟨2, 0, 0, 0, 0, 0, 0, 0, 0, 0, 0⟩)
    , (0x0000C30280000000, .acommit ⟨1, 2, 0, 0, 0, 0, 0, 0, 0, 0, 0⟩)
    , (0x0000C40200000000, .adiscard ⟨1, 0, 0, 0, 0, 0, 0, 0, 0, 0, 0⟩)
    , (0x0000C50840000000, .amov ⟨4, 1, 0, 0, 0, 0, 0, 0, 0, 0, 0⟩)
    , (0x0000C600BCC03004, .adrn ⟨0, 2, 15, 3, 0, 0, 3, 0, 0, 0, 4⟩)
    , (0x0000C70012010000, .kset ⟨0, 18, 0, 16, 0⟩)
    , (0x0000C80580024001, .kget ⟨22, 0, 0, 36, 1⟩)
    , (0x0000D00189000004, .launch ⟨6, 9, 0, 0, 4⟩)
    , (0x0000D10292540002, .qpush ⟨10, 18, 21, 0, 2⟩)
    , (0x0000D2064940000B, .semw ⟨25, 9, 16, 0, 11⟩)
    , (0x0000D30303080001, .semadd ⟨12, 3, 2, 0, 1⟩)
    , (0x0000D40140004000, .bara ⟨5, 0, 0, 4, 0⟩)
    , (0x0000D50700016000, .barw ⟨28, 0, 0, 22, 0⟩)
    , (0x0000D6000930200F, .barm ⟨0, 9, 12, 2, 15⟩)
    , (0x0000D70091000007, .coll ⟨2, 17, 0, 0, 7⟩)
    , (0x0000D8024C000000, .collw ⟨9, 12, 0, 0, 0⟩) ] : List (Nat × Instr)).all reads) = true := by decide +kernel

theorem test_decode_system : (([ (0x0000E00140002000, .sysr ⟨5, 0, 2, 0⟩)
    , (0x0000E10003012000, .sysw ⟨0, 3, 18, 0⟩)
    , (0x0000E20000000001, .trap ⟨0, 0, 1⟩)
    , (0x0000E30000000000, .eret ⟨0⟩)
    , (0x0000E40001000006, .ppt ⟨0, 1, 6⟩)
    , (0x0000E50040000000, .time ⟨1, 0, 0, 0, 0⟩)
    , (0x0000E50088000001, .timeNbt ⟨2, 8, 0, 0, 1⟩)
    , (0x0000E60002000000, .tlbiAsid ⟨0, 2, 0, 0, 0⟩)
    , (0x0000E60007280001, .tlbiPage ⟨0, 7, 10, 0, 1⟩)
    , (0x0000E60000000002, .tlbiAll ⟨0, 0, 0, 0, 2⟩)
    , (0x0000E70000000000, .iflush ⟨0⟩)
    , (0x0000E80000000001, .brk ⟨0, 0, 1⟩)
    , (0x0000E90380000002, .waite ⟨14, 0, 2⟩) ] : List (Nat × Instr)).all reads) = true := by decide +kernel

/-! ### The manual's worked words, its refused words, and ill-formed terms -/

def workedWords : List (Nat × Instr) :=
    [ (0x00000100C4140000, .add ⟨3, 4, 5, 0, 0⟩)
      , (0x000026010500020F, .bext ⟨4, 5, 0, 0, 0x20F⟩), (0x0000270180100A0F, .bins ⟨6, 0, 4, 0, 0xA0F⟩), (0x00003900C4000406, .fcvt ⟨3, 4, 0, 0, 0x406⟩)
      , (0x0000450008000053, .loopi ⟨0, 8, 0x53⟩), (0x0000501509010000, .ld ⟨20, 9, 0, 0, 2, 0, 0⟩), (0x0000021249000004, .addi ⟨9, 9, 4⟩)
      , (0x0000042595540000, .mul ⟨22, 21, 21, 0, 0⟩), (0x000001328A5C0000, .add ⟨10, 10, 23, 0, 0⟩), (0x00004600000FFFFC, .loop ⟨0, 0, 0, 0, 0xFFFFC⟩)
      , (0x00004A0000000000, .nop ⟨0⟩), (0xE200490000000000, .endStrand ⟨0⟩), (0x0000560000000CA0, .fence ⟨0, 0, 0xCA0⟩)
      , (0x0000530189500E41, .stat ⟨6, 9, 20, 0, 3, 2, 2, 1⟩), (0x00005201CA540E41, .ldnb ⟨7, 10, 21, 0, 3, 2, 2, 1⟩), (0x000050020A392008, .ld ⟨8, 10, 3, 2, 2, 2, 8⟩)
      , (0x00009B01D0002C01, .vdefq ⟨3, 20, 0, 0, 11, 0, 0, 1⟩), (0x00009C0430690001, .vdefd ⟨8, 12, 3, 9, 0, 0, 0, 1⟩), (0x00009D0500600000, .vdefn ⟨10, 0, 3, 0, 0, 0, 0, 0⟩) ]
      ++ [ (0x0000950188A60000, .vlsh ⟨3, 2, 5, 6, 0, 0, 0, 0⟩), (0x000097020CE401C0, .vfam ⟨4, 3, 7, 4, 0, 7, 0, 0⟩)
      , (0x0042C0020D159100 * 2 ^ 64 + 0x0000B20560580000, .tfillm ⟨5, 6, 0, 0, 11, 0, 0, 0⟩ ⟨0x42, false, ⟨1, 0, 3, 4, 5, 6, 1, 0, 2, 0, 0⟩⟩)
      , (0x4000C6005E001000, .adrn ⟨0, 1, 7, 8, 0, 0, 1, 0, 0, 0, 0⟩), (0x0000D40000005000, .bara ⟨0, 0, 0, 5, 0⟩), (0x0000D200CA2C0000, .semw ⟨3, 10, 11, 0, 0⟩)
      , (0x0000E50200000000, .time ⟨8, 0, 0, 0, 0⟩), (0x0000E4000C000305, .ppt ⟨0, 12, 0x305⟩), (0x0000D100CA2C0000, .qpush ⟨3, 10, 11, 0, 0⟩)
      , (0x0000720284400000, .vmul ⟨5, 1, 2, 0, 0, 0, 0, 0⟩), (0x000070030C800000, .vadd ⟨6, 3, 4, 0, 0, 0, 0, 0⟩) ]

theorem test_worked_words : workedWords.all reads = true := by decide +kernel

/-- Every row of the manual's table of refused words (R83), and one more for each rule of a field. -/
theorem test_refused_words :
    decode .S 0 0 = .error .opcode ∧ decode .A 0x0000700000000000 0 = .error .strand ∧ decode .S 0x00230100C4140000 0 = .error .waitSignal
    ∧ decode .S 0x00000180C4140000 0 = .error .guard ∧ decode .A 0x00005001892B9010 0 = .error .fieldValue
    ∧ decode .X 0x00000100C4140001 0 = .error .mustBeZero ∧ decode .S 0x00230180C4140000 0 = .error .waitSignal
    -- a third form of CINV beyond the package, a literal of TFILLM that is no MMA
    ∧ decode .S 0x00006800010C0000 0 = .error .fieldValue ∧ decode .A 0x0000B20560580000 0x0042C2020D159100 = .error .fieldValue := by decide +kernel

/-- An ill-formed term for each check, beside a well-formed one. -/
theorem test_ill_formed :
    let ok : Instr := .add ⟨3, 4, 5, 0, 0⟩
    ok.wf .S ⟨0, 0, 0⟩ = true
    -- no instruction of its own: a step of the hub
    ∧ (Instr.fwload).wf .S ⟨0, 0, 0⟩ = false
    -- a register number, a wait byte, a signal byte, a guard out of range
    ∧ (Instr.add ⟨64, 4, 5, 0, 0⟩).wf .S ⟨0, 0, 0⟩ = false ∧ ok.wf .S ⟨256, 0, 0⟩ = false ∧ ok.wf .S ⟨0, 256, 0⟩ = false ∧ ok.wf .S ⟨0, 0, 16⟩ = false
    -- a form that its row does not have
    ∧ (Instr.cinvPkg ⟨0, 1, 0, 1, 0, 0, 0⟩).wf .S ⟨0, 0, 0⟩ = false
    -- a strand that may not issue it, a signal byte with bit 0 set, the reserved guard
    ∧ (Instr.vadd ⟨1, 2, 3, 0, 0, 0, 0, 0⟩).wf .A ⟨0, 0, 0⟩ = false ∧ ok.wf .S ⟨0, 1, 0⟩ = false ∧ ok.wf .S ⟨0, 0, 8⟩ = false
    -- a reserved value, a field that must be zero
    ∧ (Instr.ld ⟨6, 9, 2, 2, 7, 1, 16⟩).wf .A ⟨0, 0, 0⟩ = false ∧ (Instr.add ⟨3, 4, 5, 1, 0⟩).wf .S ⟨0, 0, 0⟩ = false := by decide +kernel

/-! ### Results of the manual's worked examples -/

/-- The result that an instruction of conductor 3 leaves in flight: its register and value. -/
def result (i : Instr) (r : Tab Word) : Option (Nat × Word) :=
  match exec i (cd r) with
  | .next t => ((t.condOf 3).wr.getLast?).map fun q => (q.2.1, q.2.2.1)
  | _ => none

/-- R95: the extract and the insert of the worked example. -/
theorem test_bit_fields :
    result (.bext ⟨4, 5, 0, 0, 0x20F⟩) [(5, 0x0123456789ABCDEF)] = some (4, 0xABCD)
    ∧ result (.bins ⟨6, 0, 4, 0, 0xA0F⟩) [(4, 0xABCD)] = some (6, 0x00ABCD0000000000) := by decide +kernel

/-- R96: division by zero, and the most negative number by -1. -/
theorem test_division :
    result (.div ⟨1, 2, 3, 0, 0⟩) [(2, 9)] = some (1, 0xFFFFFFFFFFFFFFFF) ∧ result (.rem ⟨1, 2, 3, 0, 0⟩) [(2, 9)] = some (1, 9)
    ∧ result (.divn ⟨1, 2, 3, 0, 0⟩) [(2, 9)] = some (1, 0xFFFFFFFFFFFFFFFF) ∧ result (.remn ⟨1, 2, 3, 0, 0⟩) [(2, 9)] = some (1, 9)
    ∧ result (.div ⟨1, 2, 3, 0, 0⟩) [(2, 0x8000000000000000), (3, 0xFFFFFFFFFFFFFFFF)] = some (1, 0x8000000000000000)
    ∧ result (.rem ⟨1, 2, 3, 0, 0⟩) [(2, 0x8000000000000000), (3, 0xFFFFFFFFFFFFFFFF)] = some (1, 0)
    ∧ result (.div ⟨1, 2, 3, 0, 0⟩) [(2, 0xFFFFFFFFFFFFFFF9), (3, 2)] = some (1, 0xFFFFFFFFFFFFFFFD) := by decide +kernel

/-- R101: the conversions to I32 of the worked example, under RNE, RZ, RU and RD. -/
theorem test_fcvt :
    (∀ p ∈ [(0x006, 0xFFFFFFFFFFFFFFFE), (0x406, 0xFFFFFFFFFFFFFFFE), (0x806, 0xFFFFFFFFFFFFFFFE), (0xC06, 0xFFFFFFFFFFFFFFFD)],
      result (.fcvt ⟨3, 4, 0, 0, p.1⟩) [(4, 0xC0200000)] = some (3, BitVec.ofNat 64 p.2))
    ∧ result (.fcvt ⟨3, 4, 0, 0, 0x406⟩) [(4, 0x4F32D05E)] = some (3, 0x7FFFFFFF)
    ∧ result (.fcvt ⟨3, 4, 0, 0, 0x406⟩) [(4, 0x7FC00000)] = some (3, 0) := by decide +kernel

/-- R144: the digest of no bytes. -/
theorem test_digest_of_nothing : fingerprint (sha256 []) = 0x141CFC9842C4B0E3#64 := by decide +kernel

/-- R8, R296, R83: reset runs nothing; a word placed for the next step runs in it, here ADDI s1, s0, 7 on strand S of cell 0. -/
theorem test_placed_word :
    (match step (State.reset.withFetchWord 64 0x0000020040000007) with
      | .next t => ((t.cell 0).wr.map fun w => (w.off, w.val)) == [(8, 7)] && (t.strand 0 0 .S).pc == 8
      | _ => false) = true := by decide +kernel

/-! ### A firmware image -/

theorem read_writeL {m : Memory} (h : Memory.wf m = true) (a j : Nat) (l : List Byte) :
    Memory.read j (Memory.writeL m a l) = if a ≤ j then (l[j - a]?).getD (Memory.read j m) else Memory.read j m := by
  induction l generalizing m a with
  | nil => simp [Memory.writeL]
  | cons b l ih =>
    rw [Memory.writeL, ih (Memory.write_wf a b h), Memory.read_write h]
    by_cases hj : j = a
    · subst hj; simp
    · by_cases hl : a ≤ j
      · obtain ⟨k, rfl⟩ : ∃ k, j = a + (k + 1) := ⟨j - a - 1, by omega⟩
        simp [show a + 1 ≤ a + (k + 1) by omega, show a + (k + 1) - (a + 1) = k by omega]
      · simp [hj, hl, show ¬ a + 1 ≤ j by omega]

theorem readN_eq {m k : Memory} (a b n : Nat) (h : ∀ i < n, Memory.read (a + i) m = Memory.read (b + i) k) :
    Memory.readN m a n = Memory.readN k b n := by
  induction n generalizing a b with
  | zero => rfl
  | succ n ih =>
    have h0 := h 0 (by omega)
    rw [Memory.readN, Memory.readN, ih (a + 1) (b + 1) fun i hi => by simpa [Nat.add_assoc, Nat.add_comm 1] using h (i + 1) (by omega)]
    simp_all

theorem readN_writeN {m : Memory} (h : Memory.wf m = true) (a n v : Nat) : Memory.readN (Memory.writeN m a n v) a n = v % 256 ^ n := by
  induction n generalizing m a v with
  | zero => simp [Memory.readN, Nat.mod_one]
  | succ n ih =>
    have hw := Memory.write_wf a (BitVec.ofNat 8 v) h
    rw [Memory.readN, Memory.writeN, ih hw, Memory.read_writeN_outside hw _ (by omega), Memory.read_write h, if_pos rfl, Nat.pow_succ,
      Nat.mul_comm _ 256, Nat.mod_mul, BitVec.toNat_ofNat]

theorem readN_outside {m : Memory} (h : Memory.wf m = true) {a n o k : Nat} (v : Nat) (hj : o + k ≤ a ∨ a + n ≤ o) :
    Memory.readN (Memory.writeN m a n v) o k = Memory.readN m o k :=
  readN_eq _ _ _ fun _ hi => Memory.read_writeN_outside h v (by omega)

theorem digestLe_lt (h : BitVec 256) : digestLe h < 256 ^ 32 := by
  have : ∀ n, (List.range n).foldl (fun v i => v + (h.toNat / 256 ^ (31 - i) % 256) * 256 ^ i) 0 < 256 ^ n := by
    intro n
    induction n with
    | zero => simp
    | succ n ih =>
      rw [List.range_succ, List.foldl_append, List.foldl_cons, List.foldl_nil, Nat.pow_succ]
      have := Nat.mod_lt (h.toNat / 256 ^ (31 - n)) (show 0 < 256 by omega)
      nlinarith
  exact this 32

/-- A payload of 4,096 zero bytes, its digest, and an image of it at 0x40000 (R397) with a key of zero bytes and no signature. -/
def payloadDigest : Nat := digestLe (sha256 (List.replicate 4096 0))
def keyDigest : BitVec 256 := sha256 (List.replicate 32 0)
def fwMem : Memory := Memory.writeN (Memory.writeN (Memory.writeN tables 0x40018 32 payloadDigest) 0x40010 8 4096) 0x40000 4 0x9640

/-- The hub takes an FWLOAD of that image, and holds the digest of its key. -/
def fwState : State :=
  hst ⟨1, 0, 6, 0, 0x40000, 0, 0, 0⟩ fun t => { t with mem := fwMem, sec := { t.sec with clkey := keyDigest } }

def fwImage : Memory := Memory.writeL [] 0 (fwState.memBytes 0x40000 (0x80 + 4096 + 7856) 0)

theorem tables_wf : Memory.wf tables = true := by decide +kernel

theorem read_tables {a : Nat} (h : 0x4000 ≤ a) : Memory.read a tables = 0 := by
  have e : tables = [(0x1000, 1), (0x1001, 0x20), (0x2000, 1), (0x2001, 0x30), (0x3000, 0xB7)] := by decide +kernel
  rw [e]
  simp [Memory.read, show 0x1000 ≠ a by omega, show 0x1001 ≠ a by omega, show 0x2000 ≠ a by omega, show 0x2001 ≠ a by omega,
    show 0x3000 ≠ a by omega, Memory.unlisted]

theorem readN_tables {a : Nat} (h : 0x4000 ≤ a) (n : Nat) : Memory.readN tables a n = 0 := by
  induction n generalizing a with
  | zero => rfl
  | succ n ih => rw [Memory.readN, read_tables h, ih (by omega)]; rfl

theorem read_fwMem {a : Nat} (h : 0x40038 ≤ a) : Memory.read a fwMem = 0 := by
  have w := tables_wf
  have w1 := Memory.writeN_wf w 0x40018 32 payloadDigest
  have w2 := Memory.writeN_wf w1 0x40010 8 4096
  rw [fwMem, Memory.read_writeN_outside w2 _ (by omega), Memory.read_writeN_outside w1 _ (by omega),
    Memory.read_writeN_outside w _ (by omega), read_tables (by omega)]

theorem read_fwImage {j : Nat} (h : j < 12080) : Memory.read j fwImage = Memory.read (0x40000 + j) fwMem := by
  rw [fwImage, read_writeL rfl]
  have t : ∀ p, fwState.tagOf p = 0 := fun _ => rfl
  simp [State.memBytes, State.byteAt, t, h]
  rfl

theorem fw_field {o n : Nat} (h : o + n ≤ 12080) : imgField fwImage o n = Memory.readN fwMem (0x40000 + o) n :=
  readN_eq _ _ _ fun i hi => by rw [read_fwImage (by omega), Nat.add_assoc]

theorem fw_zeros {o n : Nat} (h : 0x38 ≤ o) (h' : o + n ≤ 12080) : Memory.readL fwImage o n = List.replicate n 0 := by
  rw [List.eq_replicate_iff]
  refine ⟨by simp [Memory.readL], fun b hb => ?_⟩
  obtain ⟨i, hi, rfl⟩ : ∃ i < n, Memory.read (o + i) fwImage = b := by simpa [Memory.readL] using hb
  rw [read_fwImage (by omega), read_fwMem (by omega)]

/-- Such an image passes where its signature does, which the model leaves open (log entry 6). -/
theorem witness_HostCommands_image (h : ∀ a b c, Config.sigVerifies a b c = true) : imageCheck fwState fwImage = none := by
  have w := tables_wf
  have w1 := Memory.writeN_wf w 0x40018 32 payloadDigest
  have w2 := Memory.writeN_wf w1 0x40010 8 4096
  have z (o n : Nat) (hz : o + n ≤ 0x10 ∧ 4 ≤ o ∨ 0x38 ≤ o ∧ o + n ≤ 12080) : imgField fwImage o n = 0 := by
    rw [fw_field (by omega), fwMem, readN_outside w2 _ (by omega), readN_outside w1 _ (by omega), readN_outside w _ (by omega),
      readN_tables (by omega)]
  have h0 : imgField fwImage 0 4 = 0x9640 := by rw [fw_field (by omega), fwMem, readN_writeN w2]; rfl
  have h3 : imgField fwImage 0x10 8 = 4096 := by
    rw [fw_field (by omega), fwMem, readN_outside w2 _ (by omega), readN_writeN w1]; rfl
  have hd : imgField fwImage 0x18 32 = payloadDigest := by
    rw [fw_field (by omega), fwMem, readN_outside w2 _ (by omega), readN_outside w1 _ (by omega), readN_writeN w]
    exact Nat.mod_eq_of_lt (digestLe_lt _)
  have hk : fwState.sec.clkey = keyDigest := rfl
  have hq : sha256 (List.replicate 32 0) = keyDigest := rfl
  have hp : digestLe (sha256 (List.replicate 4096 0)) = payloadDigest := rfl
  have hs : fwState.sec.svn = 0 := rfl
  simp only [imageCheck, h0, h3, z 0x0C 4 (by omega), z 0x58 40 (by omega), z 0x08 4 (by omega), hd, hk, hs,
    fw_zeros (o := 0x38) (n := 32) (by omega) (by omega), fw_zeros (o := 0x80) (n := 4096) (by omega) (by omega), h, hq, hp]
  simp

end Sys2Proof.Tests
end

section
/-! SUPPORT. The opcodes that are not instructions (R81): what their words decode to, and what an agent that finds one at its PC does. -/

namespace Sys2Proof

/-- Opcodes that R81 lists lie in none of the ranges of instructions. -/
theorem opLegal_of_listed {op : Nat}
    (h : op = 0x00 ∨ (0x28 ≤ op ∧ op ≤ 0x2F) ∨ op = 0x3B ∨ (0x4B ≤ op ∧ op ≤ 0x4F) ∨ (0x69 ≤ op ∧ op ≤ 0x6F)
      ∨ (0x9E ≤ op ∧ op ≤ 0xAF) ∨ (0xC9 ≤ op ∧ op ≤ 0xCF) ∨ (0xD9 ≤ op ∧ op ≤ 0xDF) ∨ (0xEA ≤ op ∧ op ≤ 0xFF)) :
    opLegal op = false := by
  rw [← Bool.not_eq_true]
  simp only [opLegal, Bool.or_eq_true, Bool.and_eq_true, decide_eq_true_eq]
  omega

/-- The opcode is the first check of a word (R83). -/
theorem decode_of_not_opLegal {w : Nat} (h : opLegal (opOf w) = false) (k : Kind) (lit : Nat) :
    decode k w lit = .error .opcode :=
  if_pos ((Bool.not_eq_true' _).mpr h)

/-- Both opcodes that carry a literal are instructions (R74). -/
theorem opLegal_of_hasLit {op : Nat} (h : hasLit op = true) : opLegal op = true := by
  simp only [hasLit, Bool.or_eq_true, beq_iff_eq] at h
  obtain rfl | rfl := h <;> rfl

theorem wordsOf_of_not_opLegal {op : Nat} (h : opLegal op = false) : wordsOf op = 1 := by
  refine if_neg fun hl => ?_
  simp [opLegal_of_hasLit hl] at h

namespace Machine

/-- A word that is no instruction fails with sub-code 1, its literal never looked at. -/
theorem rejectsEarly_of_not_opLegal {w : Nat} (h : opLegal (opOf w) = false) (s : State) (a : Agent) :
    rejectsEarly s a w = some 1 := by
  have sub : wordSub s a w 0 = some 1 := by simp [wordSub, decode_of_not_opLegal h, Reject.sub]
  rw [rejectsEarly, sub]
  simp

/-- A word that fails before its literal is looked at is rejected at the PC it was fetched from. -/
theorem lookAt_of_rejectsEarly {s t : State} {a : Agent} {w : Word} {n : Nat} (hf : fetchWord a (s.pcOf a) s = (.word w, t))
    (hr : rejectsEarly t a w.toNat = some n) :
    lookAt a s = (.reject { agent := a, pc := s.pcOf a, hdr := Hdr.dec w.toNat, word := w, seq := t.seq
                            len := wordsOf (opOf w.toNat) } n, t) := by
  simp only [lookAt, hf, hr]

/-- An agent that may issue takes the trap of a rejected word at once: no term of R46 holds it back. -/
theorem attempt_of_reject {s t : State} {a : Agent} {cur : Cur} {n : Nat} (hm : mayIssue s a = true)
    (hl : lookAt a s = (.reject cur n, t)) : attempt a s = .takes (.next (illegal n { t with cur := cur })) := by
  simp only [attempt, hm, hl, Bool.not_true, Bool.false_eq_true, if_false]

/-- The agent that its cell chooses does what its attempt came to (R47). -/
theorem issueMove_of_takes {s : State} {a : Agent} {o : Out} (ha : attempt a s = .takes o) (hr : outranked s a = false) :
    issueMove a s = o := by
  simp only [issueMove, ha, hr, Bool.false_eq_true, if_false]

/-- A step whose move is an agent's issue, where Reticle time has brought about nothing. -/
theorem step_of_issue {s : State} {a : Agent} {rest : List Move} (hs : s.agenda = .issue a :: rest)
    (hd : timeDue { s with agenda := rest } = none) : step s = settle (issueMove a { s with agenda := rest }) := by
  simp only [step, takeMove, hs, moveStep, hd, moveNow]

/-- Settles O52: the opcode is the first check at decode and the trap waits for nothing else. -/
theorem opcodesThatTrap : Obligations.OpcodesThatTrap := by
  intro op hop
  have illegalOp : opLegal op = false := opLegal_of_listed hop
  constructor
  · rintro k w lit rfl
    exact decode_of_not_opLegal illegalOp k lit
  · intro s t a rest w hs u due may first found hw
    subst hw
    have look := lookAt_of_rejectsEarly found (rejectsEarly_of_not_opLegal illegalOp t a)
    rw [show wordsOf (opOf w.toNat) = 1 from wordsOf_of_not_opLegal illegalOp] at look
    rw [step_of_issue hs due, issueMove_of_takes (attempt_of_reject may look) first]
    rfl

end Machine

end Sys2Proof
end

section
/-! SUPPORT. Division (R96) and FCLASS (R102): the results that their tables give. -/

namespace Sys2Proof.Machine

/-! ## The four divisions -/

/-- The four divisions complete with what their functions make of the operands, whatever the divisor is. -/
theorem divisions_complete {s : State} (ok : AgentOk s.cur.agent = true) {x : FmtA} {div rem divn remn : Word}
    (hdiv : divS (s.rs x.a) (s.rs x.b) = div) (hrem : remS (s.rs x.a) (s.rs x.b) = rem)
    (hdivn : divU (s.rs x.a) (s.rs x.b) = divn) (hremn : remU (s.rs x.a) (s.rs x.b) = remn) :
    CompletesS (.div x) s x.d div 34 ∧ CompletesS (.rem x) s x.d rem 34
      ∧ CompletesS (.divn x) s x.d divn 34 ∧ CompletesS (.remn x) s x.d remn 34 :=
  ⟨completesD ok (exec_div x s) hdiv, completesD ok (exec_rem x s) hrem,
    completesD ok (exec_divn x s) hdivn, completesD ok (exec_remn x s) hremn⟩

theorem divS_of_ne_zero (a : Word) {b : Word} (h : b ≠ 0) : divS a b = BitVec.ofInt 64 (a.toInt.tdiv b.toInt) := by
  rw [divS, if_neg h, toW_eq]

theorem divU_of_ne_zero (a : Word) {b : Word} (h : b ≠ 0) : divU a b = BitVec.ofNat 64 (a.toNat / b.toNat) := if_neg h

/-- The signed remainder is what the truncated quotient leaves of the dividend. -/
theorem remS_of_ne_zero (a : Word) {b : Word} (h : b ≠ 0) :
    remS a b = BitVec.ofInt 64 (a.toInt - a.toInt.tdiv b.toInt * b.toInt) := by
  rw [remS, if_neg h, toW_eq, Int.tmod_def, Int.mul_comm]

/-- The unsigned remainder is what the quotient leaves of the dividend. -/
theorem remU_of_ne_zero (a : Word) {b : Word} (h : b ≠ 0) :
    remU a b = BitVec.ofNat 64 (a.toNat - a.toNat / b.toNat * b.toNat) := by
  rw [remU, if_neg h, Nat.mod_def, Nat.mul_comm]

/-- Settles O2, by the three rows of R96's table: a divisor of zero, the one quotient that no register holds, and the rest. -/
theorem divisionNeverTraps : Obligations.DivisionNeverTraps := by
  intro s x ok a b most ones out
  refine ⟨fun zero => ?_, fun isMost isOnes => ?_, fun nonzero _ => ?_⟩
  · exact divisions_complete ok (if_pos zero) (if_pos zero) (if_pos zero) (if_pos zero)
  · have ha : s.rs x.a = BitVec.ofNat 64 (2 ^ 63) := isMost
    have hb : s.rs x.b = BitVec.ofNat 64 (2 ^ 64 - 1) := isOnes
    apply divisions_complete ok <;> rw [ha, hb] <;> decide
  · exact divisions_complete ok (divS_of_ne_zero a nonzero) (remS_of_ne_zero a nonzero)
      (divU_of_ne_zero a nonzero) (remU_of_ne_zero a nonzero)

/-! ## FCLASS -/

/-- R102's table: the place of the bit that names the class of an encoding, from its sign, its exponent and its fraction, where
`most` is the exponent of all ones. -/
def classBit (sign : Bool) (expo frac most : Nat) : Nat :=
  if expo = most then (if frac ≠ 0 then 8 else if sign then 0 else 7)
  else if expo = 0 then (if frac = 0 then (if sign then 3 else 4) else if sign then 2 else 5)
  else if sign then 1 else 6

/-- Scaling by a power of two keeps the sign. -/
theorem pow2_num_neg_iff (n e : Int) : (Q.pow2 n e).num < 0 ↔ n < 0 := by
  unfold Q.pow2
  split
  · exact ⟨fun h => neg_of_mul_neg_left h (by positivity), fun h => mul_neg_of_neg_of_pos h (by positivity)⟩
  · exact Iff.rfl

/-- The sign of a value made of a sign bit and a nonzero magnitude. -/
theorem signed_neg_iff (sign : Bool) {n : Nat} (h : n ≠ 0) : (if sign then (-1 : Int) else 1) * (n : Int) < 0 ↔ sign = true := by
  cases sign with
  | false => simp
  | true => simp [Nat.pos_of_ne_zero h]

/-! The three fields of an encoding (R52). -/

def signField (t : ETy) (v : Nat) : Bool := bit v (t.width - 1)
def expoField (t : ETy) (v : Nat) : Nat := v / 2 ^ t.mant % 2 ^ (t.width - 1 - t.mant)
def fracField (t : ETy) (v : Nat) : Nat := v % 2 ^ t.mant

/-- A sign bit, an exponent and a fraction fill the width of a format with infinities. -/
theorem mant_lt_width {t : ETy} (h : t.ieee = true) : t.mant < t.width := by
  revert h; cases t <;> decide

/-- A field that lies below bit `w` reads the same once the bits from `w` on are cut off. -/
theorem field_mod_two_pow {w lo len : Nat} (h : lo + len ≤ w) (v : Nat) : v % 2 ^ w / 2 ^ lo % 2 ^ len = v / 2 ^ lo % 2 ^ len := by
  obtain ⟨k, rfl⟩ := Nat.exists_eq_add_of_le h
  rw [Nat.add_assoc, Nat.pow_add, Nat.mod_mul_right_div_self, Nat.pow_add, Nat.mod_mul_right_mod]

section
variable {t : ETy} (h : t.ieee = true) (v : Nat)
include h

theorem signField_mod : signField t (v % 2 ^ t.width) = signField t v := by
  have := mant_lt_width h
  exact congrArg (· == 1) (field_mod_two_pow (len := 1) (by omega) v)

theorem expoField_mod : expoField t (v % 2 ^ t.width) = expoField t v := by
  have := mant_lt_width h
  exact field_mod_two_pow (by omega) v

theorem fracField_mod : fracField t (v % 2 ^ t.width) = fracField t v :=
  Nat.mod_mod_of_dvd v (Nat.pow_dvd_pow 2 (mant_lt_width h).le)

/-- What an encoding of a format with infinities stands for, by its fields (R53). -/
theorem decodeF_of_ieee : decodeF t v =
    let sign := signField t v
    let expo := expoField t v
    let frac := fracField t v
    let scale (e : Int) (n : Nat) : XR := .fin (Q.pow2 ((if sign then -1 else 1) * (n : Int)) (e - t.bias - t.mant))
    if expo = 2 ^ (t.width - 1 - t.mant) - 1 then (if frac = 0 then .inf sign else .nan)
    else if expo = 0 then (if frac = 0 then .zero sign else scale 1 frac)
    else scale expo (2 ^ t.mant + frac) := by
  have notE4m3 : t ≠ .e4m3 := by rintro rfl; cases h
  unfold decodeF
  split
  · cases h
  · simp only [h, notE4m3, decide_false, Bool.false_and, Bool.true_and, Bool.false_eq_true, if_false, decide_eq_true_eq,
      ← signField_mod h v, ← expoField_mod h v, ← fracField_mod h v]
    rfl

/-- FCLASS of an encoding of a format with infinities sets the bit of R102's table. -/
theorem fclassV_of_ieee (a : Word) : fclassV t a = 2 ^ classBit (signField t a.toNat) (expoField t a.toNat) (fracField t a.toNat)
    (2 ^ (t.width - 1 - t.mant) - 1) := by
  have expo : a.toNat % 2 ^ t.width / 2 ^ t.mant % 2 ^ (t.width - 1 - t.mant) = expoField t a.toNat := expoField_mod h _
  simp only [fclassV, decodeF_of_ieee h, signField_mod h, expoField_mod h, fracField_mod h, expo, classBit]
  generalize signField t a.toNat = sign, expoField t a.toNat = e, fracField t a.toNat = m
  by_cases top : e = 2 ^ (t.width - 1 - t.mant) - 1
  · simp only [if_pos top]
    by_cases zero : m = 0
    · simp only [if_pos zero, if_neg (not_not_intro zero)]
      cases sign <;> rfl
    · simp only [if_neg zero, if_pos zero]
  · by_cases small : e = 0
    · simp only [if_neg top, if_pos small]
      by_cases zero : m = 0
      · simp only [if_pos zero]
        cases sign <;> rfl
      · simp only [if_neg zero, pow2_num_neg_iff, signed_neg_iff sign zero]
        cases sign <;> rfl
    · have normal : 2 ^ t.mant + m ≠ 0 := by positivity
      simp only [if_neg top, if_neg small, pow2_num_neg_iff, signed_neg_iff sign normal]
      cases sign <;> rfl
end

/-- FCLASS completes with the class mask of its operand in the format that F[9] names. -/
theorem fclass_completes {s : State} (ok : AgentOk s.cur.agent = true) (x : FmtA) :
    CompletesS (.fclass x) s x.d (BitVec.ofNat 64 (fclassV (fty x.f) (s.rs x.a))) 2 := by
  have issues : exec (.fclass x) s
      = .next (retireIn 2 (writeS x.d (BitVec.ofNat 64 (fclassV (fty x.f) (s.rs x.a))) 2 s)) := by
    simp only [exec_fclass, execFclass, fpuA, ite_self]
  exact completesS_in ok issues

/-- Settles O51: the class mask is read off the fields of the encoding, and each precision has the fields that R102 names. -/
theorem fClassSetsOneBit : Obligations.FClassSetsOneBit := by
  intro s x ok double a sign expo frac most cls
  have mask : fclassV (fty x.f) (s.rs x.a) = 2 ^ cls := by
    cases precision : double with
    | false =>
      have f : fty x.f = .f32 := if_neg (Bool.not_eq_true _ ▸ precision)
      rw [f, fclassV_of_ieee rfl]
      simp only [cls, sign, expo, frac, most, precision]
      rfl
    | true =>
      have f : fty x.f = .f64 := if_pos precision
      rw [f, fclassV_of_ieee rfl]
      simp only [cls, sign, expo, frac, most, precision]
      rfl
  exact mask ▸ fclass_completes ok x

end Sys2Proof.Machine
end
